-- ==== Sys2Proof/Word.lean ====
section
/-!
DEFINITION. Sys2Proof/Word.lean: the word types of the K9 (02_words_and_opcode_map.md R24, R28;
05_sequencer.md R116) and nothing that a later repair could have to mend.
-/

namespace Sys2Proof

/-- One byte of storage. -/
abbrev Byte := BitVec 8

/-- One instruction word (R24). -/
abbrev IWord := BitVec 32

/-- A 64-bit register of either half (R116). -/
abbrev Word := BitVec 64

/-- A register field: a number 0 to 31 of the file its major assigns (R28). -/
abbrev Reg := BitVec 5

/-- A mask field: 0 unmasked, 1 to 7 a mask register (R28). -/
abbrev MReg := BitVec 3

end Sys2Proof
end

