-- ==== Sys2Proof/Syntax.lean ====
section
/-!
DEFINITION. Sys2Proof/Syntax.lean: the instructions and events of the K9 as data: one constructor of
`Instr` for each of the 450 rows of spec/opcode_table.json (02_words_and_opcode_map.md R24 to R58).
A word of a convoyable major keeps its link bit `l` as the table does (R33). The 93 rows that have no
bits are the device's own and its outside world's events; their operands say what the event names.
-/

namespace Sys2Proof

/-- Field w of ld and st (R30). -/
inductive Width | s8 | s16 | s32 | w64 | z8 | z16 | z32
deriving DecidableEq, Repr

/-- Field ord of ld and st (R30). -/
inductive MemOrd | plain | sync | strong
deriving DecidableEq, Repr

/-- Field nul of the branch and jump formats (R30). -/
inductive Nul | none | ifNot | ifTaken
deriving DecidableEq, Repr

/-- Format of a scalar floating-point word (R44). -/
inductive FpFmt | h | bf | f32 | f64
deriving DecidableEq, Repr

/-- Width code of sext and zext (R40). -/
inductive ExtW | b8 | b16 | b32
deriving DecidableEq, Repr

/-- Field mode of a vector memory word (R30). -/
inductive VMode | unit | stride | index | ff
deriving DecidableEq, Repr

/-- Field ord of vld and vst (R30). -/
inductive VOrd | plain | sync | elem
deriving DecidableEq, Repr

/-- Life-cycle states (19_launch_tenancy.md R392). -/
inductive LifeState | manufacture | provisioned | production | return | scrapped
deriving DecidableEq, Repr

/-- The three operand forms of an integer vector word: majors v, vs and vi (R46). -/
inductive VForm | vv | vs | vi
deriving DecidableEq, Repr

/-- Functions of majors v, vs and vi, in the order of their codes (R46). -/
inductive VIntFn
  | add | sub | rsub | mul | mulh | mulhz | mac | nmac | and | or | xor | shl | shr | sra | rshr | rshre
  | min | max | minz | maxz | abs | avg | div | divz | rem | remz
  | cmpeq | cmpne | cmplt | cmple | cmpltz | cmplez | sel | mv | clz | pop
deriving DecidableEq, Repr

/-- Functions of majors vf and vfs, in the order of their codes (R47). -/
inductive VFpFn
  | add | sub | mul | div | fma | fms | fnma | min | max | abs | neg | sqrt | rcpe | rsqe | exp2
  | cmpeq | cmplt | cmple | class | sgnj | maxm
deriving DecidableEq, Repr

/-- Functions of major vp, in the order of their codes (R49). -/
inductive VpFn
  | slup | sldn | rgat | cmpr | expd | xchg | sort | merge
  | rsum | rmax | rmin | rand | ror | frsum | frmax | frmin | scan | fscan
  | mand | mor | mxor | mnot | mpop | mffs | mfirst | bcast | ext | insrt
deriving DecidableEq, Repr

/-- Functions of major vw, in the order of their codes (R51). -/
inductive VwFn | wmac | wmacz | wmacsz | wadd | waddz | wmul | nsat | nsatz | nrshr
deriving DecidableEq, Repr

/-- The operands of a vector memory word (R216): data register `d`, base `a`, stride or offset register
`x`, mask `m`, addressing mode, segment field and ordering. -/
structure VMem where
  d : Reg
  a : Reg
  x : Reg
  m : MReg
  mode : VMode
  nf : BitVec 3
  ord : VOrd
deriving DecidableEq, Repr

/-- One word of a unit that holds vector or matrix words, without its link bit: the words that may stand
in a convoy (R33). A word alone and the same word in a convoy share one meaning through this type. -/
inductive CWord
  | int (form : VForm) (fn : VIntFn) (d a b : Reg) (m : MReg)
  | fp (scalar : Bool) (fn : VFpFn) (d a b : Reg) (m : MReg)
  | cvt (sat : Bool) (d a : Reg) (m : MReg)
  | qnt (d a b : Reg) (m : MReg)
  | had (d a i : Reg) (m : MReg)
  | hash (d a b : Reg) (m : MReg)
  | iota (d b : Reg) (m : MReg)
  | perm (fn : VpFn) (d a b : Reg) (m : MReg)
  | wide (fn : VwFn) (d a b : Reg) (m : MReg)
  | load (o : VMem)
  | store (o : VMem)
  | linkGet (d a x : Reg) (m : MReg)
  | linkPut (d a x : Reg) (m : MReg)
  | mzero (c : Bool)
  | mop (sub : Bool) (c : Bool) (a b : Reg)
  | mrdrow (c : Bool) (a s : Reg)
  | mwrrow (c : Bool) (a s : Reg)
  | mrdcol (c : Bool) (a s : Reg)
  | mst (c : Bool) (s : Reg)
  | mld (c : Bool) (s : Reg)
  | mmul (t : BitVec 2) (c : Bool) (a b s : Reg) (q : BitVec 3)
deriving DecidableEq, Repr

/-- The instructions and events of the K9: one constructor per row of spec/opcode_table.json. -/
inductive Instr
  /-- `k.nop` (R157): Does nothing and counts as a retired unit. -/
  | kNop
  /-- `k.trap` (R158): System call: completes its unit, then raises cause 15 with TVAL set to the code. -/
  | kTrap (c : Reg)
  /-- `k.brk` (R158): Break: raises cause 16, or stops the launch when brkstop is set. -/
  | kBrk
  /-- `k.eret` (R132): Leaves a trap, restores the queue shadow, the vector state and the program counter queue, and re-forms provisional entries. -/
  | kEret
  /-- `k.wfi` (R160): Joint word that waits until an interrupt is pending or the sequencer is pre-empted and resumed. -/
  | kWfi
  /-- `k.end` (R20): Waits for outstanding work, ORs the flags into the completion word, increments ended and releases the slot. -/
  | kEnd
  /-- `k.claim` (R130): Spills the frozen vector state and the queue shadow to the claim area and unfreezes the vector unit. -/
  | kClaim
  /-- `k.fence` (R162): Orders the sequencer's earlier and later accesses of the named kinds at a scope. -/
  | kFence (s : Reg) (t : Reg)
  /-- `k.launch` (R163): Submits a launch packet from the device and returns its status. -/
  | kLaunch (d : Reg) (a : Reg)
  /-- `k.egress` (R164): Hands one frame to the mark unit, which marks it, hashes it and sends it to the host. -/
  | kEgress (d : Reg) (a : Reg)
  /-- `k.yield` (R165): Keeps only the lane groups needed for s[ra] elements and releases the rest. -/
  | kYield (a : Reg)
  /-- `kc.rw` (R156): Reads a CSR into s[rd] and writes s[ra] to it. -/
  | kcRw (d : Reg) (a : Reg) (c : BitVec 14)
  /-- `kc.rs` (R156): Reads a CSR and sets the bits that are 1 in s[ra]. -/
  | kcRs (d : Reg) (a : Reg) (c : BitVec 14)
  /-- `kc.rc` (R156): Reads a CSR and clears the bits that are 1 in s[ra]. -/
  | kcRc (d : Reg) (a : Reg) (c : BitVec 14)
  /-- `kc.r` (R156): Reads a CSR into s[rd]. -/
  | kcR (d : Reg) (c : BitVec 14)
  /-- `a.add` (R140): a-register add. -/
  | aAdd (d : Reg) (a : Reg) (b : Reg)
  /-- `a.sub` (R140): a-register subtract. -/
  | aSub (d : Reg) (a : Reg) (b : Reg)
  /-- `a.and` (R140): a-register bitwise AND. -/
  | aAnd (d : Reg) (a : Reg) (b : Reg)
  /-- `a.or` (R140): a-register bitwise OR. -/
  | aOr (d : Reg) (a : Reg) (b : Reg)
  /-- `a.xor` (R140): a-register bitwise XOR. -/
  | aXor (d : Reg) (a : Reg) (b : Reg)
  /-- `a.shl` (R140): a-register shift left. -/
  | aShl (d : Reg) (a : Reg) (b : Reg)
  /-- `a.shr` (R140): a-register logical shift right. -/
  | aShr (d : Reg) (a : Reg) (b : Reg)
  /-- `a.sra` (R140): a-register arithmetic shift right. -/
  | aSra (d : Reg) (a : Reg) (b : Reg)
  /-- `a.slt` (R140): a-register signed set-less-than. -/
  | aSlt (d : Reg) (a : Reg) (b : Reg)
  /-- `a.sltz` (R140): a-register unsigned set-less-than. -/
  | aSltz (d : Reg) (a : Reg) (b : Reg)
  /-- `a.min` (R140): a-register signed minimum. -/
  | aMin (d : Reg) (a : Reg) (b : Reg)
  /-- `a.max` (R140): a-register signed maximum. -/
  | aMax (d : Reg) (a : Reg) (b : Reg)
  /-- `a.minz` (R140): a-register unsigned minimum. -/
  | aMinz (d : Reg) (a : Reg) (b : Reg)
  /-- `a.maxz` (R140): a-register unsigned maximum. -/
  | aMaxz (d : Reg) (a : Reg) (b : Reg)
  /-- `a.mul` (R140): a-register multiply, low 64 bits. -/
  | aMul (d : Reg) (a : Reg) (b : Reg)
  /-- `a.mulh` (R140): a-register signed multiply, high 64 bits. -/
  | aMulh (d : Reg) (a : Reg) (b : Reg)
  /-- `a.mulhz` (R140): a-register unsigned multiply, high 64 bits. -/
  | aMulhz (d : Reg) (a : Reg) (b : Reg)
  /-- `a.div` (R140): a-register signed divide. -/
  | aDiv (d : Reg) (a : Reg) (b : Reg)
  /-- `a.divz` (R140): a-register unsigned divide. -/
  | aDivz (d : Reg) (a : Reg) (b : Reg)
  /-- `a.rem` (R140): a-register signed remainder. -/
  | aRem (d : Reg) (a : Reg) (b : Reg)
  /-- `a.remz` (R140): a-register unsigned remainder. -/
  | aRemz (d : Reg) (a : Reg) (b : Reg)
  /-- `a.clz` (R140): a-register count of leading zeros. -/
  | aClz (d : Reg) (a : Reg)
  /-- `a.ctz` (R140): a-register count of trailing zeros. -/
  | aCtz (d : Reg) (a : Reg)
  /-- `a.pop` (R140): a-register population count. -/
  | aPop (d : Reg) (a : Reg)
  /-- `a.addw` (R140): a-register 32-bit add, sign-extended. -/
  | aAddw (d : Reg) (a : Reg) (b : Reg)
  /-- `a.subw` (R140): a-register 32-bit subtract, sign-extended. -/
  | aSubw (d : Reg) (a : Reg) (b : Reg)
  /-- `a.sext` (R140): a-register sign extension from 8, 16 or 32 bits. -/
  | aSext (d : Reg) (a : Reg) (w : ExtW)
  /-- `a.zext` (R140): a-register zero extension from 8, 16 or 32 bits. -/
  | aZext (d : Reg) (a : Reg) (w : ExtW)
  /-- `s.add` (R140): s-register add. -/
  | sAdd (d : Reg) (a : Reg) (b : Reg)
  /-- `s.sub` (R140): s-register subtract. -/
  | sSub (d : Reg) (a : Reg) (b : Reg)
  /-- `s.and` (R140): s-register bitwise AND. -/
  | sAnd (d : Reg) (a : Reg) (b : Reg)
  /-- `s.or` (R140): s-register bitwise OR. -/
  | sOr (d : Reg) (a : Reg) (b : Reg)
  /-- `s.xor` (R140): s-register bitwise XOR. -/
  | sXor (d : Reg) (a : Reg) (b : Reg)
  /-- `s.shl` (R140): s-register shift left. -/
  | sShl (d : Reg) (a : Reg) (b : Reg)
  /-- `s.shr` (R140): s-register logical shift right. -/
  | sShr (d : Reg) (a : Reg) (b : Reg)
  /-- `s.sra` (R140): s-register arithmetic shift right. -/
  | sSra (d : Reg) (a : Reg) (b : Reg)
  /-- `s.slt` (R140): s-register signed set-less-than. -/
  | sSlt (d : Reg) (a : Reg) (b : Reg)
  /-- `s.sltz` (R140): s-register unsigned set-less-than. -/
  | sSltz (d : Reg) (a : Reg) (b : Reg)
  /-- `s.min` (R140): s-register signed minimum. -/
  | sMin (d : Reg) (a : Reg) (b : Reg)
  /-- `s.max` (R140): s-register signed maximum. -/
  | sMax (d : Reg) (a : Reg) (b : Reg)
  /-- `s.minz` (R140): s-register unsigned minimum. -/
  | sMinz (d : Reg) (a : Reg) (b : Reg)
  /-- `s.maxz` (R140): s-register unsigned maximum. -/
  | sMaxz (d : Reg) (a : Reg) (b : Reg)
  /-- `s.mul` (R140): s-register multiply, low 64 bits. -/
  | sMul (d : Reg) (a : Reg) (b : Reg)
  /-- `s.mulh` (R140): s-register signed multiply, high 64 bits. -/
  | sMulh (d : Reg) (a : Reg) (b : Reg)
  /-- `s.mulhz` (R140): s-register unsigned multiply, high 64 bits. -/
  | sMulhz (d : Reg) (a : Reg) (b : Reg)
  /-- `s.div` (R140): s-register signed divide. -/
  | sDiv (d : Reg) (a : Reg) (b : Reg)
  /-- `s.divz` (R140): s-register unsigned divide. -/
  | sDivz (d : Reg) (a : Reg) (b : Reg)
  /-- `s.rem` (R140): s-register signed remainder. -/
  | sRem (d : Reg) (a : Reg) (b : Reg)
  /-- `s.remz` (R140): s-register unsigned remainder. -/
  | sRemz (d : Reg) (a : Reg) (b : Reg)
  /-- `s.clz` (R140): s-register count of leading zeros. -/
  | sClz (d : Reg) (a : Reg)
  /-- `s.ctz` (R140): s-register count of trailing zeros. -/
  | sCtz (d : Reg) (a : Reg)
  /-- `s.pop` (R140): s-register population count. -/
  | sPop (d : Reg) (a : Reg)
  /-- `s.addw` (R140): s-register 32-bit add, sign-extended. -/
  | sAddw (d : Reg) (a : Reg) (b : Reg)
  /-- `s.subw` (R140): s-register 32-bit subtract, sign-extended. -/
  | sSubw (d : Reg) (a : Reg) (b : Reg)
  /-- `s.sext` (R140): s-register sign extension from 8, 16 or 32 bits. -/
  | sSext (d : Reg) (a : Reg) (w : ExtW)
  /-- `s.zext` (R140): s-register zero extension from 8, 16 or 32 bits. -/
  | sZext (d : Reg) (a : Reg) (w : ExtW)
  /-- `s.bqeq` (R141): Pushes s[ra] == s[rb] onto bq. -/
  | sBqeq (a : Reg) (b : Reg)
  /-- `s.bqne` (R141): Pushes s[ra] != s[rb] onto bq. -/
  | sBqne (a : Reg) (b : Reg)
  /-- `s.bqlt` (R141): Pushes the signed s[ra] < s[rb] onto bq. -/
  | sBqlt (a : Reg) (b : Reg)
  /-- `s.bqge` (R141): Pushes the signed s[ra] >= s[rb] onto bq. -/
  | sBqge (a : Reg) (b : Reg)
  /-- `s.bqltz` (R141): Pushes the unsigned s[ra] < s[rb] onto bq. -/
  | sBqltz (a : Reg) (b : Reg)
  /-- `s.bqgez` (R141): Pushes the unsigned s[ra] >= s[rb] onto bq. -/
  | sBqgez (a : Reg) (b : Reg)
  /-- `ai.add` (R140): a-register add immediate. -/
  | aiAdd (d : Reg) (a : Reg) (i : BitVec 12)
  /-- `ai.and` (R140): a-register AND immediate. -/
  | aiAnd (d : Reg) (a : Reg) (i : BitVec 12)
  /-- `ai.or` (R140): a-register OR immediate. -/
  | aiOr (d : Reg) (a : Reg) (i : BitVec 12)
  /-- `ai.xor` (R140): a-register XOR immediate. -/
  | aiXor (d : Reg) (a : Reg) (i : BitVec 12)
  /-- `ai.shl` (R140): a-register shift left by an immediate count. -/
  | aiShl (d : Reg) (a : Reg) (c : BitVec 6)
  /-- `ai.shr` (R140): a-register logical shift right by an immediate count. -/
  | aiShr (d : Reg) (a : Reg) (c : BitVec 6)
  /-- `ai.sra` (R140): a-register arithmetic shift right by an immediate count. -/
  | aiSra (d : Reg) (a : Reg) (c : BitVec 6)
  /-- `ai.slt` (R140): a-register signed set-less-than immediate. -/
  | aiSlt (d : Reg) (a : Reg) (i : BitVec 12)
  /-- `ai.sltz` (R140): a-register unsigned set-less-than immediate. -/
  | aiSltz (d : Reg) (a : Reg) (i : BitVec 12)
  /-- `ai.mul` (R140): a-register multiply by an immediate. -/
  | aiMul (d : Reg) (a : Reg) (i : BitVec 12)
  /-- `si.add` (R140): s-register add immediate. -/
  | siAdd (d : Reg) (a : Reg) (i : BitVec 12)
  /-- `si.and` (R140): s-register AND immediate. -/
  | siAnd (d : Reg) (a : Reg) (i : BitVec 12)
  /-- `si.or` (R140): s-register OR immediate. -/
  | siOr (d : Reg) (a : Reg) (i : BitVec 12)
  /-- `si.xor` (R140): s-register XOR immediate. -/
  | siXor (d : Reg) (a : Reg) (i : BitVec 12)
  /-- `si.shl` (R140): s-register shift left by an immediate count. -/
  | siShl (d : Reg) (a : Reg) (c : BitVec 6)
  /-- `si.shr` (R140): s-register logical shift right by an immediate count. -/
  | siShr (d : Reg) (a : Reg) (c : BitVec 6)
  /-- `si.sra` (R140): s-register arithmetic shift right by an immediate count. -/
  | siSra (d : Reg) (a : Reg) (c : BitVec 6)
  /-- `si.slt` (R140): s-register signed set-less-than immediate. -/
  | siSlt (d : Reg) (a : Reg) (i : BitVec 12)
  /-- `si.sltz` (R140): s-register unsigned set-less-than immediate. -/
  | siSltz (d : Reg) (a : Reg) (i : BitVec 12)
  /-- `si.mul` (R140): s-register multiply by an immediate. -/
  | siMul (d : Reg) (a : Reg) (i : BitVec 12)
  /-- `ins` (R142): Replaces one 16-bit quarter of an a-register or an s-register with imm16. -/
  | ins (d : Reg) (s : Bool) (q : BitVec 2) (i : BitVec 16)
  /-- `ld` (R144): Scalar load of 1–8 bytes, extended, into an a-register or onto xe. -/
  | ld (d : Reg) (a : Reg) (w : Width) (q : Bool) (o : MemOrd) (i : BitVec 10)
  /-- `st` (R145): Scalar store from an a-register or from sq, through the store buffer. -/
  | st (d : Reg) (a : Reg) (w : Width) (q : Bool) (o : MemOrd) (i : BitVec 10)
  /-- `lk.ll` (R147): Load-linked of 8 bytes; takes a link on the line. -/
  | lkLl (d : Reg) (a : Reg)
  /-- `lk.sc` (R147): Store-conditional of 8 bytes, which succeeds only while the link holds. -/
  | lkSc (d : Reg) (a : Reg) (b : Reg)
  /-- `lk.ll32` (R147): Load-linked of 4 bytes, sign-extended. -/
  | lkLl32 (d : Reg) (a : Reg)
  /-- `lk.sc32` (R147): Store-conditional of 4 bytes. -/
  | lkSc32 (d : Reg) (a : Reg) (b : Reg)
  /-- `b.eq` (R149): Branches with two delay slots when a[ra] == a[rb]. -/
  | bEq (a : Reg) (b : Reg) (n : Nul) (d : BitVec 11)
  /-- `b.ne` (R149): Branches when a[ra] != a[rb]. -/
  | bNe (a : Reg) (b : Reg) (n : Nul) (d : BitVec 11)
  /-- `b.lt` (R149): Branches on signed less-than. -/
  | bLt (a : Reg) (b : Reg) (n : Nul) (d : BitVec 11)
  /-- `b.ge` (R149): Branches on signed greater-or-equal. -/
  | bGe (a : Reg) (b : Reg) (n : Nul) (d : BitVec 11)
  /-- `b.ltz` (R149): Branches on unsigned less-than. -/
  | bLtz (a : Reg) (b : Reg) (n : Nul) (d : BitVec 11)
  /-- `b.gez` (R149): Branches on unsigned greater-or-equal. -/
  | bGez (a : Reg) (b : Reg) (n : Nul) (d : BitVec 11)
  /-- `bq.t` (R150): Pops bq and branches when the popped bit is 1. -/
  | bqT (n : Nul) (d : BitVec 11)
  /-- `bq.f` (R150): Pops bq and branches when the popped bit is 0. -/
  | bqF (n : Nul) (d : BitVec 11)
  /-- `j` (R151): Unconditional jump with two delay slots. -/
  | j (n : Nul) (d : BitVec 24)
  /-- `jal` (R151): Jump that writes the link address to a31. -/
  | jal (n : Nul) (d : BitVec 24)
  /-- `jr` (R152): Jumps through a[ra] and writes the link to a[rd]. -/
  | jr (d : Reg) (a : Reg)
  /-- `x.stoa` (R153): Pushes s[ra] onto xa. -/
  | xStoa (a : Reg)
  /-- `x.afroms` (R153): Pops xa into a[rd]. -/
  | xAfroms (d : Reg)
  /-- `x.atoe` (R153): Pushes a[ra] onto xe. -/
  | xAtoe (a : Reg)
  /-- `x.sfrome` (R153): Pops xe into s[rd]; a poisoned entry traps with cause 9. -/
  | xSfrome (d : Reg)
  /-- `x.spush` (R153): Pushes s[ra] onto sq. -/
  | xSpush (a : Reg)
  /-- `x.drain` (R122): Joint word that discards the entries of the queues named in its mask. -/
  | xDrain (m : BitVec 8)
  /-- `sf.add` (R155): Scalar floating add in the selected format. -/
  | sfAdd (d : Reg) (a : Reg) (b : Reg) (t : FpFmt)
  /-- `sf.sub` (R155): Scalar floating subtract. -/
  | sfSub (d : Reg) (a : Reg) (b : Reg) (t : FpFmt)
  /-- `sf.mul` (R155): Scalar floating multiply. -/
  | sfMul (d : Reg) (a : Reg) (b : Reg) (t : FpFmt)
  /-- `sf.div` (R155): Scalar floating divide. -/
  | sfDiv (d : Reg) (a : Reg) (b : Reg) (t : FpFmt)
  /-- `sf.sqrt` (R155): Scalar floating square root. -/
  | sfSqrt (d : Reg) (a : Reg) (t : FpFmt)
  /-- `sf.min` (R155): Scalar floating minimum. -/
  | sfMin (d : Reg) (a : Reg) (b : Reg) (t : FpFmt)
  /-- `sf.max` (R155): Scalar floating maximum. -/
  | sfMax (d : Reg) (a : Reg) (b : Reg) (t : FpFmt)
  /-- `sf.fma` (R155): Scalar fused multiply-add into s[rd]. -/
  | sfFma (d : Reg) (a : Reg) (b : Reg) (t : FpFmt)
  /-- `sf.cvfi` (R155): Converts a signed 64-bit integer to the format. -/
  | sfCvfi (d : Reg) (a : Reg) (t : FpFmt)
  /-- `sf.cvif` (R155): Converts the format to a signed 64-bit integer. -/
  | sfCvif (d : Reg) (a : Reg) (t : FpFmt)
  /-- `sf.cvff` (R155): Converts the format to binary32. -/
  | sfCvff (d : Reg) (a : Reg) (t : FpFmt)
  /-- `sf.lt` (R155): Scalar floating less-than compare. -/
  | sfLt (d : Reg) (a : Reg) (b : Reg) (t : FpFmt)
  /-- `sf.eq` (R155): Scalar floating equality compare. -/
  | sfEq (d : Reg) (a : Reg) (b : Reg) (t : FpFmt)
  /-- `sf.le` (R155): Scalar floating less-or-equal compare. -/
  | sfLe (d : Reg) (a : Reg) (b : Reg) (t : FpFmt)
  /-- `vc.setvl` (R174): Applies any pending reclaim, checks the vtype and sets VTYPE and VL = min(request, VLMAX). -/
  | vcSetvl (d : Reg) (a : Reg) (b : Reg)
  /-- `vc.setvlmax` (R174): Applies any pending reclaim and sets VTYPE and VL = VLMAX. -/
  | vcSetvlmax (d : Reg) (b : Reg)
  /-- `v.add` (R194): Vector-vector integer add. -/
  | vAdd (l : Bool) (d : Reg) (a : Reg) (b : Reg) (m : BitVec 3)
  /-- `v.sub` (R194): Vector-vector integer subtract. -/
  | vSub (l : Bool) (d : Reg) (a : Reg) (b : Reg) (m : BitVec 3)
  /-- `v.rsub` (R194): Vector-vector reverse subtract. -/
  | vRsub (l : Bool) (d : Reg) (a : Reg) (b : Reg) (m : BitVec 3)
  /-- `v.mul` (R194): Vector-vector integer multiply, low half. -/
  | vMul (l : Bool) (d : Reg) (a : Reg) (b : Reg) (m : BitVec 3)
  /-- `v.mulh` (R194): Vector-vector signed multiply, high half. -/
  | vMulh (l : Bool) (d : Reg) (a : Reg) (b : Reg) (m : BitVec 3)
  /-- `v.mulhz` (R194): Vector-vector unsigned multiply, high half. -/
  | vMulhz (l : Bool) (d : Reg) (a : Reg) (b : Reg) (m : BitVec 3)
  /-- `v.mac` (R194): Vector-vector multiply-accumulate into vd. -/
  | vMac (l : Bool) (d : Reg) (a : Reg) (b : Reg) (m : BitVec 3)
  /-- `v.nmac` (R194): Vector-vector multiply-subtract from vd. -/
  | vNmac (l : Bool) (d : Reg) (a : Reg) (b : Reg) (m : BitVec 3)
  /-- `v.and` (R194): Vector-vector bitwise AND. -/
  | vAnd (l : Bool) (d : Reg) (a : Reg) (b : Reg) (m : BitVec 3)
  /-- `v.or` (R194): Vector-vector bitwise OR. -/
  | vOr (l : Bool) (d : Reg) (a : Reg) (b : Reg) (m : BitVec 3)
  /-- `v.xor` (R194): Vector-vector bitwise XOR. -/
  | vXor (l : Bool) (d : Reg) (a : Reg) (b : Reg) (m : BitVec 3)
  /-- `v.shl` (R194): Vector-vector shift left. -/
  | vShl (l : Bool) (d : Reg) (a : Reg) (b : Reg) (m : BitVec 3)
  /-- `v.shr` (R194): Vector-vector logical shift right. -/
  | vShr (l : Bool) (d : Reg) (a : Reg) (b : Reg) (m : BitVec 3)
  /-- `v.sra` (R194): Vector-vector arithmetic shift right. -/
  | vSra (l : Bool) (d : Reg) (a : Reg) (b : Reg) (m : BitVec 3)
  /-- `v.rshr` (R195): Vector-vector rounding shift right, ties upward. -/
  | vRshr (l : Bool) (d : Reg) (a : Reg) (b : Reg) (m : BitVec 3)
  /-- `v.rshre` (R195): Vector-vector rounding shift right, ties to even. -/
  | vRshre (l : Bool) (d : Reg) (a : Reg) (b : Reg) (m : BitVec 3)
  /-- `v.min` (R194): Vector-vector signed minimum. -/
  | vMin (l : Bool) (d : Reg) (a : Reg) (b : Reg) (m : BitVec 3)
  /-- `v.max` (R194): Vector-vector signed maximum. -/
  | vMax (l : Bool) (d : Reg) (a : Reg) (b : Reg) (m : BitVec 3)
  /-- `v.minz` (R194): Vector-vector unsigned minimum. -/
  | vMinz (l : Bool) (d : Reg) (a : Reg) (b : Reg) (m : BitVec 3)
  /-- `v.maxz` (R194): Vector-vector unsigned maximum. -/
  | vMaxz (l : Bool) (d : Reg) (a : Reg) (b : Reg) (m : BitVec 3)
  /-- `v.abs` (R194): Vector signed absolute value. -/
  | vAbs (l : Bool) (d : Reg) (a : Reg) (m : BitVec 3)
  /-- `v.avg` (R194): Vector-vector signed average, rounding up. -/
  | vAvg (l : Bool) (d : Reg) (a : Reg) (b : Reg) (m : BitVec 3)
  /-- `v.div` (R194): Vector-vector signed divide. -/
  | vDiv (l : Bool) (d : Reg) (a : Reg) (b : Reg) (m : BitVec 3)
  /-- `v.divz` (R194): Vector-vector unsigned divide. -/
  | vDivz (l : Bool) (d : Reg) (a : Reg) (b : Reg) (m : BitVec 3)
  /-- `v.rem` (R194): Vector-vector signed remainder. -/
  | vRem (l : Bool) (d : Reg) (a : Reg) (b : Reg) (m : BitVec 3)
  /-- `v.remz` (R194): Vector-vector unsigned remainder. -/
  | vRemz (l : Bool) (d : Reg) (a : Reg) (b : Reg) (m : BitVec 3)
  /-- `v.cmpeq` (R196): Vector-vector equality compare into a mask register. -/
  | vCmpeq (l : Bool) (d : Reg) (a : Reg) (b : Reg) (m : BitVec 3)
  /-- `v.cmpne` (R196): Vector-vector inequality compare into a mask register. -/
  | vCmpne (l : Bool) (d : Reg) (a : Reg) (b : Reg) (m : BitVec 3)
  /-- `v.cmplt` (R196): Vector-vector signed less-than compare. -/
  | vCmplt (l : Bool) (d : Reg) (a : Reg) (b : Reg) (m : BitVec 3)
  /-- `v.cmple` (R196): Vector-vector signed less-or-equal compare. -/
  | vCmple (l : Bool) (d : Reg) (a : Reg) (b : Reg) (m : BitVec 3)
  /-- `v.cmpltz` (R196): Vector-vector unsigned less-than compare. -/
  | vCmpltz (l : Bool) (d : Reg) (a : Reg) (b : Reg) (m : BitVec 3)
  /-- `v.cmplez` (R196): Vector-vector unsigned less-or-equal compare. -/
  | vCmplez (l : Bool) (d : Reg) (a : Reg) (b : Reg) (m : BitVec 3)
  /-- `v.sel` (R197): Selects va or vb by the mask. -/
  | vSel (l : Bool) (d : Reg) (a : Reg) (b : Reg) (m : BitVec 3)
  /-- `v.mv` (R197): Vector register move. -/
  | vMv (l : Bool) (d : Reg) (a : Reg) (m : BitVec 3)
  /-- `v.clz` (R194): Vector count of leading zeros. -/
  | vClz (l : Bool) (d : Reg) (a : Reg) (m : BitVec 3)
  /-- `v.pop` (R194): Vector population count. -/
  | vPop (l : Bool) (d : Reg) (a : Reg) (m : BitVec 3)
  /-- `vs.add` (R194): Vector-scalar integer add. -/
  | vsAdd (l : Bool) (d : Reg) (a : Reg) (b : Reg) (m : BitVec 3)
  /-- `vs.sub` (R194): Vector-scalar subtract. -/
  | vsSub (l : Bool) (d : Reg) (a : Reg) (b : Reg) (m : BitVec 3)
  /-- `vs.rsub` (R194): Vector-scalar reverse subtract. -/
  | vsRsub (l : Bool) (d : Reg) (a : Reg) (b : Reg) (m : BitVec 3)
  /-- `vs.mul` (R194): Vector-scalar multiply, low half. -/
  | vsMul (l : Bool) (d : Reg) (a : Reg) (b : Reg) (m : BitVec 3)
  /-- `vs.mulh` (R194): Vector-scalar signed multiply, high half. -/
  | vsMulh (l : Bool) (d : Reg) (a : Reg) (b : Reg) (m : BitVec 3)
  /-- `vs.mulhz` (R194): Vector-scalar unsigned multiply, high half. -/
  | vsMulhz (l : Bool) (d : Reg) (a : Reg) (b : Reg) (m : BitVec 3)
  /-- `vs.mac` (R194): Vector-scalar multiply-accumulate. -/
  | vsMac (l : Bool) (d : Reg) (a : Reg) (b : Reg) (m : BitVec 3)
  /-- `vs.nmac` (R194): Vector-scalar multiply-subtract. -/
  | vsNmac (l : Bool) (d : Reg) (a : Reg) (b : Reg) (m : BitVec 3)
  /-- `vs.and` (R194): Vector-scalar AND. -/
  | vsAnd (l : Bool) (d : Reg) (a : Reg) (b : Reg) (m : BitVec 3)
  /-- `vs.or` (R194): Vector-scalar OR. -/
  | vsOr (l : Bool) (d : Reg) (a : Reg) (b : Reg) (m : BitVec 3)
  /-- `vs.xor` (R194): Vector-scalar XOR. -/
  | vsXor (l : Bool) (d : Reg) (a : Reg) (b : Reg) (m : BitVec 3)
  /-- `vs.shl` (R194): Vector-scalar shift left. -/
  | vsShl (l : Bool) (d : Reg) (a : Reg) (b : Reg) (m : BitVec 3)
  /-- `vs.shr` (R194): Vector-scalar logical shift right. -/
  | vsShr (l : Bool) (d : Reg) (a : Reg) (b : Reg) (m : BitVec 3)
  /-- `vs.sra` (R194): Vector-scalar arithmetic shift right. -/
  | vsSra (l : Bool) (d : Reg) (a : Reg) (b : Reg) (m : BitVec 3)
  /-- `vs.rshr` (R195): Vector-scalar rounding shift right, ties upward. -/
  | vsRshr (l : Bool) (d : Reg) (a : Reg) (b : Reg) (m : BitVec 3)
  /-- `vs.rshre` (R195): Vector-scalar rounding shift right, ties to even. -/
  | vsRshre (l : Bool) (d : Reg) (a : Reg) (b : Reg) (m : BitVec 3)
  /-- `vs.min` (R194): Vector-scalar signed minimum. -/
  | vsMin (l : Bool) (d : Reg) (a : Reg) (b : Reg) (m : BitVec 3)
  /-- `vs.max` (R194): Vector-scalar signed maximum. -/
  | vsMax (l : Bool) (d : Reg) (a : Reg) (b : Reg) (m : BitVec 3)
  /-- `vs.minz` (R194): Vector-scalar unsigned minimum. -/
  | vsMinz (l : Bool) (d : Reg) (a : Reg) (b : Reg) (m : BitVec 3)
  /-- `vs.maxz` (R194): Vector-scalar unsigned maximum. -/
  | vsMaxz (l : Bool) (d : Reg) (a : Reg) (b : Reg) (m : BitVec 3)
  /-- `vs.avg` (R194): Vector-scalar signed average. -/
  | vsAvg (l : Bool) (d : Reg) (a : Reg) (b : Reg) (m : BitVec 3)
  /-- `vs.div` (R194): Vector-scalar signed divide. -/
  | vsDiv (l : Bool) (d : Reg) (a : Reg) (b : Reg) (m : BitVec 3)
  /-- `vs.divz` (R194): Vector-scalar unsigned divide. -/
  | vsDivz (l : Bool) (d : Reg) (a : Reg) (b : Reg) (m : BitVec 3)
  /-- `vs.rem` (R194): Vector-scalar signed remainder. -/
  | vsRem (l : Bool) (d : Reg) (a : Reg) (b : Reg) (m : BitVec 3)
  /-- `vs.remz` (R194): Vector-scalar unsigned remainder. -/
  | vsRemz (l : Bool) (d : Reg) (a : Reg) (b : Reg) (m : BitVec 3)
  /-- `vs.cmpeq` (R196): Vector-scalar equality compare. -/
  | vsCmpeq (l : Bool) (d : Reg) (a : Reg) (b : Reg) (m : BitVec 3)
  /-- `vs.cmpne` (R196): Vector-scalar inequality compare. -/
  | vsCmpne (l : Bool) (d : Reg) (a : Reg) (b : Reg) (m : BitVec 3)
  /-- `vs.cmplt` (R196): Vector-scalar signed less-than compare. -/
  | vsCmplt (l : Bool) (d : Reg) (a : Reg) (b : Reg) (m : BitVec 3)
  /-- `vs.cmple` (R196): Vector-scalar signed less-or-equal compare. -/
  | vsCmple (l : Bool) (d : Reg) (a : Reg) (b : Reg) (m : BitVec 3)
  /-- `vs.cmpltz` (R196): Vector-scalar unsigned less-than compare. -/
  | vsCmpltz (l : Bool) (d : Reg) (a : Reg) (b : Reg) (m : BitVec 3)
  /-- `vs.cmplez` (R196): Vector-scalar unsigned less-or-equal compare. -/
  | vsCmplez (l : Bool) (d : Reg) (a : Reg) (b : Reg) (m : BitVec 3)
  /-- `vs.sel` (R197): Selects va or the scalar by the mask. -/
  | vsSel (l : Bool) (d : Reg) (a : Reg) (b : Reg) (m : BitVec 3)
  /-- `vs.mv` (R197): Broadcasts a scalar to the active elements. -/
  | vsMv (l : Bool) (d : Reg) (b : Reg) (m : BitVec 3)
  /-- `vi.add` (R194): Vector-immediate add. -/
  | viAdd (l : Bool) (d : Reg) (a : Reg) (i : Reg) (m : BitVec 3)
  /-- `vi.sub` (R194): Vector-immediate subtract. -/
  | viSub (l : Bool) (d : Reg) (a : Reg) (i : Reg) (m : BitVec 3)
  /-- `vi.rsub` (R194): Immediate minus vector. -/
  | viRsub (l : Bool) (d : Reg) (a : Reg) (i : Reg) (m : BitVec 3)
  /-- `vi.mul` (R194): Vector-immediate multiply. -/
  | viMul (l : Bool) (d : Reg) (a : Reg) (i : Reg) (m : BitVec 3)
  /-- `vi.mulh` (R194): Vector-immediate signed multiply, high half. -/
  | viMulh (l : Bool) (d : Reg) (a : Reg) (i : Reg) (m : BitVec 3)
  /-- `vi.mulhz` (R194): Vector-immediate unsigned multiply, high half. -/
  | viMulhz (l : Bool) (d : Reg) (a : Reg) (i : Reg) (m : BitVec 3)
  /-- `vi.mac` (R194): Vector-immediate multiply-accumulate. -/
  | viMac (l : Bool) (d : Reg) (a : Reg) (i : Reg) (m : BitVec 3)
  /-- `vi.nmac` (R194): Vector-immediate multiply-subtract. -/
  | viNmac (l : Bool) (d : Reg) (a : Reg) (i : Reg) (m : BitVec 3)
  /-- `vi.and` (R194): Vector-immediate AND. -/
  | viAnd (l : Bool) (d : Reg) (a : Reg) (i : Reg) (m : BitVec 3)
  /-- `vi.or` (R194): Vector-immediate OR. -/
  | viOr (l : Bool) (d : Reg) (a : Reg) (i : Reg) (m : BitVec 3)
  /-- `vi.xor` (R194): Vector-immediate XOR. -/
  | viXor (l : Bool) (d : Reg) (a : Reg) (i : Reg) (m : BitVec 3)
  /-- `vi.shl` (R194): Vector shift left by an unsigned immediate. -/
  | viShl (l : Bool) (d : Reg) (a : Reg) (i : Reg) (m : BitVec 3)
  /-- `vi.shr` (R194): Vector logical shift right by an immediate. -/
  | viShr (l : Bool) (d : Reg) (a : Reg) (i : Reg) (m : BitVec 3)
  /-- `vi.sra` (R194): Vector arithmetic shift right by an immediate. -/
  | viSra (l : Bool) (d : Reg) (a : Reg) (i : Reg) (m : BitVec 3)
  /-- `vi.rshr` (R195): Vector rounding shift right by an immediate, ties upward. -/
  | viRshr (l : Bool) (d : Reg) (a : Reg) (i : Reg) (m : BitVec 3)
  /-- `vi.rshre` (R195): Vector rounding shift right by an immediate, ties to even. -/
  | viRshre (l : Bool) (d : Reg) (a : Reg) (i : Reg) (m : BitVec 3)
  /-- `vi.min` (R194): Vector-immediate signed minimum. -/
  | viMin (l : Bool) (d : Reg) (a : Reg) (i : Reg) (m : BitVec 3)
  /-- `vi.max` (R194): Vector-immediate signed maximum. -/
  | viMax (l : Bool) (d : Reg) (a : Reg) (i : Reg) (m : BitVec 3)
  /-- `vi.minz` (R194): Vector-immediate unsigned minimum. -/
  | viMinz (l : Bool) (d : Reg) (a : Reg) (i : Reg) (m : BitVec 3)
  /-- `vi.maxz` (R194): Vector-immediate unsigned maximum. -/
  | viMaxz (l : Bool) (d : Reg) (a : Reg) (i : Reg) (m : BitVec 3)
  /-- `vi.avg` (R194): Vector-immediate signed average. -/
  | viAvg (l : Bool) (d : Reg) (a : Reg) (i : Reg) (m : BitVec 3)
  /-- `vi.div` (R194): Vector-immediate signed divide. -/
  | viDiv (l : Bool) (d : Reg) (a : Reg) (i : Reg) (m : BitVec 3)
  /-- `vi.divz` (R194): Vector-immediate unsigned divide. -/
  | viDivz (l : Bool) (d : Reg) (a : Reg) (i : Reg) (m : BitVec 3)
  /-- `vi.rem` (R194): Vector-immediate signed remainder. -/
  | viRem (l : Bool) (d : Reg) (a : Reg) (i : Reg) (m : BitVec 3)
  /-- `vi.remz` (R194): Vector-immediate unsigned remainder. -/
  | viRemz (l : Bool) (d : Reg) (a : Reg) (i : Reg) (m : BitVec 3)
  /-- `vi.cmpeq` (R196): Vector-immediate equality compare. -/
  | viCmpeq (l : Bool) (d : Reg) (a : Reg) (i : Reg) (m : BitVec 3)
  /-- `vi.cmpne` (R196): Vector-immediate inequality compare. -/
  | viCmpne (l : Bool) (d : Reg) (a : Reg) (i : Reg) (m : BitVec 3)
  /-- `vi.cmplt` (R196): Vector-immediate signed less-than compare. -/
  | viCmplt (l : Bool) (d : Reg) (a : Reg) (i : Reg) (m : BitVec 3)
  /-- `vi.cmple` (R196): Vector-immediate signed less-or-equal compare. -/
  | viCmple (l : Bool) (d : Reg) (a : Reg) (i : Reg) (m : BitVec 3)
  /-- `vi.cmpltz` (R196): Vector-immediate unsigned less-than compare. -/
  | viCmpltz (l : Bool) (d : Reg) (a : Reg) (i : Reg) (m : BitVec 3)
  /-- `vi.cmplez` (R196): Vector-immediate unsigned less-or-equal compare. -/
  | viCmplez (l : Bool) (d : Reg) (a : Reg) (i : Reg) (m : BitVec 3)
  /-- `vi.sel` (R197): Selects va or the immediate by the mask. -/
  | viSel (l : Bool) (d : Reg) (a : Reg) (i : Reg) (m : BitVec 3)
  /-- `vi.mv` (R197): Broadcasts an immediate to the active elements. -/
  | viMv (l : Bool) (d : Reg) (i : Reg) (m : BitVec 3)
  /-- `vf.add` (R199): Vector floating add. -/
  | vfAdd (l : Bool) (d : Reg) (a : Reg) (b : Reg) (m : BitVec 3)
  /-- `vf.sub` (R199): Vector floating subtract. -/
  | vfSub (l : Bool) (d : Reg) (a : Reg) (b : Reg) (m : BitVec 3)
  /-- `vf.mul` (R199): Vector floating multiply. -/
  | vfMul (l : Bool) (d : Reg) (a : Reg) (b : Reg) (m : BitVec 3)
  /-- `vf.div` (R199): Vector floating divide. -/
  | vfDiv (l : Bool) (d : Reg) (a : Reg) (b : Reg) (m : BitVec 3)
  /-- `vf.fma` (R199): Vector fused multiply-add. -/
  | vfFma (l : Bool) (d : Reg) (a : Reg) (b : Reg) (m : BitVec 3)
  /-- `vf.fms` (R199): Vector fused multiply-subtract. -/
  | vfFms (l : Bool) (d : Reg) (a : Reg) (b : Reg) (m : BitVec 3)
  /-- `vf.fnma` (R199): Vector negated fused multiply-add. -/
  | vfFnma (l : Bool) (d : Reg) (a : Reg) (b : Reg) (m : BitVec 3)
  /-- `vf.min` (R199): Vector floating minimum. -/
  | vfMin (l : Bool) (d : Reg) (a : Reg) (b : Reg) (m : BitVec 3)
  /-- `vf.max` (R199): Vector floating maximum. -/
  | vfMax (l : Bool) (d : Reg) (a : Reg) (b : Reg) (m : BitVec 3)
  /-- `vf.abs` (R199): Vector floating absolute value. -/
  | vfAbs (l : Bool) (d : Reg) (a : Reg) (m : BitVec 3)
  /-- `vf.neg` (R199): Vector floating negation. -/
  | vfNeg (l : Bool) (d : Reg) (a : Reg) (m : BitVec 3)
  /-- `vf.sqrt` (R199): Vector floating square root. -/
  | vfSqrt (l : Bool) (d : Reg) (a : Reg) (m : BitVec 3)
  /-- `vf.rcpe` (R113): Vector reciprocal estimate with a 7-bit significand. -/
  | vfRcpe (l : Bool) (d : Reg) (a : Reg) (m : BitVec 3)
  /-- `vf.rsqe` (R114): Vector reciprocal square-root estimate. -/
  | vfRsqe (l : Bool) (d : Reg) (a : Reg) (m : BitVec 3)
  /-- `vf.exp2` (R201): Vector base-2 exponential. -/
  | vfExp2 (l : Bool) (d : Reg) (a : Reg) (m : BitVec 3)
  /-- `vf.cmpeq` (R199): Vector floating equality compare into a mask register. -/
  | vfCmpeq (l : Bool) (d : Reg) (a : Reg) (b : Reg) (m : BitVec 3)
  /-- `vf.cmplt` (R199): Vector floating less-than compare. -/
  | vfCmplt (l : Bool) (d : Reg) (a : Reg) (b : Reg) (m : BitVec 3)
  /-- `vf.cmple` (R199): Vector floating less-or-equal compare. -/
  | vfCmple (l : Bool) (d : Reg) (a : Reg) (b : Reg) (m : BitVec 3)
  /-- `vf.class` (R200): Writes a one-hot class code for each element. -/
  | vfClass (l : Bool) (d : Reg) (a : Reg) (m : BitVec 3)
  /-- `vf.sgnj` (R199): Magnitude of x with the sign of y. -/
  | vfSgnj (l : Bool) (d : Reg) (a : Reg) (b : Reg) (m : BitVec 3)
  /-- `vf.maxm` (R199): Operand of larger magnitude. -/
  | vfMaxm (l : Bool) (d : Reg) (a : Reg) (b : Reg) (m : BitVec 3)
  /-- `vfs.add` (R199): Vector-scalar floating add. -/
  | vfsAdd (l : Bool) (d : Reg) (a : Reg) (b : Reg) (m : BitVec 3)
  /-- `vfs.sub` (R199): Vector-scalar floating subtract. -/
  | vfsSub (l : Bool) (d : Reg) (a : Reg) (b : Reg) (m : BitVec 3)
  /-- `vfs.mul` (R199): Vector-scalar floating multiply. -/
  | vfsMul (l : Bool) (d : Reg) (a : Reg) (b : Reg) (m : BitVec 3)
  /-- `vfs.div` (R199): Vector-scalar floating divide. -/
  | vfsDiv (l : Bool) (d : Reg) (a : Reg) (b : Reg) (m : BitVec 3)
  /-- `vfs.fma` (R199): Vector-scalar fused multiply-add. -/
  | vfsFma (l : Bool) (d : Reg) (a : Reg) (b : Reg) (m : BitVec 3)
  /-- `vfs.fms` (R199): Vector-scalar fused multiply-subtract. -/
  | vfsFms (l : Bool) (d : Reg) (a : Reg) (b : Reg) (m : BitVec 3)
  /-- `vfs.fnma` (R199): Vector-scalar negated fused multiply-add. -/
  | vfsFnma (l : Bool) (d : Reg) (a : Reg) (b : Reg) (m : BitVec 3)
  /-- `vfs.min` (R199): Vector-scalar floating minimum. -/
  | vfsMin (l : Bool) (d : Reg) (a : Reg) (b : Reg) (m : BitVec 3)
  /-- `vfs.max` (R199): Vector-scalar floating maximum. -/
  | vfsMax (l : Bool) (d : Reg) (a : Reg) (b : Reg) (m : BitVec 3)
  /-- `vfs.cmpeq` (R199): Vector-scalar floating equality compare. -/
  | vfsCmpeq (l : Bool) (d : Reg) (a : Reg) (b : Reg) (m : BitVec 3)
  /-- `vfs.cmplt` (R199): Vector-scalar floating less-than compare. -/
  | vfsCmplt (l : Bool) (d : Reg) (a : Reg) (b : Reg) (m : BitVec 3)
  /-- `vfs.cmple` (R199): Vector-scalar floating less-or-equal compare. -/
  | vfsCmple (l : Bool) (d : Reg) (a : Reg) (b : Reg) (m : BitVec 3)
  /-- `vfs.sgnj` (R199): Vector-scalar sign injection. -/
  | vfsSgnj (l : Bool) (d : Reg) (a : Reg) (b : Reg) (m : BitVec 3)
  /-- `vfs.maxm` (R199): Vector-scalar larger-magnitude select. -/
  | vfsMaxm (l : Bool) (d : Reg) (a : Reg) (b : Reg) (m : BitVec 3)
  /-- `vcv.cvt` (R205): Converts elements from efmt to dfmt. -/
  | vcvCvt (l : Bool) (d : Reg) (a : Reg) (m : BitVec 3)
  /-- `vcv.cvts` (R205): Converts elements from efmt to dfmt with saturation. -/
  | vcvCvts (l : Bool) (d : Reg) (a : Reg) (m : BitVec 3)
  /-- `vcv.qnt` (R206): Scales elements by a binary32 scalar and converts them to dfmt with saturation. -/
  | vcvQnt (l : Bool) (d : Reg) (a : Reg) (b : Reg) (m : BitVec 3)
  /-- `vcv.had` (R207): One Walsh-Hadamard stage at distance 2^imm. -/
  | vcvHad (l : Bool) (d : Reg) (a : Reg) (i : Reg) (m : BitVec 3)
  /-- `vcv.hash` (R208): Applies Hash64 elementwise. -/
  | vcvHash (l : Bool) (d : Reg) (a : Reg) (b : Reg) (m : BitVec 3)
  /-- `vcv.iota` (R208): Writes s[vb] + i to each active element. -/
  | vcvIota (l : Bool) (d : Reg) (b : Reg) (m : BitVec 3)
  /-- `vp.slup` (R210): Slides elements up by a scalar offset. -/
  | vpSlup (l : Bool) (d : Reg) (a : Reg) (b : Reg) (m : BitVec 3)
  /-- `vp.sldn` (R210): Slides elements down by a scalar offset. -/
  | vpSldn (l : Bool) (d : Reg) (a : Reg) (b : Reg) (m : BitVec 3)
  /-- `vp.rgat` (R210): Register gather by vector indices. -/
  | vpRgat (l : Bool) (d : Reg) (a : Reg) (b : Reg) (m : BitVec 3)
  /-- `vp.cmpr` (R211): Packs the active elements. -/
  | vpCmpr (l : Bool) (d : Reg) (a : Reg) (m : BitVec 3)
  /-- `vp.expd` (R211): Unpacks elements to the active positions. -/
  | vpExpd (l : Bool) (d : Reg) (a : Reg) (m : BitVec 3)
  /-- `vp.xchg` (R210): Exchanges elements at distance 2^imm. -/
  | vpXchg (l : Bool) (d : Reg) (a : Reg) (i : Reg) (m : BitVec 3)
  /-- `vp.sort` (R212): Stable sort of the first VL elements. -/
  | vpSort (l : Bool) (d : Reg) (a : Reg) (m : BitVec 3)
  /-- `vp.merge` (R212): Stable merge of two sorted vectors. -/
  | vpMerge (l : Bool) (d : Reg) (a : Reg) (b : Reg) (m : BitVec 3)
  /-- `vp.rsum` (R213): Integer sum reduction by CanonicalSum. -/
  | vpRsum (l : Bool) (d : Reg) (a : Reg) (b : Reg) (m : BitVec 3)
  /-- `vp.rmax` (R213): Integer maximum reduction. -/
  | vpRmax (l : Bool) (d : Reg) (a : Reg) (b : Reg) (m : BitVec 3)
  /-- `vp.rmin` (R213): Integer minimum reduction. -/
  | vpRmin (l : Bool) (d : Reg) (a : Reg) (b : Reg) (m : BitVec 3)
  /-- `vp.rand` (R213): Bitwise AND reduction. -/
  | vpRand (l : Bool) (d : Reg) (a : Reg) (b : Reg) (m : BitVec 3)
  /-- `vp.ror` (R213): Bitwise OR reduction. -/
  | vpRor (l : Bool) (d : Reg) (a : Reg) (b : Reg) (m : BitVec 3)
  /-- `vp.frsum` (R213): Floating sum reduction by CanonicalSum. -/
  | vpFrsum (l : Bool) (d : Reg) (a : Reg) (b : Reg) (m : BitVec 3)
  /-- `vp.frmax` (R213): Floating maximum reduction. -/
  | vpFrmax (l : Bool) (d : Reg) (a : Reg) (b : Reg) (m : BitVec 3)
  /-- `vp.frmin` (R213): Floating minimum reduction. -/
  | vpFrmin (l : Bool) (d : Reg) (a : Reg) (b : Reg) (m : BitVec 3)
  /-- `vp.scan` (R214): Integer inclusive prefix sum. -/
  | vpScan (l : Bool) (d : Reg) (a : Reg) (b : Reg) (m : BitVec 3)
  /-- `vp.fscan` (R214): Floating inclusive prefix sum. -/
  | vpFscan (l : Bool) (d : Reg) (a : Reg) (b : Reg) (m : BitVec 3)
  /-- `vp.mand` (R215): Mask AND. -/
  | vpMand (l : Bool) (d : Reg) (a : Reg) (b : Reg)
  /-- `vp.mor` (R215): Mask OR. -/
  | vpMor (l : Bool) (d : Reg) (a : Reg) (b : Reg)
  /-- `vp.mxor` (R215): Mask XOR. -/
  | vpMxor (l : Bool) (d : Reg) (a : Reg) (b : Reg)
  /-- `vp.mnot` (R215): Mask NOT. -/
  | vpMnot (l : Bool) (d : Reg) (a : Reg)
  /-- `vp.mpop` (R215): Counts the set mask bits below VL. -/
  | vpMpop (l : Bool) (d : Reg) (a : Reg)
  /-- `vp.mffs` (R215): Finds the first set mask bit below VL. -/
  | vpMffs (l : Bool) (d : Reg) (a : Reg)
  /-- `vp.mfirst` (R215): Sets the mask bits below s[va]. -/
  | vpMfirst (l : Bool) (d : Reg) (a : Reg)
  /-- `vp.bcast` (R210): Broadcasts the element at a scalar index. -/
  | vpBcast (l : Bool) (d : Reg) (a : Reg) (b : Reg) (m : BitVec 3)
  /-- `vp.ext` (R210): Extracts one element to an s-register. -/
  | vpExt (l : Bool) (d : Reg) (a : Reg) (b : Reg)
  /-- `vp.insrt` (R210): Inserts an s-register value at one element. -/
  | vpInsrt (l : Bool) (d : Reg) (a : Reg) (b : Reg)
  /-- `vw.wmac` (R203): Widening signed multiply-accumulate. -/
  | vwWmac (l : Bool) (d : Reg) (a : Reg) (b : Reg) (m : BitVec 3)
  /-- `vw.wmacz` (R203): Widening unsigned multiply-accumulate. -/
  | vwWmacz (l : Bool) (d : Reg) (a : Reg) (b : Reg) (m : BitVec 3)
  /-- `vw.wmacsz` (R203): Widening signed-by-unsigned multiply-accumulate. -/
  | vwWmacsz (l : Bool) (d : Reg) (a : Reg) (b : Reg) (m : BitVec 3)
  /-- `vw.wadd` (R203): Widening signed add. -/
  | vwWadd (l : Bool) (d : Reg) (a : Reg) (b : Reg) (m : BitVec 3)
  /-- `vw.waddz` (R203): Widening unsigned add. -/
  | vwWaddz (l : Bool) (d : Reg) (a : Reg) (b : Reg) (m : BitVec 3)
  /-- `vw.wmul` (R203): Widening signed multiply. -/
  | vwWmul (l : Bool) (d : Reg) (a : Reg) (b : Reg) (m : BitVec 3)
  /-- `vw.nsat` (R203): Narrowing signed saturation. -/
  | vwNsat (l : Bool) (d : Reg) (a : Reg) (m : BitVec 3)
  /-- `vw.nsatz` (R203): Narrowing unsigned saturation. -/
  | vwNsatz (l : Bool) (d : Reg) (a : Reg) (m : BitVec 3)
  /-- `vw.nrshr` (R203): Narrowing rounding shift right with saturation. -/
  | vwNrshr (l : Bool) (d : Reg) (a : Reg) (i : Reg) (m : BitVec 3)
  /-- `vld` (R220): Vector load in unit, stride, index or first-fault mode, with conversion and element-precise faults. -/
  | vld (l : Bool) (d : Reg) (a : Reg) (x : Reg) (m : BitVec 3) (e : VMode) (n : BitVec 3) (o : VOrd)
  /-- `vst` (R222): Vector store in unit, stride or index mode, converting to the mapping's format. -/
  | vst (l : Bool) (d : Reg) (a : Reg) (x : Reg) (m : BitVec 3) (e : VMode) (n : BitVec 3) (o : VOrd)
  /-- `vlk.gl` (R228): Indexed linked vector load that tags the lines it reads. -/
  | vlkGl (l : Bool) (d : Reg) (a : Reg) (x : Reg) (m : BitVec 3)
  /-- `vlk.sc` (R229): Indexed conditional vector store, tested per line, reporting success in the mask. -/
  | vlkSc (l : Bool) (d : Reg) (a : Reg) (x : Reg) (m : BitVec 3)
  /-- `m.on` (R236): Requests matrix mode, waiting if another sequencer holds it, and returns the granted MVL. -/
  | mOn (s : Reg)
  /-- `m.off` (R237): Releases matrix mode and discards the accumulators. -/
  | mOff
  /-- `m.zero` (R245): Zeroes one accumulator. -/
  | mZero (c : Bool)
  /-- `m.opa` (R245): Adds one outer product to an accumulator. -/
  | mOpa (c : Bool) (a : Reg) (b : Reg)
  /-- `m.ops` (R245): Subtracts one outer product from an accumulator. -/
  | mOps (c : Bool) (a : Reg) (b : Reg)
  /-- `m.rdrow` (R246): Copies an accumulator row to a vector register group. -/
  | mRdrow (c : Bool) (a : Reg) (s : Reg)
  /-- `m.wrrow` (R246): Copies a vector register group into an accumulator row. -/
  | mWrrow (c : Bool) (a : Reg) (s : Reg)
  /-- `m.rdcol` (R246): Copies an accumulator column to a vector register group. -/
  | mRdcol (c : Bool) (a : Reg) (s : Reg)
  /-- `m.st` (R247): Stores an accumulator to the scratchpad with conversion. -/
  | mSt (c : Bool) (s : Reg)
  /-- `m.ld` (R247): Loads an accumulator from the scratchpad. -/
  | mLd (c : Bool) (s : Reg)
  /-- `m.ldtab` (R257): Loads 256 frequencies into a Larder table set and builds its tables. -/
  | mLdtab (t : BitVec 2) (s : Reg)
  /-- `mt.mul` (R248): Tile multiply acc += A × B segment by segment, with optional coded B, descriptor A and skip gate. -/
  | mtMul (t : BitVec 2) (c : Bool) (a : Reg) (b : Reg) (s : Reg) (q : BitVec 3)
  /-- `c.copy` (R273): Places a strided row copy with the copy engine. -/
  | cCopy (a : Reg) (b : Reg) (c : Reg) (t : BitVec 3) (p : BitVec 4)
  /-- `c.gath` (R274): Places a gather of rows named by an index list. -/
  | cGath (a : Reg) (b : Reg) (c : Reg) (t : BitVec 3) (p : BitVec 4)
  /-- `c.scat` (R274): Places a scatter of rows to the entries of an index list. -/
  | cScat (a : Reg) (b : Reg) (c : Reg) (t : BitVec 3) (p : BitVec 4)
  /-- `c.xf` (R276): Places an in-bank transform command: tr, cvt, scl, zero, add or region-word write. -/
  | cXf (a : Reg) (b : Reg) (c : Reg) (t : BitVec 3) (p : BitVec 4)
  /-- `c.fill` (R275): Places a pattern fill of a scratchpad run. -/
  | cFill (a : Reg) (b : Reg) (t : BitVec 3) (p : BitVec 4)
  /-- `c.wait` (R279): Waits for a tag's commands, then raises the recorded error or merges the tag's flags. -/
  | cWait (t : BitVec 3)
  /-- `cb.set` (R282): Arms a barrier with a target count. -/
  | cbSet (a : Reg) (b : Reg)
  /-- `cb.arr` (R282): Arrives at a barrier. -/
  | cbArr (b : Reg)
  /-- `cb.wt` (R282): Waits for the watched barrier phase to complete. -/
  | cbWt (b : Reg)
  /-- `cb.arw` (R282): Arrives at a barrier, then waits. -/
  | cbArw (b : Reg)
  /-- `cb.st` (R282): Reads a barrier's state. -/
  | cbSt (d : Reg) (b : Reg)
  /-- `p.bind` (R358): Binds a pyramid stream and returns a handle. -/
  | pBind (d : Reg) (a : Reg)
  /-- `p.app` (R359): Sends a block of items to the stream's home for appending. -/
  | pApp (d : Reg) (a : Reg) (b : Reg) (m : BitVec 3)
  /-- `p.ld` (R360): Loads items and span words for vector times against one snapshot. -/
  | pLd (d : Reg) (a : Reg) (b : Reg) (m : BitVec 3) (l : BitVec 4)
  /-- `p.lds` (R360): Loads one item and its span word for a scalar time. -/
  | pLds (d : Reg) (a : Reg) (b : Reg) (l : BitVec 4)
  /-- `p.info` (R361): Returns one value of the stream's snapshot. -/
  | pInfo (d : Reg) (a : Reg) (s : BitVec 4)
  /-- `p.unbind` (R358): Waits for the handle's appends, then frees the binding. -/
  | pUnbind (a : Reg)
  /-- `f.coll` (R415): Checks a collective descriptor and starts the collective, returning a handle. -/
  | fColl (d : Reg) (a : Reg)
  /-- `f.wait` (R419): Waits for a collective to complete or fail. -/
  | fWait (a : Reg)
  /-- `f.test` (R419): Reports a collective's state without waiting. -/
  | fTest (d : Reg) (a : Reg)
  /-- `w.mark` (R302): Writes the snapshot, arrives at the launch's mark and opens the next window. -/
  | wMark (a : Reg) (b : Reg)
  /-- `w.info` (R301): Writes WINNO to s[rd]. -/
  | wInfo (d : Reg)
  /-- `h.pf` (R58): Prefetch hint into the home die cache. -/
  | hPf (d : Reg) (a : Reg) (b : Reg)
  /-- `h.pfs` (R58): Stages a scratchpad range into the matrix operand buffers. -/
  | hPfs (d : Reg) (a : Reg) (b : Reg)
  /-- `h` (R27): Any other hint function code executes as a no-operation. -/
  | hNop (d : Reg) (a : Reg) (b : Reg) (fn : BitVec 11)
  /-- `CONVOY` (R178): A linked run of two to four words issues, traps and retires as one unit. -/
  | convoy (ws : List CWord)
  /-- `TIMER_EXPIRY` (R135): CYCLE or UNITS reaches TCMP and the timer interrupt becomes pending. -/
  | timerExpiry (q : Nat)
  /-- `INTERRUPT` (R135): A pending interrupt is taken at the next unit boundary at which ie is 1. -/
  | interrupt (q : Nat)
  /-- `HOME_WRITE_ADMIT` (R341): A store is admitted at its home and becomes visible to every agent. -/
  | homeWriteAdmit (q : Nat) (k : Nat)
  /-- `RING_SPACE_FREED` (R308): Writes waiting on a full ring resume as space appears. -/
  | ringSpaceFreed (p : Nat) (n : Nat)
  /-- `MATRIX_GRANT` (R236): A waiting m.on is served when the holder releases matrix mode. -/
  | matrixGrant (c : Nat)
  /-- `ENGINE_ROW` (R272): The copy engine reads and commits one row of a command. -/
  | engineRow (c : Nat) (k : Nat)
  /-- `ENGINE_COMPLETE` (R272): A command completes: the tag count falls, the barrier is signalled and its writes are released. -/
  | engineComplete (c : Nat) (k : Nat)
  /-- `ENGINE_FAULT` (R286): The engine or a transform unit stops on an internal fault; its commands end with cause 19. -/
  | engineFault (c : Nat)
  /-- `LAUNCH_FAIL` (R23): Firmware halts the launch's sequencers, ends its commands, writes status 2 and releases its slots. -/
  | launchFail (p : Nat) (n : Nat) (cause : Nat)
  /-- `LAUNCH_BIND` (R379): Firmware chooses sequencers, cuts ranges and writes bind records for a ready launch. -/
  | launchBind (p : Nat)
  /-- `BIND_NEXT_WRITE` (R376): Firmware writes a next bind record, word 0 last, which starts the preload copy. -/
  | bindNextWrite (q : Nat) (w0 : Word) (w1 : Word) (w2 : Word) (w3 : Word)
  /-- `BIND_WITHDRAW` (R376): Firmware clears a next record's valid bit before it moves. -/
  | bindWithdraw (q : Nat)
  /-- `BIND_ADVANCE` (R376): A released slot takes its next record, zeroes the groups, waits for the preload and issues. -/
  | bindAdvance (q : Nat)
  /-- `PRELOAD_COPY_DONE` (R377): The scratchpad preload copy completes, releasing at cluster scope. -/
  | preloadCopyDone (q : Nat)
  /-- `BUDGET_EXPIRY` (R380): A sequencer's cycle budget runs out and window pre-emption is requested. -/
  | budgetExpiry (q : Nat)
  /-- `RECLAIM_WAIT_EXPIRY` (R381): A reclaim is not applied within the reclaim wait and the ladder climbs. -/
  | reclaimWaitExpiry (q : Nat)
  /-- `MARK_WAIT_EXPIRY` (R381): A mark request is not met within the mark wait and the ladder climbs to immediate. -/
  | markWaitExpiry (p : Nat) (n : Nat)
  /-- `POST_RECLAIM` (R186): A sequencer control word posts a reclaim count. -/
  | postReclaim (q : Nat) (c : Nat)
  /-- `MARK_REQUEST` (R382): A sequencer control word posts a window pre-emption request. -/
  | markRequest (q : Nat)
  /-- `CLUSTER_HALT` (R384): A cluster command halts every sequencer of the cluster at unit boundaries. -/
  | clusterHalt (c : Nat)
  /-- `CLUSTER_HALTED` (R384): The last core of the cluster halts and the status shows halted. -/
  | clusterHalted (c : Nat)
  /-- `CELLAR_EXCHANGE` (R284): A cluster command exchanges the live cluster context with its Cellar shadow. -/
  | cellarExchange (c : Nat)
  /-- `EXCHANGE_DONE` (R284): The swap completes after about 4,421 cycles. -/
  | exchangeDone (c : Nat)
  /-- `DISCARD_SHADOW` (R384): A cluster command zeroes an unneeded Cellar shadow. -/
  | discardShadow (c : Nat)
  /-- `CLUSTER_RESUME` (R381): A cluster command resumes the halted cluster. -/
  | clusterResume (c : Nat)
  /-- `LAUNCH_RESUME` (R382): A window-pre-empted launch is bound again and its snapshots and live regions are restored. -/
  | launchResume (p : Nat) (n : Nat)
  /-- `ROLLBACK` (R313): Recover mode halts the launch, undoes the log to the newest good window, restores it and resumes. -/
  | rollback (p : Nat) (n : Nat)
  /-- `LOG_ENGINE_FAULT` (R315): The log engine faults and every logging launch with records on that die fails. -/
  | logEngineFault (d : Nat)
  /-- `DEBUG_STOP` (R311): STOP command: halts every sequencer and pauses every command of the launch. -/
  | debugStop (p : Nat)
  /-- `DEBUG_HALTED` (R311): Every sequencer has halted and every command has paused; busy falls and stopped rises. -/
  | debugHalted (p : Nat)
  /-- `DEBUG_RESUME` (R311): RESUME command: continues every sequencer and paused command. -/
  | debugResume (p : Nat)
  /-- `DEBUG_REWIND` (R311): REWIND command: undoes the records of windows at or after n and restores window n. -/
  | debugRewind (p : Nat) (force : Bool)
  /-- `DEBUG_REPLAY` (R311): REPLAY command: runs one sequencer for u more units. -/
  | debugReplay (p : Nat)
  /-- `REPLAY_COUNT_REACHED` (R311): The replayed sequencer has retired its units and stops. -/
  | replayCountReached (p : Nat)
  /-- `DEBUG_STEPBACK` (R311): STEPBACK command: rewinds to a restorable window and replays to k units earlier. -/
  | debugStepback (p : Nat) (force : Bool)
  /-- `TLB_INVALIDATE` (R300): A write of go starts an invalidation of translation buffers. -/
  | tlbInvalidate (d : Nat)
  /-- `INVALIDATION_DONE` (R300): Every buffer has dropped the entries and every earlier walk has finished; busy falls. -/
  | invalidationDone (d : Nat)
  /-- `TABLE_WALK` (R296): A page walk finishes and returns a translation or a fault. -/
  | tableWalk (q : Nat) (va : Word)
  /-- `LINK_TAG_EVICT` (R291): A tagged line is evicted after its 256-cycle hold, clearing its link tag. -/
  | linkTagEvict (line : Nat)
  /-- `LINE_FILL` (R329): The die cache fills a sector, decoding a compressed stored sector where needed. -/
  | lineFill (pa : Nat)
  /-- `LINE_WRITEBACK` (R329): A dirty line is written back, encoded in its chosen compressed form. -/
  | lineWriteback (pa : Nat)
  /-- `BROADCAST_PACKET` (R325): A broadcast request packet is served by the home die cache and its base dies. -/
  | broadcastPacket (bytes : List Byte)
  /-- `D2D_LINK_LOST` (R292): The die-to-die link is lost; accesses to the other die's home return poison. -/
  | d2dLinkLost
  /-- `CHANNEL_FAILURE` (R322): A channel fails retraining and is declared failed; its group runs degraded. -/
  | channelFailure (stack : Nat) (ch : Nat)
  /-- `DECLARE_CHANNEL_FAILED` (R336): A write to declare marks a channel failed. -/
  | declareChannelFailed (stack : Nat) (v : BitVec 32)
  /-- `REFRESH` (R330): A bank's refresh interval expires and the bank is refreshed, suspending a burst if needed. -/
  | refresh (stack : Nat) (bank : Nat)
  /-- `PATROL_SCRUB` (R333): The patrol scrub reads sectors and climbs the error ladder. -/
  | patrolScrub (pa : Nat)
  /-- `ROW_REMAP` (R331): rm_go starts a row remap: accesses held, row copied to a spare, entry written. -/
  | rowRemap (stack : Nat)
  /-- `REMAP_DONE` (R331): A remap finishes and the held accesses are released. -/
  | remapDone (stack : Nat)
  /-- `MIGRATION_START` (R334): mg_start marks pages migrating and begins copying. -/
  | migrationStart (stack : Nat)
  /-- `MIGRATION_PASS` (R334): The engine re-sends dirty lines until a pass finds none. -/
  | migrationPass (stack : Nat)
  /-- `MIGRATION_FREEZE` (R334): mg_freeze holds writes and sends the last dirty lines. -/
  | migrationFreeze (stack : Nat)
  /-- `MIGRATION_MOVED` (R334): mg_moved marks the source frames moved and releases the held writes. -/
  | migrationMoved (stack : Nat)
  /-- `MIGRATION_FREE` (R336): mg_free drops the moved marks so the frames may be reused. -/
  | migrationFree (stack : Nat)
  /-- `ERROR_COUNTER_CLEAR` (R315): A write of any value clears an error counter. -/
  | errorCounterClear (pa : Nat)
  /-- `PYRAMID_ASSIGN` (R359): The home assigns times to an append block, writes its items and performs its merges. -/
  | pyramidAssign (q : Nat)
  /-- `PYRAMID_SPAN_WRITE` (R363): The home writes a merged span into its slot later, or never. -/
  | pyramidSpanWrite (desc : Nat) (lvl : Nat) (k : Nat)
  /-- `LAUNCH_WINDOW_WRITE` (R373): An aligned 64-byte host write to LWIN submits a packet, and LSTAT holds the answer. -/
  | launchWindowWrite (p : Nat) (off : Nat) (bytes : List Byte)
  /-- `LSTAT_READ` (R373): Reading LSTAT returns the answer and clears its new bit. -/
  | lstatRead (p : Nat) (w : Nat)
  /-- `JTAIL_WRITE` (R374): The host advances jtail, freeing journal entries; invalid values are ignored. -/
  | jtailWrite (p : Nat) (v : BitVec 32)
  /-- `DOORBELL_WRITE` (R390): A write of a sequence number rings the doorbell at that launch's running sequencers. -/
  | doorbellWrite (p : Nat) (v : BitVec 32)
  /-- `ATTESTATION_REQUEST` (R393): A write to attreq starts an attestation. -/
  | attestationRequest (p : Nat) (pa : Nat)
  /-- `ATTESTATION_DONE` (R393): The signed report is written, att_done is set and vector 3 is raised. -/
  | attestationDone (p : Nat)
  /-- `REGISTER_WRITE` (R5): A write to a register with no behaviour of its own updates its writable fields. -/
  | registerWrite (pa : Nat) (v : Word) (sys : Bool)
  /-- `HOST_MEM_READ` (R389): A CXL.mem host read of device memory through the home die cache. -/
  | hostMemRead (pa : Nat) (n : Nat)
  /-- `HOST_MEM_WRITE` (R389): A CXL.mem host write to device memory, admitted at the home. -/
  | hostMemWrite (pa : Nat) (bytes : List Byte)
  /-- `INBOUND_REQUEST` (R412): A request flit from a peer is checked and performed for partition inpart, or refused. -/
  | inboundRequest (port : Nat) (flit : List Byte)
  /-- `PEER_REPLY` (R408): A reply flit completes a peer read or write, or reports a refusal or poison. -/
  | peerReply (port : Nat) (flit : List Byte)
  /-- `COLLECTIVE_DATA` (R408): A collective data flit delivers bytes toward a destination rank. -/
  | collectiveData (port : Nat) (flit : List Byte)
  /-- `FLIT_ACK` (R407): An acknowledgement flit retires replay entries or requests a replay. -/
  | flitAck (port : Nat) (flit : List Byte)
  /-- `PORT_RETRAIN` (R407): After 8 replays of one flit the port retrains, running at half rate or going down. -/
  | portRetrain (port : Nat) (lanes : Nat)
  /-- `PORT_DOWN` (R407): A port goes down until reset; a peer whose every port is down is lost. -/
  | portDown (port : Nat)
  /-- `LINK_UP` (R408): A link-up control flit announces the receiver's 256 buffers. -/
  | linkUp (port : Nat) (flit : List Byte)
  /-- `RETRAIN_REQUEST` (R408): A control flit asks the port to retrain. -/
  | retrainRequest (port : Nat) (flit : List Byte)
  /-- `COLLECTIVE_FAILED_MSG` (R408): A control flit reports that a collective has failed. -/
  | collectiveFailedMsg (port : Nat) (flit : List Byte)
  /-- `PEER_LOST_MSG` (R408): A control flit reports that a package is lost. -/
  | peerLostMsg (port : Nat) (flit : List Byte)
  /-- `PEER_TIMEOUT` (R411): A peer load receives no reply within 1 ms and fails with cause 20. -/
  | peerTimeout (port : Nat) (tag : Nat)
  /-- `COLLECTIVE_COMPLETE` (R417): Every contribution has arrived and rbuf holds the combined result. -/
  | collectiveComplete (k : Nat)
  /-- `COLLECTIVE_FAIL` (R420): A collective fails through a lost port or peer, a refusal or disagreeing descriptors. -/
  | collectiveFail (k : Nat) (reason : Nat) (port : Nat)
  /-- `RESET` (R391): Reset zeroes every SRAM, verifies and measures the firmware, wipes HBM and starts partition 0. -/
  | reset
  /-- `LIFECYCLE_TRANSITION` (R392): The fused life-cycle state moves forward and every SRAM and HBM is wiped. -/
  | lifecycleTransition (t : LifeState)
  /-- `THERMAL_STEP` (R398): Every 10 µs an island steps its clock down or up by its thermal monitors. -/
  | thermalStep (island : Nat)
  /-- `DROOP_EVENT` (R398): A voltage droop stretches the island's clock. -/
  | droopEvent (monitor : Nat)
  /-- `POWER_LIMIT_STEP` (R398): Package power above the limit drops the cluster islands one step. -/
  | powerLimitStep
  /-- `ILLEGAL_INSTRUCTION` (R25): A unit whose word is illegal or reserved, or which breaks the convoy rules, reaches Q0 and raises cause 1 or 2. -/
  | illegalInstruction (bad : Bool) (w : IWord) (pos : BitVec 2)
  /-- `FETCH_FAULT` (R34): A unit that cannot be fetched reaches Q0 and raises its fetch fault, cause 4 or 5, at the unit's address. -/
  | fetchFault (cause : BitVec 8) (va : Word)
  /-- `PARTITION_CONFIG_WRITE` (R386): The system partition writes a partition's configuration; the write takes effect only while the partition holds no launch, and it moves clusters, zeroes their state and resets collective counts. -/
  | partitionConfigWrite (p : Nat) (off : Nat) (v : Word)
  /-- `INTERRUPT_MASK_WRITE` (R390): A write of imask that sets a bit whose istat bit is pending delivers the held MSI-X vector. -/
  | interruptMaskWrite (p : Nat) (v : BitVec 4)
  /-- `CXL_CACHE_RESPONSE` (R389): The host answers a device RdCurr or ItoMWr request to the host window, completing that load or store. -/
  | cxlCacheResponse (tag : Nat) (bytes : List Byte)
  /-- `CXL_SNOOP` (R389): A CXL.cache snoop from the host arrives and the device answers as a device holding no host line. -/
  | cxlSnoop (hpa : Nat)
  /-- `BACK_INVALIDATE_RESPONSE` (R389): The host answers a back-invalidate that the home die cache sent before a device write to HDM-DB memory, letting that write proceed. -/
  | backInvalidateResponse (pa : Nat)
deriving DecidableEq, Repr

end Sys2Proof
end

