-- ==== Sys2Proof/WellFormed.lean ====
section
/-!
DEFINITION. Sys2Proof/WellFormed.lean: which field values of a word are legal (02_words_and_opcode_map.md
R25, R30, R33, R46 to R57; 10_vector_memory.md R217; 17_pyramid.md R356), and which words may form a convoy.
What builds an `Instr` is marked noncomputable: the compiler's runtime has no tags for this many constructors
with fields; the kernel evaluates it all the same.
-/

namespace Sys2Proof

/-- Field code of `Width` (R30). -/
def Width.code : Width → Nat
  | .s8 => 0 | .s16 => 1 | .s32 => 2 | .w64 => 3 | .z8 => 4 | .z16 => 5 | .z32 => 6

/-- A field that names a mask register as data takes 0 to 7 (R28). -/
def maskReg (r : Reg) : Bool := decide (r.toNat < 8)

/-- The barrier field takes 1 to 15 (R55). -/
def barrierNo (r : Reg) : Bool := decide (1 ≤ r.toNat ∧ r.toNat ≤ 15)

/-- The checks common to vld and vst: segments with unit and stride only, and xs zero in the unit
modes (R30, R50). -/
def vmemWf (e : VMode) (n : BitVec 3) (x : Reg) : Bool :=
  (n == 0 || e == .unit || e == .stride) && (x == 0 || e == .stride || e == .index)

/-- The operands of mt.mul (R53). -/
def mmulWf (t : BitVec 2) (a b s : Reg) (q : BitVec 3) : Bool :=
  (s == 8 || s == 16 || s == 24) && (a == 0 || q.toNat % 2 == 0) &&
    (t == 0 || q.toNat / 2 % 2 == 1) && (b == 0 || q.toNat / 4 % 2 == 1)

/-- The word of a table row, from its compact form, with link bit `l` (R33). -/
noncomputable def CWord.toInstr (l : Bool) : CWord → Instr
  | .int .vv .add d a b m => .vAdd l d a b m
  | .int .vv .sub d a b m => .vSub l d a b m
  | .int .vv .rsub d a b m => .vRsub l d a b m
  | .int .vv .mul d a b m => .vMul l d a b m
  | .int .vv .mulh d a b m => .vMulh l d a b m
  | .int .vv .mulhz d a b m => .vMulhz l d a b m
  | .int .vv .mac d a b m => .vMac l d a b m
  | .int .vv .nmac d a b m => .vNmac l d a b m
  | .int .vv .and d a b m => .vAnd l d a b m
  | .int .vv .or d a b m => .vOr l d a b m
  | .int .vv .xor d a b m => .vXor l d a b m
  | .int .vv .shl d a b m => .vShl l d a b m
  | .int .vv .shr d a b m => .vShr l d a b m
  | .int .vv .sra d a b m => .vSra l d a b m
  | .int .vv .rshr d a b m => .vRshr l d a b m
  | .int .vv .rshre d a b m => .vRshre l d a b m
  | .int .vv .min d a b m => .vMin l d a b m
  | .int .vv .max d a b m => .vMax l d a b m
  | .int .vv .minz d a b m => .vMinz l d a b m
  | .int .vv .maxz d a b m => .vMaxz l d a b m
  | .int .vv .abs d a _ m => .vAbs l d a m
  | .int .vv .avg d a b m => .vAvg l d a b m
  | .int .vv .div d a b m => .vDiv l d a b m
  | .int .vv .divz d a b m => .vDivz l d a b m
  | .int .vv .rem d a b m => .vRem l d a b m
  | .int .vv .remz d a b m => .vRemz l d a b m
  | .int .vv .cmpeq d a b m => .vCmpeq l d a b m
  | .int .vv .cmpne d a b m => .vCmpne l d a b m
  | .int .vv .cmplt d a b m => .vCmplt l d a b m
  | .int .vv .cmple d a b m => .vCmple l d a b m
  | .int .vv .cmpltz d a b m => .vCmpltz l d a b m
  | .int .vv .cmplez d a b m => .vCmplez l d a b m
  | .int .vv .sel d a b m => .vSel l d a b m
  | .int .vv .mv d a _ m => .vMv l d a m
  | .int .vv .clz d a _ m => .vClz l d a m
  | .int .vv .pop d a _ m => .vPop l d a m
  | .int .vs .add d a b m => .vsAdd l d a b m
  | .int .vs .sub d a b m => .vsSub l d a b m
  | .int .vs .rsub d a b m => .vsRsub l d a b m
  | .int .vs .mul d a b m => .vsMul l d a b m
  | .int .vs .mulh d a b m => .vsMulh l d a b m
  | .int .vs .mulhz d a b m => .vsMulhz l d a b m
  | .int .vs .mac d a b m => .vsMac l d a b m
  | .int .vs .nmac d a b m => .vsNmac l d a b m
  | .int .vs .and d a b m => .vsAnd l d a b m
  | .int .vs .or d a b m => .vsOr l d a b m
  | .int .vs .xor d a b m => .vsXor l d a b m
  | .int .vs .shl d a b m => .vsShl l d a b m
  | .int .vs .shr d a b m => .vsShr l d a b m
  | .int .vs .sra d a b m => .vsSra l d a b m
  | .int .vs .rshr d a b m => .vsRshr l d a b m
  | .int .vs .rshre d a b m => .vsRshre l d a b m
  | .int .vs .min d a b m => .vsMin l d a b m
  | .int .vs .max d a b m => .vsMax l d a b m
  | .int .vs .minz d a b m => .vsMinz l d a b m
  | .int .vs .maxz d a b m => .vsMaxz l d a b m
  | .int .vs .avg d a b m => .vsAvg l d a b m
  | .int .vs .div d a b m => .vsDiv l d a b m
  | .int .vs .divz d a b m => .vsDivz l d a b m
  | .int .vs .rem d a b m => .vsRem l d a b m
  | .int .vs .remz d a b m => .vsRemz l d a b m
  | .int .vs .cmpeq d a b m => .vsCmpeq l d a b m
  | .int .vs .cmpne d a b m => .vsCmpne l d a b m
  | .int .vs .cmplt d a b m => .vsCmplt l d a b m
  | .int .vs .cmple d a b m => .vsCmple l d a b m
  | .int .vs .cmpltz d a b m => .vsCmpltz l d a b m
  | .int .vs .cmplez d a b m => .vsCmplez l d a b m
  | .int .vs .sel d a b m => .vsSel l d a b m
  | .int .vs .mv d _ b m => .vsMv l d b m
  | .int .vi .add d a i m => .viAdd l d a i m
  | .int .vi .sub d a i m => .viSub l d a i m
  | .int .vi .rsub d a i m => .viRsub l d a i m
  | .int .vi .mul d a i m => .viMul l d a i m
  | .int .vi .mulh d a i m => .viMulh l d a i m
  | .int .vi .mulhz d a i m => .viMulhz l d a i m
  | .int .vi .mac d a i m => .viMac l d a i m
  | .int .vi .nmac d a i m => .viNmac l d a i m
  | .int .vi .and d a i m => .viAnd l d a i m
  | .int .vi .or d a i m => .viOr l d a i m
  | .int .vi .xor d a i m => .viXor l d a i m
  | .int .vi .shl d a i m => .viShl l d a i m
  | .int .vi .shr d a i m => .viShr l d a i m
  | .int .vi .sra d a i m => .viSra l d a i m
  | .int .vi .rshr d a i m => .viRshr l d a i m
  | .int .vi .rshre d a i m => .viRshre l d a i m
  | .int .vi .min d a i m => .viMin l d a i m
  | .int .vi .max d a i m => .viMax l d a i m
  | .int .vi .minz d a i m => .viMinz l d a i m
  | .int .vi .maxz d a i m => .viMaxz l d a i m
  | .int .vi .avg d a i m => .viAvg l d a i m
  | .int .vi .div d a i m => .viDiv l d a i m
  | .int .vi .divz d a i m => .viDivz l d a i m
  | .int .vi .rem d a i m => .viRem l d a i m
  | .int .vi .remz d a i m => .viRemz l d a i m
  | .int .vi .cmpeq d a i m => .viCmpeq l d a i m
  | .int .vi .cmpne d a i m => .viCmpne l d a i m
  | .int .vi .cmplt d a i m => .viCmplt l d a i m
  | .int .vi .cmple d a i m => .viCmple l d a i m
  | .int .vi .cmpltz d a i m => .viCmpltz l d a i m
  | .int .vi .cmplez d a i m => .viCmplez l d a i m
  | .int .vi .sel d a i m => .viSel l d a i m
  | .int .vi .mv d _ i m => .viMv l d i m
  | .fp false .add d a b m => .vfAdd l d a b m
  | .fp false .sub d a b m => .vfSub l d a b m
  | .fp false .mul d a b m => .vfMul l d a b m
  | .fp false .div d a b m => .vfDiv l d a b m
  | .fp false .fma d a b m => .vfFma l d a b m
  | .fp false .fms d a b m => .vfFms l d a b m
  | .fp false .fnma d a b m => .vfFnma l d a b m
  | .fp false .min d a b m => .vfMin l d a b m
  | .fp false .max d a b m => .vfMax l d a b m
  | .fp false .abs d a _ m => .vfAbs l d a m
  | .fp false .neg d a _ m => .vfNeg l d a m
  | .fp false .sqrt d a _ m => .vfSqrt l d a m
  | .fp false .rcpe d a _ m => .vfRcpe l d a m
  | .fp false .rsqe d a _ m => .vfRsqe l d a m
  | .fp false .exp2 d a _ m => .vfExp2 l d a m
  | .fp false .cmpeq d a b m => .vfCmpeq l d a b m
  | .fp false .cmplt d a b m => .vfCmplt l d a b m
  | .fp false .cmple d a b m => .vfCmple l d a b m
  | .fp false .class d a _ m => .vfClass l d a m
  | .fp false .sgnj d a b m => .vfSgnj l d a b m
  | .fp false .maxm d a b m => .vfMaxm l d a b m
  | .fp true .add d a b m => .vfsAdd l d a b m
  | .fp true .sub d a b m => .vfsSub l d a b m
  | .fp true .mul d a b m => .vfsMul l d a b m
  | .fp true .div d a b m => .vfsDiv l d a b m
  | .fp true .fma d a b m => .vfsFma l d a b m
  | .fp true .fms d a b m => .vfsFms l d a b m
  | .fp true .fnma d a b m => .vfsFnma l d a b m
  | .fp true .min d a b m => .vfsMin l d a b m
  | .fp true .max d a b m => .vfsMax l d a b m
  | .fp true .cmpeq d a b m => .vfsCmpeq l d a b m
  | .fp true .cmplt d a b m => .vfsCmplt l d a b m
  | .fp true .cmple d a b m => .vfsCmple l d a b m
  | .fp true .sgnj d a b m => .vfsSgnj l d a b m
  | .fp true .maxm d a b m => .vfsMaxm l d a b m
  | .cvt false d a m => .vcvCvt l d a m
  | .cvt true d a m => .vcvCvts l d a m
  | .qnt d a b m => .vcvQnt l d a b m
  | .had d a i m => .vcvHad l d a i m
  | .hash d a b m => .vcvHash l d a b m
  | .iota d b m => .vcvIota l d b m
  | .perm .slup d a b m => .vpSlup l d a b m
  | .perm .sldn d a b m => .vpSldn l d a b m
  | .perm .rgat d a b m => .vpRgat l d a b m
  | .perm .cmpr d a _ m => .vpCmpr l d a m
  | .perm .expd d a _ m => .vpExpd l d a m
  | .perm .xchg d a i m => .vpXchg l d a i m
  | .perm .sort d a _ m => .vpSort l d a m
  | .perm .merge d a b m => .vpMerge l d a b m
  | .perm .rsum d a b m => .vpRsum l d a b m
  | .perm .rmax d a b m => .vpRmax l d a b m
  | .perm .rmin d a b m => .vpRmin l d a b m
  | .perm .rand d a b m => .vpRand l d a b m
  | .perm .ror d a b m => .vpRor l d a b m
  | .perm .frsum d a b m => .vpFrsum l d a b m
  | .perm .frmax d a b m => .vpFrmax l d a b m
  | .perm .frmin d a b m => .vpFrmin l d a b m
  | .perm .scan d a b m => .vpScan l d a b m
  | .perm .fscan d a b m => .vpFscan l d a b m
  | .perm .mand d a b _ => .vpMand l d a b
  | .perm .mor d a b _ => .vpMor l d a b
  | .perm .mxor d a b _ => .vpMxor l d a b
  | .perm .mnot d a _ _ => .vpMnot l d a
  | .perm .mpop d a _ _ => .vpMpop l d a
  | .perm .mffs d a _ _ => .vpMffs l d a
  | .perm .mfirst d a _ _ => .vpMfirst l d a
  | .perm .bcast d a b m => .vpBcast l d a b m
  | .perm .ext d a b _ => .vpExt l d a b
  | .perm .insrt d a b _ => .vpInsrt l d a b
  | .wide .wmac d a b m => .vwWmac l d a b m
  | .wide .wmacz d a b m => .vwWmacz l d a b m
  | .wide .wmacsz d a b m => .vwWmacsz l d a b m
  | .wide .wadd d a b m => .vwWadd l d a b m
  | .wide .waddz d a b m => .vwWaddz l d a b m
  | .wide .wmul d a b m => .vwWmul l d a b m
  | .wide .nsat d a _ m => .vwNsat l d a m
  | .wide .nsatz d a _ m => .vwNsatz l d a m
  | .wide .nrshr d a i m => .vwNrshr l d a i m
  | .load ⟨d, a, x, m, e, n, o⟩ => .vld l d a x m e n o
  | .store ⟨d, a, x, m, e, n, o⟩ => .vst l d a x m e n o
  | .linkGet d a x m => .vlkGl l d a x m
  | .linkPut d a x m => .vlkSc l d a x m
  | .mzero c => .mZero c
  | .mop false c a b => .mOpa c a b
  | .mop true c a b => .mOps c a b
  | .mrdrow c a s => .mRdrow c a s
  | .mwrrow c a s => .mWrrow c a s
  | .mrdcol c a s => .mRdcol c a s
  | .mst c s => .mSt c s
  | .mld c s => .mLd c s
  | .mmul t c a b s q => .mtMul t c a b s q
  | .int .vs .abs d a _ m => .vAbs l d a m
  | .int .vs .clz d a _ m => .vClz l d a m
  | .int .vs .pop d a _ m => .vPop l d a m
  | .int .vi .abs d a _ m => .vAbs l d a m
  | .int .vi .clz d a _ m => .vClz l d a m
  | .int .vi .pop d a _ m => .vPop l d a m
  | .fp true .abs d a _ m => .vfAbs l d a m
  | .fp true .neg d a _ m => .vfNeg l d a m
  | .fp true .sqrt d a _ m => .vfSqrt l d a m
  | .fp true .rcpe d a _ m => .vfRcpe l d a m
  | .fp true .rsqe d a _ m => .vfRsqe l d a m
  | .fp true .exp2 d a _ m => .vfExp2 l d a m
  | .fp true .class d a _ m => .vfClass l d a m

/-- The compact form of a word that may stand in a convoy, with its link bit (R33); none for any other. -/
def Instr.toCWord : Instr → Option (Bool × CWord)
  | .kNop => none
  | .kTrap _ => none
  | .kBrk => none
  | .kEret => none
  | .kWfi => none
  | .kEnd => none
  | .kClaim => none
  | .kFence _ _ => none
  | .kLaunch _ _ => none
  | .kEgress _ _ => none
  | .kYield _ => none
  | .kcRw _ _ _ => none
  | .kcRs _ _ _ => none
  | .kcRc _ _ _ => none
  | .kcR _ _ => none
  | .aAdd _ _ _ => none
  | .aSub _ _ _ => none
  | .aAnd _ _ _ => none
  | .aOr _ _ _ => none
  | .aXor _ _ _ => none
  | .aShl _ _ _ => none
  | .aShr _ _ _ => none
  | .aSra _ _ _ => none
  | .aSlt _ _ _ => none
  | .aSltz _ _ _ => none
  | .aMin _ _ _ => none
  | .aMax _ _ _ => none
  | .aMinz _ _ _ => none
  | .aMaxz _ _ _ => none
  | .aMul _ _ _ => none
  | .aMulh _ _ _ => none
  | .aMulhz _ _ _ => none
  | .aDiv _ _ _ => none
  | .aDivz _ _ _ => none
  | .aRem _ _ _ => none
  | .aRemz _ _ _ => none
  | .aClz _ _ => none
  | .aCtz _ _ => none
  | .aPop _ _ => none
  | .aAddw _ _ _ => none
  | .aSubw _ _ _ => none
  | .aSext _ _ _ => none
  | .aZext _ _ _ => none
  | .sAdd _ _ _ => none
  | .sSub _ _ _ => none
  | .sAnd _ _ _ => none
  | .sOr _ _ _ => none
  | .sXor _ _ _ => none
  | .sShl _ _ _ => none
  | .sShr _ _ _ => none
  | .sSra _ _ _ => none
  | .sSlt _ _ _ => none
  | .sSltz _ _ _ => none
  | .sMin _ _ _ => none
  | .sMax _ _ _ => none
  | .sMinz _ _ _ => none
  | .sMaxz _ _ _ => none
  | .sMul _ _ _ => none
  | .sMulh _ _ _ => none
  | .sMulhz _ _ _ => none
  | .sDiv _ _ _ => none
  | .sDivz _ _ _ => none
  | .sRem _ _ _ => none
  | .sRemz _ _ _ => none
  | .sClz _ _ => none
  | .sCtz _ _ => none
  | .sPop _ _ => none
  | .sAddw _ _ _ => none
  | .sSubw _ _ _ => none
  | .sSext _ _ _ => none
  | .sZext _ _ _ => none
  | .sBqeq _ _ => none
  | .sBqne _ _ => none
  | .sBqlt _ _ => none
  | .sBqge _ _ => none
  | .sBqltz _ _ => none
  | .sBqgez _ _ => none
  | .aiAdd _ _ _ => none
  | .aiAnd _ _ _ => none
  | .aiOr _ _ _ => none
  | .aiXor _ _ _ => none
  | .aiShl _ _ _ => none
  | .aiShr _ _ _ => none
  | .aiSra _ _ _ => none
  | .aiSlt _ _ _ => none
  | .aiSltz _ _ _ => none
  | .aiMul _ _ _ => none
  | .siAdd _ _ _ => none
  | .siAnd _ _ _ => none
  | .siOr _ _ _ => none
  | .siXor _ _ _ => none
  | .siShl _ _ _ => none
  | .siShr _ _ _ => none
  | .siSra _ _ _ => none
  | .siSlt _ _ _ => none
  | .siSltz _ _ _ => none
  | .siMul _ _ _ => none
  | .ins _ _ _ _ => none
  | .ld _ _ _ _ _ _ => none
  | .st _ _ _ _ _ _ => none
  | .lkLl _ _ => none
  | .lkSc _ _ _ => none
  | .lkLl32 _ _ => none
  | .lkSc32 _ _ _ => none
  | .bEq _ _ _ _ => none
  | .bNe _ _ _ _ => none
  | .bLt _ _ _ _ => none
  | .bGe _ _ _ _ => none
  | .bLtz _ _ _ _ => none
  | .bGez _ _ _ _ => none
  | .bqT _ _ => none
  | .bqF _ _ => none
  | .j _ _ => none
  | .jal _ _ => none
  | .jr _ _ => none
  | .xStoa _ => none
  | .xAfroms _ => none
  | .xAtoe _ => none
  | .xSfrome _ => none
  | .xSpush _ => none
  | .xDrain _ => none
  | .sfAdd _ _ _ _ => none
  | .sfSub _ _ _ _ => none
  | .sfMul _ _ _ _ => none
  | .sfDiv _ _ _ _ => none
  | .sfSqrt _ _ _ => none
  | .sfMin _ _ _ _ => none
  | .sfMax _ _ _ _ => none
  | .sfFma _ _ _ _ => none
  | .sfCvfi _ _ _ => none
  | .sfCvif _ _ _ => none
  | .sfCvff _ _ _ => none
  | .sfLt _ _ _ _ => none
  | .sfEq _ _ _ _ => none
  | .sfLe _ _ _ _ => none
  | .vcSetvl _ _ _ => none
  | .vcSetvlmax _ _ => none
  | .vAdd l d a b m => some (l, .int .vv .add d a b m)
  | .vSub l d a b m => some (l, .int .vv .sub d a b m)
  | .vRsub l d a b m => some (l, .int .vv .rsub d a b m)
  | .vMul l d a b m => some (l, .int .vv .mul d a b m)
  | .vMulh l d a b m => some (l, .int .vv .mulh d a b m)
  | .vMulhz l d a b m => some (l, .int .vv .mulhz d a b m)
  | .vMac l d a b m => some (l, .int .vv .mac d a b m)
  | .vNmac l d a b m => some (l, .int .vv .nmac d a b m)
  | .vAnd l d a b m => some (l, .int .vv .and d a b m)
  | .vOr l d a b m => some (l, .int .vv .or d a b m)
  | .vXor l d a b m => some (l, .int .vv .xor d a b m)
  | .vShl l d a b m => some (l, .int .vv .shl d a b m)
  | .vShr l d a b m => some (l, .int .vv .shr d a b m)
  | .vSra l d a b m => some (l, .int .vv .sra d a b m)
  | .vRshr l d a b m => some (l, .int .vv .rshr d a b m)
  | .vRshre l d a b m => some (l, .int .vv .rshre d a b m)
  | .vMin l d a b m => some (l, .int .vv .min d a b m)
  | .vMax l d a b m => some (l, .int .vv .max d a b m)
  | .vMinz l d a b m => some (l, .int .vv .minz d a b m)
  | .vMaxz l d a b m => some (l, .int .vv .maxz d a b m)
  | .vAbs l d a m => some (l, .int .vv .abs d a 0 m)
  | .vAvg l d a b m => some (l, .int .vv .avg d a b m)
  | .vDiv l d a b m => some (l, .int .vv .div d a b m)
  | .vDivz l d a b m => some (l, .int .vv .divz d a b m)
  | .vRem l d a b m => some (l, .int .vv .rem d a b m)
  | .vRemz l d a b m => some (l, .int .vv .remz d a b m)
  | .vCmpeq l d a b m => some (l, .int .vv .cmpeq d a b m)
  | .vCmpne l d a b m => some (l, .int .vv .cmpne d a b m)
  | .vCmplt l d a b m => some (l, .int .vv .cmplt d a b m)
  | .vCmple l d a b m => some (l, .int .vv .cmple d a b m)
  | .vCmpltz l d a b m => some (l, .int .vv .cmpltz d a b m)
  | .vCmplez l d a b m => some (l, .int .vv .cmplez d a b m)
  | .vSel l d a b m => some (l, .int .vv .sel d a b m)
  | .vMv l d a m => some (l, .int .vv .mv d a 0 m)
  | .vClz l d a m => some (l, .int .vv .clz d a 0 m)
  | .vPop l d a m => some (l, .int .vv .pop d a 0 m)
  | .vsAdd l d a b m => some (l, .int .vs .add d a b m)
  | .vsSub l d a b m => some (l, .int .vs .sub d a b m)
  | .vsRsub l d a b m => some (l, .int .vs .rsub d a b m)
  | .vsMul l d a b m => some (l, .int .vs .mul d a b m)
  | .vsMulh l d a b m => some (l, .int .vs .mulh d a b m)
  | .vsMulhz l d a b m => some (l, .int .vs .mulhz d a b m)
  | .vsMac l d a b m => some (l, .int .vs .mac d a b m)
  | .vsNmac l d a b m => some (l, .int .vs .nmac d a b m)
  | .vsAnd l d a b m => some (l, .int .vs .and d a b m)
  | .vsOr l d a b m => some (l, .int .vs .or d a b m)
  | .vsXor l d a b m => some (l, .int .vs .xor d a b m)
  | .vsShl l d a b m => some (l, .int .vs .shl d a b m)
  | .vsShr l d a b m => some (l, .int .vs .shr d a b m)
  | .vsSra l d a b m => some (l, .int .vs .sra d a b m)
  | .vsRshr l d a b m => some (l, .int .vs .rshr d a b m)
  | .vsRshre l d a b m => some (l, .int .vs .rshre d a b m)
  | .vsMin l d a b m => some (l, .int .vs .min d a b m)
  | .vsMax l d a b m => some (l, .int .vs .max d a b m)
  | .vsMinz l d a b m => some (l, .int .vs .minz d a b m)
  | .vsMaxz l d a b m => some (l, .int .vs .maxz d a b m)
  | .vsAvg l d a b m => some (l, .int .vs .avg d a b m)
  | .vsDiv l d a b m => some (l, .int .vs .div d a b m)
  | .vsDivz l d a b m => some (l, .int .vs .divz d a b m)
  | .vsRem l d a b m => some (l, .int .vs .rem d a b m)
  | .vsRemz l d a b m => some (l, .int .vs .remz d a b m)
  | .vsCmpeq l d a b m => some (l, .int .vs .cmpeq d a b m)
  | .vsCmpne l d a b m => some (l, .int .vs .cmpne d a b m)
  | .vsCmplt l d a b m => some (l, .int .vs .cmplt d a b m)
  | .vsCmple l d a b m => some (l, .int .vs .cmple d a b m)
  | .vsCmpltz l d a b m => some (l, .int .vs .cmpltz d a b m)
  | .vsCmplez l d a b m => some (l, .int .vs .cmplez d a b m)
  | .vsSel l d a b m => some (l, .int .vs .sel d a b m)
  | .vsMv l d b m => some (l, .int .vs .mv d 0 b m)
  | .viAdd l d a i m => some (l, .int .vi .add d a i m)
  | .viSub l d a i m => some (l, .int .vi .sub d a i m)
  | .viRsub l d a i m => some (l, .int .vi .rsub d a i m)
  | .viMul l d a i m => some (l, .int .vi .mul d a i m)
  | .viMulh l d a i m => some (l, .int .vi .mulh d a i m)
  | .viMulhz l d a i m => some (l, .int .vi .mulhz d a i m)
  | .viMac l d a i m => some (l, .int .vi .mac d a i m)
  | .viNmac l d a i m => some (l, .int .vi .nmac d a i m)
  | .viAnd l d a i m => some (l, .int .vi .and d a i m)
  | .viOr l d a i m => some (l, .int .vi .or d a i m)
  | .viXor l d a i m => some (l, .int .vi .xor d a i m)
  | .viShl l d a i m => some (l, .int .vi .shl d a i m)
  | .viShr l d a i m => some (l, .int .vi .shr d a i m)
  | .viSra l d a i m => some (l, .int .vi .sra d a i m)
  | .viRshr l d a i m => some (l, .int .vi .rshr d a i m)
  | .viRshre l d a i m => some (l, .int .vi .rshre d a i m)
  | .viMin l d a i m => some (l, .int .vi .min d a i m)
  | .viMax l d a i m => some (l, .int .vi .max d a i m)
  | .viMinz l d a i m => some (l, .int .vi .minz d a i m)
  | .viMaxz l d a i m => some (l, .int .vi .maxz d a i m)
  | .viAvg l d a i m => some (l, .int .vi .avg d a i m)
  | .viDiv l d a i m => some (l, .int .vi .div d a i m)
  | .viDivz l d a i m => some (l, .int .vi .divz d a i m)
  | .viRem l d a i m => some (l, .int .vi .rem d a i m)
  | .viRemz l d a i m => some (l, .int .vi .remz d a i m)
  | .viCmpeq l d a i m => some (l, .int .vi .cmpeq d a i m)
  | .viCmpne l d a i m => some (l, .int .vi .cmpne d a i m)
  | .viCmplt l d a i m => some (l, .int .vi .cmplt d a i m)
  | .viCmple l d a i m => some (l, .int .vi .cmple d a i m)
  | .viCmpltz l d a i m => some (l, .int .vi .cmpltz d a i m)
  | .viCmplez l d a i m => some (l, .int .vi .cmplez d a i m)
  | .viSel l d a i m => some (l, .int .vi .sel d a i m)
  | .viMv l d i m => some (l, .int .vi .mv d 0 i m)
  | .vfAdd l d a b m => some (l, .fp false .add d a b m)
  | .vfSub l d a b m => some (l, .fp false .sub d a b m)
  | .vfMul l d a b m => some (l, .fp false .mul d a b m)
  | .vfDiv l d a b m => some (l, .fp false .div d a b m)
  | .vfFma l d a b m => some (l, .fp false .fma d a b m)
  | .vfFms l d a b m => some (l, .fp false .fms d a b m)
  | .vfFnma l d a b m => some (l, .fp false .fnma d a b m)
  | .vfMin l d a b m => some (l, .fp false .min d a b m)
  | .vfMax l d a b m => some (l, .fp false .max d a b m)
  | .vfAbs l d a m => some (l, .fp false .abs d a 0 m)
  | .vfNeg l d a m => some (l, .fp false .neg d a 0 m)
  | .vfSqrt l d a m => some (l, .fp false .sqrt d a 0 m)
  | .vfRcpe l d a m => some (l, .fp false .rcpe d a 0 m)
  | .vfRsqe l d a m => some (l, .fp false .rsqe d a 0 m)
  | .vfExp2 l d a m => some (l, .fp false .exp2 d a 0 m)
  | .vfCmpeq l d a b m => some (l, .fp false .cmpeq d a b m)
  | .vfCmplt l d a b m => some (l, .fp false .cmplt d a b m)
  | .vfCmple l d a b m => some (l, .fp false .cmple d a b m)
  | .vfClass l d a m => some (l, .fp false .class d a 0 m)
  | .vfSgnj l d a b m => some (l, .fp false .sgnj d a b m)
  | .vfMaxm l d a b m => some (l, .fp false .maxm d a b m)
  | .vfsAdd l d a b m => some (l, .fp true .add d a b m)
  | .vfsSub l d a b m => some (l, .fp true .sub d a b m)
  | .vfsMul l d a b m => some (l, .fp true .mul d a b m)
  | .vfsDiv l d a b m => some (l, .fp true .div d a b m)
  | .vfsFma l d a b m => some (l, .fp true .fma d a b m)
  | .vfsFms l d a b m => some (l, .fp true .fms d a b m)
  | .vfsFnma l d a b m => some (l, .fp true .fnma d a b m)
  | .vfsMin l d a b m => some (l, .fp true .min d a b m)
  | .vfsMax l d a b m => some (l, .fp true .max d a b m)
  | .vfsCmpeq l d a b m => some (l, .fp true .cmpeq d a b m)
  | .vfsCmplt l d a b m => some (l, .fp true .cmplt d a b m)
  | .vfsCmple l d a b m => some (l, .fp true .cmple d a b m)
  | .vfsSgnj l d a b m => some (l, .fp true .sgnj d a b m)
  | .vfsMaxm l d a b m => some (l, .fp true .maxm d a b m)
  | .vcvCvt l d a m => some (l, .cvt false d a m)
  | .vcvCvts l d a m => some (l, .cvt true d a m)
  | .vcvQnt l d a b m => some (l, .qnt d a b m)
  | .vcvHad l d a i m => some (l, .had d a i m)
  | .vcvHash l d a b m => some (l, .hash d a b m)
  | .vcvIota l d b m => some (l, .iota d b m)
  | .vpSlup l d a b m => some (l, .perm .slup d a b m)
  | .vpSldn l d a b m => some (l, .perm .sldn d a b m)
  | .vpRgat l d a b m => some (l, .perm .rgat d a b m)
  | .vpCmpr l d a m => some (l, .perm .cmpr d a 0 m)
  | .vpExpd l d a m => some (l, .perm .expd d a 0 m)
  | .vpXchg l d a i m => some (l, .perm .xchg d a i m)
  | .vpSort l d a m => some (l, .perm .sort d a 0 m)
  | .vpMerge l d a b m => some (l, .perm .merge d a b m)
  | .vpRsum l d a b m => some (l, .perm .rsum d a b m)
  | .vpRmax l d a b m => some (l, .perm .rmax d a b m)
  | .vpRmin l d a b m => some (l, .perm .rmin d a b m)
  | .vpRand l d a b m => some (l, .perm .rand d a b m)
  | .vpRor l d a b m => some (l, .perm .ror d a b m)
  | .vpFrsum l d a b m => some (l, .perm .frsum d a b m)
  | .vpFrmax l d a b m => some (l, .perm .frmax d a b m)
  | .vpFrmin l d a b m => some (l, .perm .frmin d a b m)
  | .vpScan l d a b m => some (l, .perm .scan d a b m)
  | .vpFscan l d a b m => some (l, .perm .fscan d a b m)
  | .vpMand l d a b => some (l, .perm .mand d a b 0)
  | .vpMor l d a b => some (l, .perm .mor d a b 0)
  | .vpMxor l d a b => some (l, .perm .mxor d a b 0)
  | .vpMnot l d a => some (l, .perm .mnot d a 0 0)
  | .vpMpop l d a => some (l, .perm .mpop d a 0 0)
  | .vpMffs l d a => some (l, .perm .mffs d a 0 0)
  | .vpMfirst l d a => some (l, .perm .mfirst d a 0 0)
  | .vpBcast l d a b m => some (l, .perm .bcast d a b m)
  | .vpExt l d a b => some (l, .perm .ext d a b 0)
  | .vpInsrt l d a b => some (l, .perm .insrt d a b 0)
  | .vwWmac l d a b m => some (l, .wide .wmac d a b m)
  | .vwWmacz l d a b m => some (l, .wide .wmacz d a b m)
  | .vwWmacsz l d a b m => some (l, .wide .wmacsz d a b m)
  | .vwWadd l d a b m => some (l, .wide .wadd d a b m)
  | .vwWaddz l d a b m => some (l, .wide .waddz d a b m)
  | .vwWmul l d a b m => some (l, .wide .wmul d a b m)
  | .vwNsat l d a m => some (l, .wide .nsat d a 0 m)
  | .vwNsatz l d a m => some (l, .wide .nsatz d a 0 m)
  | .vwNrshr l d a i m => some (l, .wide .nrshr d a i m)
  | .vld l d a x m e n o => some (l, .load ⟨d, a, x, m, e, n, o⟩)
  | .vst l d a x m e n o => some (l, .store ⟨d, a, x, m, e, n, o⟩)
  | .vlkGl l d a x m => some (l, .linkGet d a x m)
  | .vlkSc l d a x m => some (l, .linkPut d a x m)
  | .mOn _ => none
  | .mOff => none
  | .mZero c => some (false, .mzero c)
  | .mOpa c a b => some (false, .mop false c a b)
  | .mOps c a b => some (false, .mop true c a b)
  | .mRdrow c a s => some (false, .mrdrow c a s)
  | .mWrrow c a s => some (false, .mwrrow c a s)
  | .mRdcol c a s => some (false, .mrdcol c a s)
  | .mSt c s => some (false, .mst c s)
  | .mLd c s => some (false, .mld c s)
  | .mLdtab _ _ => none
  | .mtMul t c a b s q => some (false, .mmul t c a b s q)
  | .cCopy _ _ _ _ _ => none
  | .cGath _ _ _ _ _ => none
  | .cScat _ _ _ _ _ => none
  | .cXf _ _ _ _ _ => none
  | .cFill _ _ _ _ => none
  | .cWait _ => none
  | .cbSet _ _ => none
  | .cbArr _ => none
  | .cbWt _ => none
  | .cbArw _ => none
  | .cbSt _ _ => none
  | .pBind _ _ => none
  | .pApp _ _ _ _ => none
  | .pLd _ _ _ _ _ => none
  | .pLds _ _ _ _ => none
  | .pInfo _ _ _ => none
  | .pUnbind _ => none
  | .fColl _ _ => none
  | .fWait _ => none
  | .fTest _ _ => none
  | .wMark _ _ => none
  | .wInfo _ => none
  | .hPf _ _ _ => none
  | .hPfs _ _ _ => none
  | .hNop _ _ _ _ => none
  | .convoy _ => none
  | .timerExpiry _ => none
  | .interrupt _ => none
  | .homeWriteAdmit _ _ => none
  | .ringSpaceFreed _ _ => none
  | .matrixGrant _ => none
  | .engineRow _ _ => none
  | .engineComplete _ _ => none
  | .engineFault _ => none
  | .launchFail _ _ _ => none
  | .launchBind _ => none
  | .bindNextWrite _ _ _ _ _ => none
  | .bindWithdraw _ => none
  | .bindAdvance _ => none
  | .preloadCopyDone _ => none
  | .budgetExpiry _ => none
  | .reclaimWaitExpiry _ => none
  | .markWaitExpiry _ _ => none
  | .postReclaim _ _ => none
  | .markRequest _ => none
  | .clusterHalt _ => none
  | .clusterHalted _ => none
  | .cellarExchange _ => none
  | .exchangeDone _ => none
  | .discardShadow _ => none
  | .clusterResume _ => none
  | .launchResume _ _ => none
  | .rollback _ _ => none
  | .logEngineFault _ => none
  | .debugStop _ => none
  | .debugHalted _ => none
  | .debugResume _ => none
  | .debugRewind _ _ => none
  | .debugReplay _ => none
  | .replayCountReached _ => none
  | .debugStepback _ _ => none
  | .tlbInvalidate _ => none
  | .invalidationDone _ => none
  | .tableWalk _ _ => none
  | .linkTagEvict _ => none
  | .lineFill _ => none
  | .lineWriteback _ => none
  | .broadcastPacket _ => none
  | .d2dLinkLost => none
  | .channelFailure _ _ => none
  | .declareChannelFailed _ _ => none
  | .refresh _ _ => none
  | .patrolScrub _ => none
  | .rowRemap _ => none
  | .remapDone _ => none
  | .migrationStart _ => none
  | .migrationPass _ => none
  | .migrationFreeze _ => none
  | .migrationMoved _ => none
  | .migrationFree _ => none
  | .errorCounterClear _ => none
  | .pyramidAssign _ => none
  | .pyramidSpanWrite _ _ _ => none
  | .launchWindowWrite _ _ _ => none
  | .lstatRead _ _ => none
  | .jtailWrite _ _ => none
  | .doorbellWrite _ _ => none
  | .attestationRequest _ _ => none
  | .attestationDone _ => none
  | .registerWrite _ _ _ => none
  | .hostMemRead _ _ => none
  | .hostMemWrite _ _ => none
  | .inboundRequest _ _ => none
  | .peerReply _ _ => none
  | .collectiveData _ _ => none
  | .flitAck _ _ => none
  | .portRetrain _ _ => none
  | .portDown _ => none
  | .linkUp _ _ => none
  | .retrainRequest _ _ => none
  | .collectiveFailedMsg _ _ => none
  | .peerLostMsg _ _ => none
  | .peerTimeout _ _ => none
  | .collectiveComplete _ => none
  | .collectiveFail _ _ _ => none
  | .reset => none
  | .lifecycleTransition _ => none
  | .thermalStep _ => none
  | .droopEvent _ => none
  | .powerLimitStep => none
  | .illegalInstruction _ _ _ => none
  | .fetchFault _ _ => none
  | .partitionConfigWrite _ _ _ => none
  | .interruptMaskWrite _ _ => none
  | .cxlCacheResponse _ _ => none
  | .cxlSnoop _ => none
  | .backInvalidateResponse _ => none

/-- A matrix word: it carries no link bit and may only end a convoy (R33). -/
def CWord.isMatrix : CWord → Bool
  | .mzero _ | .mop _ _ _ _ | .mrdrow _ _ _ | .mwrrow _ _ _ | .mrdcol _ _ _ | .mst _ _ | .mld _ _
  | .mmul _ _ _ _ _ _ => true
  | .int _ _ _ _ _ _ | .fp _ _ _ _ _ _ | .cvt _ _ _ _ | .qnt _ _ _ _ | .had _ _ _ _ | .hash _ _ _ _
  | .iota _ _ _ | .perm _ _ _ _ _ | .wide _ _ _ _ _ | .load _ | .store _ | .linkGet _ _ _ _ | .linkPut _ _ _ _ => false

/-- Whether a linked word writes the chain slot vz: its destination is a vector register field of 31
(R35, R191). -/
def CWord.writesVz : CWord → Bool
  | .int _ fn d _ _ _ =>
    match fn with
    | .cmpeq | .cmpne | .cmplt | .cmple | .cmpltz | .cmplez => false
    | _ => d == 31
  | .fp _ fn d _ _ _ =>
    match fn with
    | .cmpeq | .cmplt | .cmple => false
    | _ => d == 31
  | .cvt _ d _ _ | .qnt d _ _ _ | .had d _ _ _ | .hash d _ _ _ | .iota d _ _ | .wide _ d _ _ _ => d == 31
  | .perm fn d _ _ _ =>
    match fn with
    | .slup | .sldn | .rgat | .cmpr | .expd | .xchg | .sort | .merge | .scan | .fscan | .bcast | .insrt => d == 31
    | _ => false
  | .load o => o.d == 31
  | .linkGet d _ _ _ => d == 31
  | .store _ | .linkPut _ _ _ _ | .mzero _ | .mop _ _ _ _ | .mrdrow _ _ _ | .mwrrow _ _ _ | .mrdcol _ _ _
  | .mst _ _ | .mld _ _ | .mmul _ _ _ _ _ _ => false

/-- Whether the word is a first-fault load, which only the first place of a unit admits (R217). -/
def CWord.isFirstFault : CWord → Bool
  | .load o => o.mode == .ff
  | _ => false

/-- Whether the word is mt.mul. -/
def CWord.isMul : CWord → Bool
  | .mmul _ _ _ _ _ _ => true
  | _ => false

/-- Field values of one word are legal (R25). A convoy is no word; the events carry no word. -/
def Instr.wordWf : Instr → Bool
  | .kNop => true
  | .kTrap _ => true
  | .kBrk => true
  | .kEret => true
  | .kWfi => true
  | .kEnd => true
  | .kClaim => true
  | .kFence s t => decide (1 ≤ s.toNat ∧ s.toNat ≤ 5 ∧ t.toNat ≠ 0)
  | .kLaunch _ _ => true
  | .kEgress _ _ => true
  | .kYield _ => true
  | .kcRw _ _ _ => true
  | .kcRs _ _ _ => true
  | .kcRc _ _ _ => true
  | .kcR _ _ => true
  | .aAdd _ _ _ => true
  | .aSub _ _ _ => true
  | .aAnd _ _ _ => true
  | .aOr _ _ _ => true
  | .aXor _ _ _ => true
  | .aShl _ _ _ => true
  | .aShr _ _ _ => true
  | .aSra _ _ _ => true
  | .aSlt _ _ _ => true
  | .aSltz _ _ _ => true
  | .aMin _ _ _ => true
  | .aMax _ _ _ => true
  | .aMinz _ _ _ => true
  | .aMaxz _ _ _ => true
  | .aMul _ _ _ => true
  | .aMulh _ _ _ => true
  | .aMulhz _ _ _ => true
  | .aDiv _ _ _ => true
  | .aDivz _ _ _ => true
  | .aRem _ _ _ => true
  | .aRemz _ _ _ => true
  | .aClz _ _ => true
  | .aCtz _ _ => true
  | .aPop _ _ => true
  | .aAddw _ _ _ => true
  | .aSubw _ _ _ => true
  | .aSext _ _ _ => true
  | .aZext _ _ _ => true
  | .sAdd _ _ _ => true
  | .sSub _ _ _ => true
  | .sAnd _ _ _ => true
  | .sOr _ _ _ => true
  | .sXor _ _ _ => true
  | .sShl _ _ _ => true
  | .sShr _ _ _ => true
  | .sSra _ _ _ => true
  | .sSlt _ _ _ => true
  | .sSltz _ _ _ => true
  | .sMin _ _ _ => true
  | .sMax _ _ _ => true
  | .sMinz _ _ _ => true
  | .sMaxz _ _ _ => true
  | .sMul _ _ _ => true
  | .sMulh _ _ _ => true
  | .sMulhz _ _ _ => true
  | .sDiv _ _ _ => true
  | .sDivz _ _ _ => true
  | .sRem _ _ _ => true
  | .sRemz _ _ _ => true
  | .sClz _ _ => true
  | .sCtz _ _ => true
  | .sPop _ _ => true
  | .sAddw _ _ _ => true
  | .sSubw _ _ _ => true
  | .sSext _ _ _ => true
  | .sZext _ _ _ => true
  | .sBqeq _ _ => true
  | .sBqne _ _ => true
  | .sBqlt _ _ => true
  | .sBqge _ _ => true
  | .sBqltz _ _ => true
  | .sBqgez _ _ => true
  | .aiAdd _ _ _ => true
  | .aiAnd _ _ _ => true
  | .aiOr _ _ _ => true
  | .aiXor _ _ _ => true
  | .aiShl _ _ _ => true
  | .aiShr _ _ _ => true
  | .aiSra _ _ _ => true
  | .aiSlt _ _ _ => true
  | .aiSltz _ _ _ => true
  | .aiMul _ _ _ => true
  | .siAdd _ _ _ => true
  | .siAnd _ _ _ => true
  | .siOr _ _ _ => true
  | .siXor _ _ _ => true
  | .siShl _ _ _ => true
  | .siShr _ _ _ => true
  | .siSra _ _ _ => true
  | .siSlt _ _ _ => true
  | .siSltz _ _ _ => true
  | .siMul _ _ _ => true
  | .ins _ _ _ _ => true
  | .ld d _ _ q _ _ => (!q || d == 0)
  | .st d _ w q _ _ => decide (w.code ≤ 3) && (!q || d == 0)
  | .lkLl _ _ => true
  | .lkSc _ _ _ => true
  | .lkLl32 _ _ => true
  | .lkSc32 _ _ _ => true
  | .bEq _ _ _ _ => true
  | .bNe _ _ _ _ => true
  | .bLt _ _ _ _ => true
  | .bGe _ _ _ _ => true
  | .bLtz _ _ _ _ => true
  | .bGez _ _ _ _ => true
  | .bqT _ _ => true
  | .bqF _ _ => true
  | .j n _ => decide (n ≠ .ifNot)
  | .jal n _ => decide (n ≠ .ifNot)
  | .jr _ _ => true
  | .xStoa _ => true
  | .xAfroms _ => true
  | .xAtoe _ => true
  | .xSfrome _ => true
  | .xSpush _ => true
  | .xDrain _ => true
  | .sfAdd _ _ _ _ => true
  | .sfSub _ _ _ _ => true
  | .sfMul _ _ _ _ => true
  | .sfDiv _ _ _ _ => true
  | .sfSqrt _ _ _ => true
  | .sfMin _ _ _ _ => true
  | .sfMax _ _ _ _ => true
  | .sfFma _ _ _ _ => true
  | .sfCvfi _ _ _ => true
  | .sfCvif _ _ _ => true
  | .sfCvff _ _ t => decide (t ≠ .f32)
  | .sfLt _ _ _ _ => true
  | .sfEq _ _ _ _ => true
  | .sfLe _ _ _ _ => true
  | .vcSetvl _ _ _ => true
  | .vcSetvlmax _ _ => true
  | .vAdd _ _ _ _ _ => true
  | .vSub _ _ _ _ _ => true
  | .vRsub _ _ _ _ _ => true
  | .vMul _ _ _ _ _ => true
  | .vMulh _ _ _ _ _ => true
  | .vMulhz _ _ _ _ _ => true
  | .vMac _ _ _ _ _ => true
  | .vNmac _ _ _ _ _ => true
  | .vAnd _ _ _ _ _ => true
  | .vOr _ _ _ _ _ => true
  | .vXor _ _ _ _ _ => true
  | .vShl _ _ _ _ _ => true
  | .vShr _ _ _ _ _ => true
  | .vSra _ _ _ _ _ => true
  | .vRshr _ _ _ _ _ => true
  | .vRshre _ _ _ _ _ => true
  | .vMin _ _ _ _ _ => true
  | .vMax _ _ _ _ _ => true
  | .vMinz _ _ _ _ _ => true
  | .vMaxz _ _ _ _ _ => true
  | .vAbs _ _ _ _ => true
  | .vAvg _ _ _ _ _ => true
  | .vDiv _ _ _ _ _ => true
  | .vDivz _ _ _ _ _ => true
  | .vRem _ _ _ _ _ => true
  | .vRemz _ _ _ _ _ => true
  | .vCmpeq _ d _ _ _ => maskReg d
  | .vCmpne _ d _ _ _ => maskReg d
  | .vCmplt _ d _ _ _ => maskReg d
  | .vCmple _ d _ _ _ => maskReg d
  | .vCmpltz _ d _ _ _ => maskReg d
  | .vCmplez _ d _ _ _ => maskReg d
  | .vSel _ _ _ _ m => decide (m ≠ 0)
  | .vMv _ _ _ _ => true
  | .vClz _ _ _ _ => true
  | .vPop _ _ _ _ => true
  | .vsAdd _ _ _ _ _ => true
  | .vsSub _ _ _ _ _ => true
  | .vsRsub _ _ _ _ _ => true
  | .vsMul _ _ _ _ _ => true
  | .vsMulh _ _ _ _ _ => true
  | .vsMulhz _ _ _ _ _ => true
  | .vsMac _ _ _ _ _ => true
  | .vsNmac _ _ _ _ _ => true
  | .vsAnd _ _ _ _ _ => true
  | .vsOr _ _ _ _ _ => true
  | .vsXor _ _ _ _ _ => true
  | .vsShl _ _ _ _ _ => true
  | .vsShr _ _ _ _ _ => true
  | .vsSra _ _ _ _ _ => true
  | .vsRshr _ _ _ _ _ => true
  | .vsRshre _ _ _ _ _ => true
  | .vsMin _ _ _ _ _ => true
  | .vsMax _ _ _ _ _ => true
  | .vsMinz _ _ _ _ _ => true
  | .vsMaxz _ _ _ _ _ => true
  | .vsAvg _ _ _ _ _ => true
  | .vsDiv _ _ _ _ _ => true
  | .vsDivz _ _ _ _ _ => true
  | .vsRem _ _ _ _ _ => true
  | .vsRemz _ _ _ _ _ => true
  | .vsCmpeq _ d _ _ _ => maskReg d
  | .vsCmpne _ d _ _ _ => maskReg d
  | .vsCmplt _ d _ _ _ => maskReg d
  | .vsCmple _ d _ _ _ => maskReg d
  | .vsCmpltz _ d _ _ _ => maskReg d
  | .vsCmplez _ d _ _ _ => maskReg d
  | .vsSel _ _ _ _ m => decide (m ≠ 0)
  | .vsMv _ _ _ _ => true
  | .viAdd _ _ _ _ _ => true
  | .viSub _ _ _ _ _ => true
  | .viRsub _ _ _ _ _ => true
  | .viMul _ _ _ _ _ => true
  | .viMulh _ _ _ _ _ => true
  | .viMulhz _ _ _ _ _ => true
  | .viMac _ _ _ _ _ => true
  | .viNmac _ _ _ _ _ => true
  | .viAnd _ _ _ _ _ => true
  | .viOr _ _ _ _ _ => true
  | .viXor _ _ _ _ _ => true
  | .viShl _ _ _ _ _ => true
  | .viShr _ _ _ _ _ => true
  | .viSra _ _ _ _ _ => true
  | .viRshr _ _ _ _ _ => true
  | .viRshre _ _ _ _ _ => true
  | .viMin _ _ _ _ _ => true
  | .viMax _ _ _ _ _ => true
  | .viMinz _ _ _ _ _ => true
  | .viMaxz _ _ _ _ _ => true
  | .viAvg _ _ _ _ _ => true
  | .viDiv _ _ _ _ _ => true
  | .viDivz _ _ _ _ _ => true
  | .viRem _ _ _ _ _ => true
  | .viRemz _ _ _ _ _ => true
  | .viCmpeq _ d _ _ _ => maskReg d
  | .viCmpne _ d _ _ _ => maskReg d
  | .viCmplt _ d _ _ _ => maskReg d
  | .viCmple _ d _ _ _ => maskReg d
  | .viCmpltz _ d _ _ _ => maskReg d
  | .viCmplez _ d _ _ _ => maskReg d
  | .viSel _ _ _ _ m => decide (m ≠ 0)
  | .viMv _ _ _ _ => true
  | .vfAdd _ _ _ _ _ => true
  | .vfSub _ _ _ _ _ => true
  | .vfMul _ _ _ _ _ => true
  | .vfDiv _ _ _ _ _ => true
  | .vfFma _ _ _ _ _ => true
  | .vfFms _ _ _ _ _ => true
  | .vfFnma _ _ _ _ _ => true
  | .vfMin _ _ _ _ _ => true
  | .vfMax _ _ _ _ _ => true
  | .vfAbs _ _ _ _ => true
  | .vfNeg _ _ _ _ => true
  | .vfSqrt _ _ _ _ => true
  | .vfRcpe _ _ _ _ => true
  | .vfRsqe _ _ _ _ => true
  | .vfExp2 _ _ _ _ => true
  | .vfCmpeq _ d _ _ _ => maskReg d
  | .vfCmplt _ d _ _ _ => maskReg d
  | .vfCmple _ d _ _ _ => maskReg d
  | .vfClass _ _ _ _ => true
  | .vfSgnj _ _ _ _ _ => true
  | .vfMaxm _ _ _ _ _ => true
  | .vfsAdd _ _ _ _ _ => true
  | .vfsSub _ _ _ _ _ => true
  | .vfsMul _ _ _ _ _ => true
  | .vfsDiv _ _ _ _ _ => true
  | .vfsFma _ _ _ _ _ => true
  | .vfsFms _ _ _ _ _ => true
  | .vfsFnma _ _ _ _ _ => true
  | .vfsMin _ _ _ _ _ => true
  | .vfsMax _ _ _ _ _ => true
  | .vfsCmpeq _ d _ _ _ => maskReg d
  | .vfsCmplt _ d _ _ _ => maskReg d
  | .vfsCmple _ d _ _ _ => maskReg d
  | .vfsSgnj _ _ _ _ _ => true
  | .vfsMaxm _ _ _ _ _ => true
  | .vcvCvt _ _ _ _ => true
  | .vcvCvts _ _ _ _ => true
  | .vcvQnt _ _ _ _ _ => true
  | .vcvHad _ _ _ i _ => decide (i.toNat ≤ 9)
  | .vcvHash _ _ _ _ _ => true
  | .vcvIota _ _ _ _ => true
  | .vpSlup _ _ _ _ _ => true
  | .vpSldn _ _ _ _ _ => true
  | .vpRgat _ _ _ _ _ => true
  | .vpCmpr _ _ _ _ => true
  | .vpExpd _ _ _ _ => true
  | .vpXchg _ _ _ i _ => decide (i.toNat ≤ 9)
  | .vpSort _ _ _ _ => true
  | .vpMerge _ _ _ _ _ => true
  | .vpRsum _ _ _ _ _ => true
  | .vpRmax _ _ _ _ _ => true
  | .vpRmin _ _ _ _ _ => true
  | .vpRand _ _ _ _ _ => true
  | .vpRor _ _ _ _ _ => true
  | .vpFrsum _ _ _ _ _ => true
  | .vpFrmax _ _ _ _ _ => true
  | .vpFrmin _ _ _ _ _ => true
  | .vpScan _ _ _ _ _ => true
  | .vpFscan _ _ _ _ _ => true
  | .vpMand _ d a b => maskReg d && maskReg a && maskReg b
  | .vpMor _ d a b => maskReg d && maskReg a && maskReg b
  | .vpMxor _ d a b => maskReg d && maskReg a && maskReg b
  | .vpMnot _ d a => maskReg d && maskReg a
  | .vpMpop _ _ a => maskReg a
  | .vpMffs _ _ a => maskReg a
  | .vpMfirst _ d _ => maskReg d
  | .vpBcast _ _ _ _ _ => true
  | .vpExt _ _ _ _ => true
  | .vpInsrt _ _ _ _ => true
  | .vwWmac _ _ _ _ _ => true
  | .vwWmacz _ _ _ _ _ => true
  | .vwWmacsz _ _ _ _ _ => true
  | .vwWadd _ _ _ _ _ => true
  | .vwWaddz _ _ _ _ _ => true
  | .vwWmul _ _ _ _ _ => true
  | .vwNsat _ _ _ _ => true
  | .vwNsatz _ _ _ _ => true
  | .vwNrshr _ _ _ _ _ => true
  | .vld _ _ _ x _ e n _ => vmemWf e n x
  | .vst _ _ _ x _ e n _ => vmemWf e n x && decide (e ≠ .ff)
  | .vlkGl _ _ _ _ _ => true
  | .vlkSc _ _ _ _ m => decide (m ≠ 0)
  | .mOn _ => true
  | .mOff => true
  | .mZero _ => true
  | .mOpa _ _ _ => true
  | .mOps _ _ _ => true
  | .mRdrow _ _ _ => true
  | .mWrrow _ _ _ => true
  | .mRdcol _ _ _ => true
  | .mSt _ s => decide (1 ≤ s.toNat ∧ s.toNat ≤ 30)
  | .mLd _ s => decide (1 ≤ s.toNat ∧ s.toNat ≤ 30)
  | .mLdtab _ _ => true
  | .mtMul t _ a b s q => mmulWf t a b s q
  | .cCopy _ _ _ _ _ => true
  | .cGath _ _ _ _ _ => true
  | .cScat _ _ _ _ _ => true
  | .cXf _ _ _ _ _ => true
  | .cFill _ _ _ _ => true
  | .cWait _ => true
  | .cbSet _ b => barrierNo b
  | .cbArr b => barrierNo b
  | .cbWt b => barrierNo b
  | .cbArw b => barrierNo b
  | .cbSt _ b => barrierNo b
  | .pBind _ _ => true
  | .pApp _ _ _ _ => true
  | .pLd d _ _ _ l => decide (d ≠ 31) && decide (l.toNat ≤ 11)
  | .pLds d _ _ l => decide (d ≠ 31) && decide (l.toNat ≤ 11)
  | .pInfo _ _ s => decide (s.toNat ≤ 5)
  | .pUnbind _ => true
  | .fColl _ _ => true
  | .fWait _ => true
  | .fTest _ _ => true
  | .wMark _ _ => true
  | .wInfo _ => true
  | .hPf _ _ _ => true
  | .hPfs _ _ _ => true
  | .hNop _ _ _ fn => decide (2 ≤ fn.toNat)
  | .convoy _ => false
  | .timerExpiry _ => true
  | .interrupt _ => true
  | .homeWriteAdmit _ _ => true
  | .ringSpaceFreed _ _ => true
  | .matrixGrant _ => true
  | .engineRow _ _ => true
  | .engineComplete _ _ => true
  | .engineFault _ => true
  | .launchFail _ _ _ => true
  | .launchBind _ => true
  | .bindNextWrite _ _ _ _ _ => true
  | .bindWithdraw _ => true
  | .bindAdvance _ => true
  | .preloadCopyDone _ => true
  | .budgetExpiry _ => true
  | .reclaimWaitExpiry _ => true
  | .markWaitExpiry _ _ => true
  | .postReclaim _ _ => true
  | .markRequest _ => true
  | .clusterHalt _ => true
  | .clusterHalted _ => true
  | .cellarExchange _ => true
  | .exchangeDone _ => true
  | .discardShadow _ => true
  | .clusterResume _ => true
  | .launchResume _ _ => true
  | .rollback _ _ => true
  | .logEngineFault _ => true
  | .debugStop _ => true
  | .debugHalted _ => true
  | .debugResume _ => true
  | .debugRewind _ _ => true
  | .debugReplay _ => true
  | .replayCountReached _ => true
  | .debugStepback _ _ => true
  | .tlbInvalidate _ => true
  | .invalidationDone _ => true
  | .tableWalk _ _ => true
  | .linkTagEvict _ => true
  | .lineFill _ => true
  | .lineWriteback _ => true
  | .broadcastPacket _ => true
  | .d2dLinkLost => true
  | .channelFailure _ _ => true
  | .declareChannelFailed _ _ => true
  | .refresh _ _ => true
  | .patrolScrub _ => true
  | .rowRemap _ => true
  | .remapDone _ => true
  | .migrationStart _ => true
  | .migrationPass _ => true
  | .migrationFreeze _ => true
  | .migrationMoved _ => true
  | .migrationFree _ => true
  | .errorCounterClear _ => true
  | .pyramidAssign _ => true
  | .pyramidSpanWrite _ _ _ => true
  | .launchWindowWrite _ _ _ => true
  | .lstatRead _ _ => true
  | .jtailWrite _ _ => true
  | .doorbellWrite _ _ => true
  | .attestationRequest _ _ => true
  | .attestationDone _ => true
  | .registerWrite _ _ _ => true
  | .hostMemRead _ _ => true
  | .hostMemWrite _ _ => true
  | .inboundRequest _ _ => true
  | .peerReply _ _ => true
  | .collectiveData _ _ => true
  | .flitAck _ _ => true
  | .portRetrain _ _ => true
  | .portDown _ => true
  | .linkUp _ _ => true
  | .retrainRequest _ _ => true
  | .collectiveFailedMsg _ _ => true
  | .peerLostMsg _ _ => true
  | .peerTimeout _ _ => true
  | .collectiveComplete _ => true
  | .collectiveFail _ _ _ => true
  | .reset => true
  | .lifecycleTransition _ => true
  | .thermalStep _ => true
  | .droopEvent _ => true
  | .powerLimitStep => true
  | .illegalInstruction _ _ _ => true
  | .fetchFault _ _ => true
  | .partitionConfigWrite _ _ _ => true
  | .interruptMaskWrite _ _ => true
  | .cxlCacheResponse _ _ => true
  | .cxlSnoop _ => true
  | .backInvalidateResponse _ => true

/-- Field values of a convoy's word are legal, and it is the form of that word: the fields that the word does not name are zero. -/
noncomputable def CWord.wf (c : CWord) : Bool := (c.toInstr false).wordWf && decide ((c.toInstr false).toCWord = some (false, c))

/-- Two neighbouring words of a convoy may be linked (R33, R217, R252): the first carries a link bit, the
second is no first-fault load, and no word that writes vz stands before mt.mul. -/
def CWord.mayPrecede (c d : CWord) : Bool :=
  !c.isMatrix && !d.isFirstFault && !(c.writesVz && d.isMul)

/-- Every neighbouring pair of a run may be linked. -/
def CWord.chainWf : List CWord → Bool
  | [] => true
  | [_] => true
  | c :: d :: rest => c.mayPrecede d && CWord.chainWf (d :: rest)

/-- An instruction is well formed: a legal word, or a convoy of two to four legal words that may be
linked (R25, R34); an event always is. -/
noncomputable def Instr.wf (i : Instr) : Bool :=
  match i with
  | .convoy ws => decide (2 ≤ ws.length ∧ ws.length ≤ 4) && ws.all CWord.wf && CWord.chainWf ws
  | i => i.wordWf

end Sys2Proof
end

