-- ==== Sys2Proof/Decode.lean ====
section
/-!
DEFINITION. Sys2Proof/Decode.lean: from words to instructions and back (02_words_and_opcode_map.md R24 to
R60). Fields are taken from the word read as a number, so that decoding and encoding are the same
arithmetic. `decodeWord` refuses an illegal word (R25); `decodeUnit` forms a unit (R34).
-/

namespace Sys2Proof

/-- The width a w field names (R30). -/
def Width.ofCode : Nat → Option Width
  | 0 => some .s8 | 1 => some .s16 | 2 => some .s32 | 3 => some .w64
  | 4 => some .z8 | 5 => some .z16 | 6 => some .z32 | _ => none

/-- Field code of `MemOrd` (R30). -/
def MemOrd.code : MemOrd → Nat
  | .plain => 0 | .sync => 1 | .strong => 2

/-- The ordering an ord field of ld and st names (R30). -/
def MemOrd.ofCode : Nat → Option MemOrd
  | 0 => some .plain | 1 => some .sync | 2 => some .strong | _ => none

/-- Field code of `Nul` (R30). -/
def Nul.code : Nul → Nat
  | .none => 0 | .ifNot => 1 | .ifTaken => 2

/-- The annulment a nul field names (R30). -/
def Nul.ofCode : Nat → Option Nul
  | 0 => some .none | 1 => some .ifNot | 2 => some .ifTaken | _ => Option.none

/-- Field code of `FpFmt` (R44). -/
def FpFmt.code : FpFmt → Nat
  | .h => 0 | .bf => 1 | .f32 => 2 | .f64 => 3

/-- The format fn[10:8] names (R44). -/
def FpFmt.ofCode : Nat → Option FpFmt
  | 0 => some .h | 1 => some .bf | 2 => some .f32 | 3 => some .f64 | _ => none

/-- Field code of `ExtW` (R40). -/
def ExtW.code : ExtW → Nat
  | .b8 => 0 | .b16 => 1 | .b32 => 2

/-- The width the rb field of sext and zext names (R40). -/
def ExtW.ofCode : Nat → Option ExtW
  | 0 => some .b8 | 1 => some .b16 | 2 => some .b32 | _ => none

/-- Field code of `VMode` (R30). -/
def VMode.code : VMode → Nat
  | .unit => 0 | .stride => 1 | .index => 2 | .ff => 3

/-- The addressing a mode field names (R30). -/
def VMode.ofCode : Nat → Option VMode
  | 0 => some .unit | 1 => some .stride | 2 => some .index | 3 => some .ff | _ => none

/-- Field code of `VOrd` (R30). -/
def VOrd.code : VOrd → Nat
  | .plain => 0 | .sync => 1 | .elem => 2

/-- The ordering an ord field of vld and vst names (R30). -/
def VOrd.ofCode : Nat → Option VOrd
  | 0 => some .plain | 1 => some .sync | 2 => some .elem | _ => none

/-- A 5-bit register field at bit `2 ^ k = p` of word `n`. -/
def regAt (n p : Nat) : Reg := BitVec.ofNat 5 (n / p)

/-- Words of major k (R37). -/
noncomputable def decodeK (wn : Nat) : Option Instr :=
  match wn % 2048 with
  | 1 => if wn / 2048 % 32768 = 0 then some .kNop else none
  | 2 => if wn / 2048 % 32 = 0 ∧ wn / 2097152 % 32 = 0 then some (.kTrap (regAt wn 65536)) else none
  | 3 => if wn / 2048 % 32768 = 0 then some .kBrk else none
  | 4 => if wn / 2048 % 32768 = 0 then some .kEret else none
  | 5 => if wn / 2048 % 32768 = 0 then some .kWfi else none
  | 6 => if wn / 2048 % 32768 = 0 then some .kEnd else none
  | 7 => if wn / 2048 % 32768 = 0 then some .kClaim else none
  | 8 => if wn / 2048 % 32 = 0 then some (.kFence (regAt wn 2097152) (regAt wn 65536)) else none
  | 9 => if wn / 2048 % 32 = 0 then some (.kLaunch (regAt wn 2097152) (regAt wn 65536)) else none
  | 10 => if wn / 2048 % 32 = 0 then some (.kEgress (regAt wn 2097152) (regAt wn 65536)) else none
  | 11 => if wn / 2048 % 32 = 0 ∧ wn / 2097152 % 32 = 0 then some (.kYield (regAt wn 65536)) else none
  | _ => none

/-- Words of major kc (R37). -/
noncomputable def decodeKc (wn : Nat) : Option Instr :=
  match wn / 16384 % 4 with
  | 0 => some (.kcRw (regAt wn 2097152) (regAt wn 65536) (BitVec.ofNat 14 (wn)))
  | 1 => some (.kcRs (regAt wn 2097152) (regAt wn 65536) (BitVec.ofNat 14 (wn)))
  | 2 => some (.kcRc (regAt wn 2097152) (regAt wn 65536) (BitVec.ofNat 14 (wn)))
  | 3 => if wn / 65536 % 32 = 0 then some (.kcR (regAt wn 2097152) (BitVec.ofNat 14 (wn))) else none
  | _ => none

/-- Words of major a (R37). -/
noncomputable def decodeA (wn : Nat) : Option Instr :=
  match wn % 2048 with
  | 0 => some (.aAdd (regAt wn 2097152) (regAt wn 65536) (regAt wn 2048))
  | 1 => some (.aSub (regAt wn 2097152) (regAt wn 65536) (regAt wn 2048))
  | 2 => some (.aAnd (regAt wn 2097152) (regAt wn 65536) (regAt wn 2048))
  | 3 => some (.aOr (regAt wn 2097152) (regAt wn 65536) (regAt wn 2048))
  | 4 => some (.aXor (regAt wn 2097152) (regAt wn 65536) (regAt wn 2048))
  | 5 => some (.aShl (regAt wn 2097152) (regAt wn 65536) (regAt wn 2048))
  | 6 => some (.aShr (regAt wn 2097152) (regAt wn 65536) (regAt wn 2048))
  | 7 => some (.aSra (regAt wn 2097152) (regAt wn 65536) (regAt wn 2048))
  | 8 => some (.aSlt (regAt wn 2097152) (regAt wn 65536) (regAt wn 2048))
  | 9 => some (.aSltz (regAt wn 2097152) (regAt wn 65536) (regAt wn 2048))
  | 10 => some (.aMin (regAt wn 2097152) (regAt wn 65536) (regAt wn 2048))
  | 11 => some (.aMax (regAt wn 2097152) (regAt wn 65536) (regAt wn 2048))
  | 12 => some (.aMinz (regAt wn 2097152) (regAt wn 65536) (regAt wn 2048))
  | 13 => some (.aMaxz (regAt wn 2097152) (regAt wn 65536) (regAt wn 2048))
  | 14 => some (.aMul (regAt wn 2097152) (regAt wn 65536) (regAt wn 2048))
  | 15 => some (.aMulh (regAt wn 2097152) (regAt wn 65536) (regAt wn 2048))
  | 16 => some (.aMulhz (regAt wn 2097152) (regAt wn 65536) (regAt wn 2048))
  | 17 => some (.aDiv (regAt wn 2097152) (regAt wn 65536) (regAt wn 2048))
  | 18 => some (.aDivz (regAt wn 2097152) (regAt wn 65536) (regAt wn 2048))
  | 19 => some (.aRem (regAt wn 2097152) (regAt wn 65536) (regAt wn 2048))
  | 20 => some (.aRemz (regAt wn 2097152) (regAt wn 65536) (regAt wn 2048))
  | 21 => if wn / 2048 % 32 = 0 then some (.aClz (regAt wn 2097152) (regAt wn 65536)) else none
  | 22 => if wn / 2048 % 32 = 0 then some (.aCtz (regAt wn 2097152) (regAt wn 65536)) else none
  | 23 => if wn / 2048 % 32 = 0 then some (.aPop (regAt wn 2097152) (regAt wn 65536)) else none
  | 24 => some (.aAddw (regAt wn 2097152) (regAt wn 65536) (regAt wn 2048))
  | 25 => some (.aSubw (regAt wn 2097152) (regAt wn 65536) (regAt wn 2048))
  | 26 => (ExtW.ofCode (wn / 2048 % 32)).bind fun w => some (.aSext (regAt wn 2097152) (regAt wn 65536) w)
  | 27 => (ExtW.ofCode (wn / 2048 % 32)).bind fun w => some (.aZext (regAt wn 2097152) (regAt wn 65536) w)
  | _ => none

/-- Words of major ai (R37). -/
noncomputable def decodeAi (wn : Nat) : Option Instr :=
  match wn / 4096 % 16 with
  | 0 => some (.aiAdd (regAt wn 2097152) (regAt wn 65536) (BitVec.ofNat 12 (wn)))
  | 1 => some (.aiAnd (regAt wn 2097152) (regAt wn 65536) (BitVec.ofNat 12 (wn)))
  | 2 => some (.aiOr (regAt wn 2097152) (regAt wn 65536) (BitVec.ofNat 12 (wn)))
  | 3 => some (.aiXor (regAt wn 2097152) (regAt wn 65536) (BitVec.ofNat 12 (wn)))
  | 4 => if wn / 64 % 64 = 0 then some (.aiShl (regAt wn 2097152) (regAt wn 65536) (BitVec.ofNat 6 (wn))) else none
  | 5 => if wn / 64 % 64 = 0 then some (.aiShr (regAt wn 2097152) (regAt wn 65536) (BitVec.ofNat 6 (wn))) else none
  | 6 => if wn / 64 % 64 = 0 then some (.aiSra (regAt wn 2097152) (regAt wn 65536) (BitVec.ofNat 6 (wn))) else none
  | 7 => some (.aiSlt (regAt wn 2097152) (regAt wn 65536) (BitVec.ofNat 12 (wn)))
  | 8 => some (.aiSltz (regAt wn 2097152) (regAt wn 65536) (BitVec.ofNat 12 (wn)))
  | 9 => some (.aiMul (regAt wn 2097152) (regAt wn 65536) (BitVec.ofNat 12 (wn)))
  | _ => none

/-- Words of major s (R37). -/
noncomputable def decodeS (wn : Nat) : Option Instr :=
  match wn % 2048 with
  | 0 => some (.sAdd (regAt wn 2097152) (regAt wn 65536) (regAt wn 2048))
  | 1 => some (.sSub (regAt wn 2097152) (regAt wn 65536) (regAt wn 2048))
  | 2 => some (.sAnd (regAt wn 2097152) (regAt wn 65536) (regAt wn 2048))
  | 3 => some (.sOr (regAt wn 2097152) (regAt wn 65536) (regAt wn 2048))
  | 4 => some (.sXor (regAt wn 2097152) (regAt wn 65536) (regAt wn 2048))
  | 5 => some (.sShl (regAt wn 2097152) (regAt wn 65536) (regAt wn 2048))
  | 6 => some (.sShr (regAt wn 2097152) (regAt wn 65536) (regAt wn 2048))
  | 7 => some (.sSra (regAt wn 2097152) (regAt wn 65536) (regAt wn 2048))
  | 8 => some (.sSlt (regAt wn 2097152) (regAt wn 65536) (regAt wn 2048))
  | 9 => some (.sSltz (regAt wn 2097152) (regAt wn 65536) (regAt wn 2048))
  | 10 => some (.sMin (regAt wn 2097152) (regAt wn 65536) (regAt wn 2048))
  | 11 => some (.sMax (regAt wn 2097152) (regAt wn 65536) (regAt wn 2048))
  | 12 => some (.sMinz (regAt wn 2097152) (regAt wn 65536) (regAt wn 2048))
  | 13 => some (.sMaxz (regAt wn 2097152) (regAt wn 65536) (regAt wn 2048))
  | 14 => some (.sMul (regAt wn 2097152) (regAt wn 65536) (regAt wn 2048))
  | 15 => some (.sMulh (regAt wn 2097152) (regAt wn 65536) (regAt wn 2048))
  | 16 => some (.sMulhz (regAt wn 2097152) (regAt wn 65536) (regAt wn 2048))
  | 17 => some (.sDiv (regAt wn 2097152) (regAt wn 65536) (regAt wn 2048))
  | 18 => some (.sDivz (regAt wn 2097152) (regAt wn 65536) (regAt wn 2048))
  | 19 => some (.sRem (regAt wn 2097152) (regAt wn 65536) (regAt wn 2048))
  | 20 => some (.sRemz (regAt wn 2097152) (regAt wn 65536) (regAt wn 2048))
  | 21 => if wn / 2048 % 32 = 0 then some (.sClz (regAt wn 2097152) (regAt wn 65536)) else none
  | 22 => if wn / 2048 % 32 = 0 then some (.sCtz (regAt wn 2097152) (regAt wn 65536)) else none
  | 23 => if wn / 2048 % 32 = 0 then some (.sPop (regAt wn 2097152) (regAt wn 65536)) else none
  | 24 => some (.sAddw (regAt wn 2097152) (regAt wn 65536) (regAt wn 2048))
  | 25 => some (.sSubw (regAt wn 2097152) (regAt wn 65536) (regAt wn 2048))
  | 26 => (ExtW.ofCode (wn / 2048 % 32)).bind fun w => some (.sSext (regAt wn 2097152) (regAt wn 65536) w)
  | 27 => (ExtW.ofCode (wn / 2048 % 32)).bind fun w => some (.sZext (regAt wn 2097152) (regAt wn 65536) w)
  | 32 => if wn / 2097152 % 32 = 0 then some (.sBqeq (regAt wn 65536) (regAt wn 2048)) else none
  | 33 => if wn / 2097152 % 32 = 0 then some (.sBqne (regAt wn 65536) (regAt wn 2048)) else none
  | 34 => if wn / 2097152 % 32 = 0 then some (.sBqlt (regAt wn 65536) (regAt wn 2048)) else none
  | 35 => if wn / 2097152 % 32 = 0 then some (.sBqge (regAt wn 65536) (regAt wn 2048)) else none
  | 36 => if wn / 2097152 % 32 = 0 then some (.sBqltz (regAt wn 65536) (regAt wn 2048)) else none
  | 37 => if wn / 2097152 % 32 = 0 then some (.sBqgez (regAt wn 65536) (regAt wn 2048)) else none
  | _ => none

/-- Words of major si (R37). -/
noncomputable def decodeSi (wn : Nat) : Option Instr :=
  match wn / 4096 % 16 with
  | 0 => some (.siAdd (regAt wn 2097152) (regAt wn 65536) (BitVec.ofNat 12 (wn)))
  | 1 => some (.siAnd (regAt wn 2097152) (regAt wn 65536) (BitVec.ofNat 12 (wn)))
  | 2 => some (.siOr (regAt wn 2097152) (regAt wn 65536) (BitVec.ofNat 12 (wn)))
  | 3 => some (.siXor (regAt wn 2097152) (regAt wn 65536) (BitVec.ofNat 12 (wn)))
  | 4 => if wn / 64 % 64 = 0 then some (.siShl (regAt wn 2097152) (regAt wn 65536) (BitVec.ofNat 6 (wn))) else none
  | 5 => if wn / 64 % 64 = 0 then some (.siShr (regAt wn 2097152) (regAt wn 65536) (BitVec.ofNat 6 (wn))) else none
  | 6 => if wn / 64 % 64 = 0 then some (.siSra (regAt wn 2097152) (regAt wn 65536) (BitVec.ofNat 6 (wn))) else none
  | 7 => some (.siSlt (regAt wn 2097152) (regAt wn 65536) (BitVec.ofNat 12 (wn)))
  | 8 => some (.siSltz (regAt wn 2097152) (regAt wn 65536) (BitVec.ofNat 12 (wn)))
  | 9 => some (.siMul (regAt wn 2097152) (regAt wn 65536) (BitVec.ofNat 12 (wn)))
  | _ => none

/-- Words of major ins (R37). -/
noncomputable def decodeIns (wn : Nat) : Option Instr :=
  if wn / 65536 % 4 = 0 then some (.ins (regAt wn 2097152) (wn / 1048576 % 2 == 1) (BitVec.ofNat 2 (wn / 262144)) (BitVec.ofNat 16 (wn))) else none

/-- Words of major ld (R37). -/
noncomputable def decodeLd (wn : Nat) : Option Instr :=
  (Width.ofCode (wn / 8192 % 8)).bind fun w => (MemOrd.ofCode (wn / 1024 % 4)).bind fun o => some (.ld (regAt wn 2097152) (regAt wn 65536) w (wn / 4096 % 2 == 1) o (BitVec.ofNat 10 (wn)))

/-- Words of major st (R37). -/
noncomputable def decodeSt (wn : Nat) : Option Instr :=
  (Width.ofCode (wn / 8192 % 8)).bind fun w => (MemOrd.ofCode (wn / 1024 % 4)).bind fun o => some (.st (regAt wn 2097152) (regAt wn 65536) w (wn / 4096 % 2 == 1) o (BitVec.ofNat 10 (wn)))

/-- Words of major lk (R37). -/
noncomputable def decodeLk (wn : Nat) : Option Instr :=
  match wn % 2048 with
  | 0 => if wn / 2048 % 32 = 0 then some (.lkLl (regAt wn 2097152) (regAt wn 65536)) else none
  | 1 => some (.lkSc (regAt wn 2097152) (regAt wn 65536) (regAt wn 2048))
  | 2 => if wn / 2048 % 32 = 0 then some (.lkLl32 (regAt wn 2097152) (regAt wn 65536)) else none
  | 3 => some (.lkSc32 (regAt wn 2097152) (regAt wn 65536) (regAt wn 2048))
  | _ => none

/-- Words of major b (R37). -/
noncomputable def decodeB (wn : Nat) : Option Instr :=
  match wn / 8192 % 8 with
  | 0 => (Nul.ofCode (wn / 2048 % 4)).bind fun n => some (.bEq (regAt wn 2097152) (regAt wn 65536) n (BitVec.ofNat 11 (wn)))
  | 1 => (Nul.ofCode (wn / 2048 % 4)).bind fun n => some (.bNe (regAt wn 2097152) (regAt wn 65536) n (BitVec.ofNat 11 (wn)))
  | 2 => (Nul.ofCode (wn / 2048 % 4)).bind fun n => some (.bLt (regAt wn 2097152) (regAt wn 65536) n (BitVec.ofNat 11 (wn)))
  | 3 => (Nul.ofCode (wn / 2048 % 4)).bind fun n => some (.bGe (regAt wn 2097152) (regAt wn 65536) n (BitVec.ofNat 11 (wn)))
  | 4 => (Nul.ofCode (wn / 2048 % 4)).bind fun n => some (.bLtz (regAt wn 2097152) (regAt wn 65536) n (BitVec.ofNat 11 (wn)))
  | 5 => (Nul.ofCode (wn / 2048 % 4)).bind fun n => some (.bGez (regAt wn 2097152) (regAt wn 65536) n (BitVec.ofNat 11 (wn)))
  | _ => none

/-- Words of major bq (R37). -/
noncomputable def decodeBq (wn : Nat) : Option Instr :=
  match wn / 8192 % 8 with
  | 0 => if wn / 65536 % 1024 = 0 then (Nul.ofCode (wn / 2048 % 4)).bind fun n => some (.bqT n (BitVec.ofNat 11 (wn))) else none
  | 1 => if wn / 65536 % 1024 = 0 then (Nul.ofCode (wn / 2048 % 4)).bind fun n => some (.bqF n (BitVec.ofNat 11 (wn))) else none
  | _ => none

/-- Words of major j (R37). -/
noncomputable def decodeJ (wn : Nat) : Option Instr :=
  (Nul.ofCode (wn / 16777216 % 4)).bind fun n => some (.j n (BitVec.ofNat 24 (wn)))

/-- Words of major jal (R37). -/
noncomputable def decodeJal (wn : Nat) : Option Instr :=
  (Nul.ofCode (wn / 16777216 % 4)).bind fun n => some (.jal n (BitVec.ofNat 24 (wn)))

/-- Words of major jr (R37). -/
noncomputable def decodeJr (wn : Nat) : Option Instr :=
  if wn % 65536 = 0 then some (.jr (regAt wn 2097152) (regAt wn 65536)) else none

/-- Words of major x (R37). -/
noncomputable def decodeX (wn : Nat) : Option Instr :=
  match wn % 2048 with
  | 0 => if wn / 2048 % 32 = 0 ∧ wn / 2097152 % 32 = 0 then some (.xStoa (regAt wn 65536)) else none
  | 1 => if wn / 2048 % 1024 = 0 then some (.xAfroms (regAt wn 2097152)) else none
  | 2 => if wn / 2048 % 32 = 0 ∧ wn / 2097152 % 32 = 0 then some (.xAtoe (regAt wn 65536)) else none
  | 3 => if wn / 2048 % 1024 = 0 then some (.xSfrome (regAt wn 2097152)) else none
  | 4 => if wn / 2048 % 32 = 0 ∧ wn / 2097152 % 32 = 0 then some (.xSpush (regAt wn 65536)) else none
  | 5 => if wn / 524288 % 128 = 0 then some (.xDrain (BitVec.ofNat 8 (wn / 2048))) else none
  | _ => none

/-- Words of major sf (R37). -/
noncomputable def decodeSf (wn : Nat) : Option Instr :=
  match wn % 64 with
  | 0 => if wn / 64 % 4 = 0 then (FpFmt.ofCode (wn / 256 % 8)).bind fun t => some (.sfAdd (regAt wn 2097152) (regAt wn 65536) (regAt wn 2048) t) else none
  | 1 => if wn / 64 % 4 = 0 then (FpFmt.ofCode (wn / 256 % 8)).bind fun t => some (.sfSub (regAt wn 2097152) (regAt wn 65536) (regAt wn 2048) t) else none
  | 2 => if wn / 64 % 4 = 0 then (FpFmt.ofCode (wn / 256 % 8)).bind fun t => some (.sfMul (regAt wn 2097152) (regAt wn 65536) (regAt wn 2048) t) else none
  | 3 => if wn / 64 % 4 = 0 then (FpFmt.ofCode (wn / 256 % 8)).bind fun t => some (.sfDiv (regAt wn 2097152) (regAt wn 65536) (regAt wn 2048) t) else none
  | 4 => if wn / 64 % 4 = 0 ∧ wn / 2048 % 32 = 0 then (FpFmt.ofCode (wn / 256 % 8)).bind fun t => some (.sfSqrt (regAt wn 2097152) (regAt wn 65536) t) else none
  | 5 => if wn / 64 % 4 = 0 then (FpFmt.ofCode (wn / 256 % 8)).bind fun t => some (.sfMin (regAt wn 2097152) (regAt wn 65536) (regAt wn 2048) t) else none
  | 6 => if wn / 64 % 4 = 0 then (FpFmt.ofCode (wn / 256 % 8)).bind fun t => some (.sfMax (regAt wn 2097152) (regAt wn 65536) (regAt wn 2048) t) else none
  | 7 => if wn / 64 % 4 = 0 then (FpFmt.ofCode (wn / 256 % 8)).bind fun t => some (.sfFma (regAt wn 2097152) (regAt wn 65536) (regAt wn 2048) t) else none
  | 8 => if wn / 64 % 4 = 0 ∧ wn / 2048 % 32 = 0 then (FpFmt.ofCode (wn / 256 % 8)).bind fun t => some (.sfCvfi (regAt wn 2097152) (regAt wn 65536) t) else none
  | 9 => if wn / 64 % 4 = 0 ∧ wn / 2048 % 32 = 0 then (FpFmt.ofCode (wn / 256 % 8)).bind fun t => some (.sfCvif (regAt wn 2097152) (regAt wn 65536) t) else none
  | 10 => if wn / 64 % 4 = 0 ∧ wn / 2048 % 32 = 0 then (FpFmt.ofCode (wn / 256 % 8)).bind fun t => some (.sfCvff (regAt wn 2097152) (regAt wn 65536) t) else none
  | 11 => if wn / 64 % 4 = 0 then (FpFmt.ofCode (wn / 256 % 8)).bind fun t => some (.sfLt (regAt wn 2097152) (regAt wn 65536) (regAt wn 2048) t) else none
  | 12 => if wn / 64 % 4 = 0 then (FpFmt.ofCode (wn / 256 % 8)).bind fun t => some (.sfEq (regAt wn 2097152) (regAt wn 65536) (regAt wn 2048) t) else none
  | 13 => if wn / 64 % 4 = 0 then (FpFmt.ofCode (wn / 256 % 8)).bind fun t => some (.sfLe (regAt wn 2097152) (regAt wn 65536) (regAt wn 2048) t) else none
  | _ => none

/-- Words of major vc (R37). -/
noncomputable def decodeVc (wn : Nat) : Option Instr :=
  match wn % 128 with
  | 0 => if wn / 128 % 8 = 0 ∧ wn / 33554432 % 2 = 0 then some (.vcSetvl (regAt wn 1048576) (regAt wn 32768) (regAt wn 1024)) else none
  | 1 => if wn / 128 % 8 = 0 ∧ wn / 32768 % 32 = 0 ∧ wn / 33554432 % 2 = 0 then some (.vcSetvlmax (regAt wn 1048576) (regAt wn 1024)) else none
  | _ => none

/-- Words of major v (R37). -/
noncomputable def decodeV (wn : Nat) : Option Instr :=
  match wn % 128 with
  | 0 => some (.vAdd (wn / 33554432 % 2 == 1) (regAt wn 1048576) (regAt wn 32768) (regAt wn 1024) (BitVec.ofNat 3 (wn / 128)))
  | 1 => some (.vSub (wn / 33554432 % 2 == 1) (regAt wn 1048576) (regAt wn 32768) (regAt wn 1024) (BitVec.ofNat 3 (wn / 128)))
  | 2 => some (.vRsub (wn / 33554432 % 2 == 1) (regAt wn 1048576) (regAt wn 32768) (regAt wn 1024) (BitVec.ofNat 3 (wn / 128)))
  | 3 => some (.vMul (wn / 33554432 % 2 == 1) (regAt wn 1048576) (regAt wn 32768) (regAt wn 1024) (BitVec.ofNat 3 (wn / 128)))
  | 4 => some (.vMulh (wn / 33554432 % 2 == 1) (regAt wn 1048576) (regAt wn 32768) (regAt wn 1024) (BitVec.ofNat 3 (wn / 128)))
  | 5 => some (.vMulhz (wn / 33554432 % 2 == 1) (regAt wn 1048576) (regAt wn 32768) (regAt wn 1024) (BitVec.ofNat 3 (wn / 128)))
  | 6 => some (.vMac (wn / 33554432 % 2 == 1) (regAt wn 1048576) (regAt wn 32768) (regAt wn 1024) (BitVec.ofNat 3 (wn / 128)))
  | 7 => some (.vNmac (wn / 33554432 % 2 == 1) (regAt wn 1048576) (regAt wn 32768) (regAt wn 1024) (BitVec.ofNat 3 (wn / 128)))
  | 8 => some (.vAnd (wn / 33554432 % 2 == 1) (regAt wn 1048576) (regAt wn 32768) (regAt wn 1024) (BitVec.ofNat 3 (wn / 128)))
  | 9 => some (.vOr (wn / 33554432 % 2 == 1) (regAt wn 1048576) (regAt wn 32768) (regAt wn 1024) (BitVec.ofNat 3 (wn / 128)))
  | 10 => some (.vXor (wn / 33554432 % 2 == 1) (regAt wn 1048576) (regAt wn 32768) (regAt wn 1024) (BitVec.ofNat 3 (wn / 128)))
  | 11 => some (.vShl (wn / 33554432 % 2 == 1) (regAt wn 1048576) (regAt wn 32768) (regAt wn 1024) (BitVec.ofNat 3 (wn / 128)))
  | 12 => some (.vShr (wn / 33554432 % 2 == 1) (regAt wn 1048576) (regAt wn 32768) (regAt wn 1024) (BitVec.ofNat 3 (wn / 128)))
  | 13 => some (.vSra (wn / 33554432 % 2 == 1) (regAt wn 1048576) (regAt wn 32768) (regAt wn 1024) (BitVec.ofNat 3 (wn / 128)))
  | 14 => some (.vRshr (wn / 33554432 % 2 == 1) (regAt wn 1048576) (regAt wn 32768) (regAt wn 1024) (BitVec.ofNat 3 (wn / 128)))
  | 15 => some (.vRshre (wn / 33554432 % 2 == 1) (regAt wn 1048576) (regAt wn 32768) (regAt wn 1024) (BitVec.ofNat 3 (wn / 128)))
  | 16 => some (.vMin (wn / 33554432 % 2 == 1) (regAt wn 1048576) (regAt wn 32768) (regAt wn 1024) (BitVec.ofNat 3 (wn / 128)))
  | 17 => some (.vMax (wn / 33554432 % 2 == 1) (regAt wn 1048576) (regAt wn 32768) (regAt wn 1024) (BitVec.ofNat 3 (wn / 128)))
  | 18 => some (.vMinz (wn / 33554432 % 2 == 1) (regAt wn 1048576) (regAt wn 32768) (regAt wn 1024) (BitVec.ofNat 3 (wn / 128)))
  | 19 => some (.vMaxz (wn / 33554432 % 2 == 1) (regAt wn 1048576) (regAt wn 32768) (regAt wn 1024) (BitVec.ofNat 3 (wn / 128)))
  | 20 => if wn / 1024 % 32 = 0 then some (.vAbs (wn / 33554432 % 2 == 1) (regAt wn 1048576) (regAt wn 32768) (BitVec.ofNat 3 (wn / 128))) else none
  | 21 => some (.vAvg (wn / 33554432 % 2 == 1) (regAt wn 1048576) (regAt wn 32768) (regAt wn 1024) (BitVec.ofNat 3 (wn / 128)))
  | 22 => some (.vDiv (wn / 33554432 % 2 == 1) (regAt wn 1048576) (regAt wn 32768) (regAt wn 1024) (BitVec.ofNat 3 (wn / 128)))
  | 23 => some (.vDivz (wn / 33554432 % 2 == 1) (regAt wn 1048576) (regAt wn 32768) (regAt wn 1024) (BitVec.ofNat 3 (wn / 128)))
  | 24 => some (.vRem (wn / 33554432 % 2 == 1) (regAt wn 1048576) (regAt wn 32768) (regAt wn 1024) (BitVec.ofNat 3 (wn / 128)))
  | 25 => some (.vRemz (wn / 33554432 % 2 == 1) (regAt wn 1048576) (regAt wn 32768) (regAt wn 1024) (BitVec.ofNat 3 (wn / 128)))
  | 26 => some (.vCmpeq (wn / 33554432 % 2 == 1) (regAt wn 1048576) (regAt wn 32768) (regAt wn 1024) (BitVec.ofNat 3 (wn / 128)))
  | 27 => some (.vCmpne (wn / 33554432 % 2 == 1) (regAt wn 1048576) (regAt wn 32768) (regAt wn 1024) (BitVec.ofNat 3 (wn / 128)))
  | 28 => some (.vCmplt (wn / 33554432 % 2 == 1) (regAt wn 1048576) (regAt wn 32768) (regAt wn 1024) (BitVec.ofNat 3 (wn / 128)))
  | 29 => some (.vCmple (wn / 33554432 % 2 == 1) (regAt wn 1048576) (regAt wn 32768) (regAt wn 1024) (BitVec.ofNat 3 (wn / 128)))
  | 30 => some (.vCmpltz (wn / 33554432 % 2 == 1) (regAt wn 1048576) (regAt wn 32768) (regAt wn 1024) (BitVec.ofNat 3 (wn / 128)))
  | 31 => some (.vCmplez (wn / 33554432 % 2 == 1) (regAt wn 1048576) (regAt wn 32768) (regAt wn 1024) (BitVec.ofNat 3 (wn / 128)))
  | 32 => some (.vSel (wn / 33554432 % 2 == 1) (regAt wn 1048576) (regAt wn 32768) (regAt wn 1024) (BitVec.ofNat 3 (wn / 128)))
  | 33 => if wn / 1024 % 32 = 0 then some (.vMv (wn / 33554432 % 2 == 1) (regAt wn 1048576) (regAt wn 32768) (BitVec.ofNat 3 (wn / 128))) else none
  | 34 => if wn / 1024 % 32 = 0 then some (.vClz (wn / 33554432 % 2 == 1) (regAt wn 1048576) (regAt wn 32768) (BitVec.ofNat 3 (wn / 128))) else none
  | 35 => if wn / 1024 % 32 = 0 then some (.vPop (wn / 33554432 % 2 == 1) (regAt wn 1048576) (regAt wn 32768) (BitVec.ofNat 3 (wn / 128))) else none
  | _ => none

/-- Words of major vs (R37). -/
noncomputable def decodeVs (wn : Nat) : Option Instr :=
  match wn % 128 with
  | 0 => some (.vsAdd (wn / 33554432 % 2 == 1) (regAt wn 1048576) (regAt wn 32768) (regAt wn 1024) (BitVec.ofNat 3 (wn / 128)))
  | 1 => some (.vsSub (wn / 33554432 % 2 == 1) (regAt wn 1048576) (regAt wn 32768) (regAt wn 1024) (BitVec.ofNat 3 (wn / 128)))
  | 2 => some (.vsRsub (wn / 33554432 % 2 == 1) (regAt wn 1048576) (regAt wn 32768) (regAt wn 1024) (BitVec.ofNat 3 (wn / 128)))
  | 3 => some (.vsMul (wn / 33554432 % 2 == 1) (regAt wn 1048576) (regAt wn 32768) (regAt wn 1024) (BitVec.ofNat 3 (wn / 128)))
  | 4 => some (.vsMulh (wn / 33554432 % 2 == 1) (regAt wn 1048576) (regAt wn 32768) (regAt wn 1024) (BitVec.ofNat 3 (wn / 128)))
  | 5 => some (.vsMulhz (wn / 33554432 % 2 == 1) (regAt wn 1048576) (regAt wn 32768) (regAt wn 1024) (BitVec.ofNat 3 (wn / 128)))
  | 6 => some (.vsMac (wn / 33554432 % 2 == 1) (regAt wn 1048576) (regAt wn 32768) (regAt wn 1024) (BitVec.ofNat 3 (wn / 128)))
  | 7 => some (.vsNmac (wn / 33554432 % 2 == 1) (regAt wn 1048576) (regAt wn 32768) (regAt wn 1024) (BitVec.ofNat 3 (wn / 128)))
  | 8 => some (.vsAnd (wn / 33554432 % 2 == 1) (regAt wn 1048576) (regAt wn 32768) (regAt wn 1024) (BitVec.ofNat 3 (wn / 128)))
  | 9 => some (.vsOr (wn / 33554432 % 2 == 1) (regAt wn 1048576) (regAt wn 32768) (regAt wn 1024) (BitVec.ofNat 3 (wn / 128)))
  | 10 => some (.vsXor (wn / 33554432 % 2 == 1) (regAt wn 1048576) (regAt wn 32768) (regAt wn 1024) (BitVec.ofNat 3 (wn / 128)))
  | 11 => some (.vsShl (wn / 33554432 % 2 == 1) (regAt wn 1048576) (regAt wn 32768) (regAt wn 1024) (BitVec.ofNat 3 (wn / 128)))
  | 12 => some (.vsShr (wn / 33554432 % 2 == 1) (regAt wn 1048576) (regAt wn 32768) (regAt wn 1024) (BitVec.ofNat 3 (wn / 128)))
  | 13 => some (.vsSra (wn / 33554432 % 2 == 1) (regAt wn 1048576) (regAt wn 32768) (regAt wn 1024) (BitVec.ofNat 3 (wn / 128)))
  | 14 => some (.vsRshr (wn / 33554432 % 2 == 1) (regAt wn 1048576) (regAt wn 32768) (regAt wn 1024) (BitVec.ofNat 3 (wn / 128)))
  | 15 => some (.vsRshre (wn / 33554432 % 2 == 1) (regAt wn 1048576) (regAt wn 32768) (regAt wn 1024) (BitVec.ofNat 3 (wn / 128)))
  | 16 => some (.vsMin (wn / 33554432 % 2 == 1) (regAt wn 1048576) (regAt wn 32768) (regAt wn 1024) (BitVec.ofNat 3 (wn / 128)))
  | 17 => some (.vsMax (wn / 33554432 % 2 == 1) (regAt wn 1048576) (regAt wn 32768) (regAt wn 1024) (BitVec.ofNat 3 (wn / 128)))
  | 18 => some (.vsMinz (wn / 33554432 % 2 == 1) (regAt wn 1048576) (regAt wn 32768) (regAt wn 1024) (BitVec.ofNat 3 (wn / 128)))
  | 19 => some (.vsMaxz (wn / 33554432 % 2 == 1) (regAt wn 1048576) (regAt wn 32768) (regAt wn 1024) (BitVec.ofNat 3 (wn / 128)))
  | 21 => some (.vsAvg (wn / 33554432 % 2 == 1) (regAt wn 1048576) (regAt wn 32768) (regAt wn 1024) (BitVec.ofNat 3 (wn / 128)))
  | 22 => some (.vsDiv (wn / 33554432 % 2 == 1) (regAt wn 1048576) (regAt wn 32768) (regAt wn 1024) (BitVec.ofNat 3 (wn / 128)))
  | 23 => some (.vsDivz (wn / 33554432 % 2 == 1) (regAt wn 1048576) (regAt wn 32768) (regAt wn 1024) (BitVec.ofNat 3 (wn / 128)))
  | 24 => some (.vsRem (wn / 33554432 % 2 == 1) (regAt wn 1048576) (regAt wn 32768) (regAt wn 1024) (BitVec.ofNat 3 (wn / 128)))
  | 25 => some (.vsRemz (wn / 33554432 % 2 == 1) (regAt wn 1048576) (regAt wn 32768) (regAt wn 1024) (BitVec.ofNat 3 (wn / 128)))
  | 26 => some (.vsCmpeq (wn / 33554432 % 2 == 1) (regAt wn 1048576) (regAt wn 32768) (regAt wn 1024) (BitVec.ofNat 3 (wn / 128)))
  | 27 => some (.vsCmpne (wn / 33554432 % 2 == 1) (regAt wn 1048576) (regAt wn 32768) (regAt wn 1024) (BitVec.ofNat 3 (wn / 128)))
  | 28 => some (.vsCmplt (wn / 33554432 % 2 == 1) (regAt wn 1048576) (regAt wn 32768) (regAt wn 1024) (BitVec.ofNat 3 (wn / 128)))
  | 29 => some (.vsCmple (wn / 33554432 % 2 == 1) (regAt wn 1048576) (regAt wn 32768) (regAt wn 1024) (BitVec.ofNat 3 (wn / 128)))
  | 30 => some (.vsCmpltz (wn / 33554432 % 2 == 1) (regAt wn 1048576) (regAt wn 32768) (regAt wn 1024) (BitVec.ofNat 3 (wn / 128)))
  | 31 => some (.vsCmplez (wn / 33554432 % 2 == 1) (regAt wn 1048576) (regAt wn 32768) (regAt wn 1024) (BitVec.ofNat 3 (wn / 128)))
  | 32 => some (.vsSel (wn / 33554432 % 2 == 1) (regAt wn 1048576) (regAt wn 32768) (regAt wn 1024) (BitVec.ofNat 3 (wn / 128)))
  | 33 => if wn / 32768 % 32 = 0 then some (.vsMv (wn / 33554432 % 2 == 1) (regAt wn 1048576) (regAt wn 1024) (BitVec.ofNat 3 (wn / 128))) else none
  | _ => none

/-- Words of major vi (R37). -/
noncomputable def decodeVi (wn : Nat) : Option Instr :=
  match wn % 128 with
  | 0 => some (.viAdd (wn / 33554432 % 2 == 1) (regAt wn 1048576) (regAt wn 32768) (regAt wn 1024) (BitVec.ofNat 3 (wn / 128)))
  | 1 => some (.viSub (wn / 33554432 % 2 == 1) (regAt wn 1048576) (regAt wn 32768) (regAt wn 1024) (BitVec.ofNat 3 (wn / 128)))
  | 2 => some (.viRsub (wn / 33554432 % 2 == 1) (regAt wn 1048576) (regAt wn 32768) (regAt wn 1024) (BitVec.ofNat 3 (wn / 128)))
  | 3 => some (.viMul (wn / 33554432 % 2 == 1) (regAt wn 1048576) (regAt wn 32768) (regAt wn 1024) (BitVec.ofNat 3 (wn / 128)))
  | 4 => some (.viMulh (wn / 33554432 % 2 == 1) (regAt wn 1048576) (regAt wn 32768) (regAt wn 1024) (BitVec.ofNat 3 (wn / 128)))
  | 5 => some (.viMulhz (wn / 33554432 % 2 == 1) (regAt wn 1048576) (regAt wn 32768) (regAt wn 1024) (BitVec.ofNat 3 (wn / 128)))
  | 6 => some (.viMac (wn / 33554432 % 2 == 1) (regAt wn 1048576) (regAt wn 32768) (regAt wn 1024) (BitVec.ofNat 3 (wn / 128)))
  | 7 => some (.viNmac (wn / 33554432 % 2 == 1) (regAt wn 1048576) (regAt wn 32768) (regAt wn 1024) (BitVec.ofNat 3 (wn / 128)))
  | 8 => some (.viAnd (wn / 33554432 % 2 == 1) (regAt wn 1048576) (regAt wn 32768) (regAt wn 1024) (BitVec.ofNat 3 (wn / 128)))
  | 9 => some (.viOr (wn / 33554432 % 2 == 1) (regAt wn 1048576) (regAt wn 32768) (regAt wn 1024) (BitVec.ofNat 3 (wn / 128)))
  | 10 => some (.viXor (wn / 33554432 % 2 == 1) (regAt wn 1048576) (regAt wn 32768) (regAt wn 1024) (BitVec.ofNat 3 (wn / 128)))
  | 11 => some (.viShl (wn / 33554432 % 2 == 1) (regAt wn 1048576) (regAt wn 32768) (regAt wn 1024) (BitVec.ofNat 3 (wn / 128)))
  | 12 => some (.viShr (wn / 33554432 % 2 == 1) (regAt wn 1048576) (regAt wn 32768) (regAt wn 1024) (BitVec.ofNat 3 (wn / 128)))
  | 13 => some (.viSra (wn / 33554432 % 2 == 1) (regAt wn 1048576) (regAt wn 32768) (regAt wn 1024) (BitVec.ofNat 3 (wn / 128)))
  | 14 => some (.viRshr (wn / 33554432 % 2 == 1) (regAt wn 1048576) (regAt wn 32768) (regAt wn 1024) (BitVec.ofNat 3 (wn / 128)))
  | 15 => some (.viRshre (wn / 33554432 % 2 == 1) (regAt wn 1048576) (regAt wn 32768) (regAt wn 1024) (BitVec.ofNat 3 (wn / 128)))
  | 16 => some (.viMin (wn / 33554432 % 2 == 1) (regAt wn 1048576) (regAt wn 32768) (regAt wn 1024) (BitVec.ofNat 3 (wn / 128)))
  | 17 => some (.viMax (wn / 33554432 % 2 == 1) (regAt wn 1048576) (regAt wn 32768) (regAt wn 1024) (BitVec.ofNat 3 (wn / 128)))
  | 18 => some (.viMinz (wn / 33554432 % 2 == 1) (regAt wn 1048576) (regAt wn 32768) (regAt wn 1024) (BitVec.ofNat 3 (wn / 128)))
  | 19 => some (.viMaxz (wn / 33554432 % 2 == 1) (regAt wn 1048576) (regAt wn 32768) (regAt wn 1024) (BitVec.ofNat 3 (wn / 128)))
  | 21 => some (.viAvg (wn / 33554432 % 2 == 1) (regAt wn 1048576) (regAt wn 32768) (regAt wn 1024) (BitVec.ofNat 3 (wn / 128)))
  | 22 => some (.viDiv (wn / 33554432 % 2 == 1) (regAt wn 1048576) (regAt wn 32768) (regAt wn 1024) (BitVec.ofNat 3 (wn / 128)))
  | 23 => some (.viDivz (wn / 33554432 % 2 == 1) (regAt wn 1048576) (regAt wn 32768) (regAt wn 1024) (BitVec.ofNat 3 (wn / 128)))
  | 24 => some (.viRem (wn / 33554432 % 2 == 1) (regAt wn 1048576) (regAt wn 32768) (regAt wn 1024) (BitVec.ofNat 3 (wn / 128)))
  | 25 => some (.viRemz (wn / 33554432 % 2 == 1) (regAt wn 1048576) (regAt wn 32768) (regAt wn 1024) (BitVec.ofNat 3 (wn / 128)))
  | 26 => some (.viCmpeq (wn / 33554432 % 2 == 1) (regAt wn 1048576) (regAt wn 32768) (regAt wn 1024) (BitVec.ofNat 3 (wn / 128)))
  | 27 => some (.viCmpne (wn / 33554432 % 2 == 1) (regAt wn 1048576) (regAt wn 32768) (regAt wn 1024) (BitVec.ofNat 3 (wn / 128)))
  | 28 => some (.viCmplt (wn / 33554432 % 2 == 1) (regAt wn 1048576) (regAt wn 32768) (regAt wn 1024) (BitVec.ofNat 3 (wn / 128)))
  | 29 => some (.viCmple (wn / 33554432 % 2 == 1) (regAt wn 1048576) (regAt wn 32768) (regAt wn 1024) (BitVec.ofNat 3 (wn / 128)))
  | 30 => some (.viCmpltz (wn / 33554432 % 2 == 1) (regAt wn 1048576) (regAt wn 32768) (regAt wn 1024) (BitVec.ofNat 3 (wn / 128)))
  | 31 => some (.viCmplez (wn / 33554432 % 2 == 1) (regAt wn 1048576) (regAt wn 32768) (regAt wn 1024) (BitVec.ofNat 3 (wn / 128)))
  | 32 => some (.viSel (wn / 33554432 % 2 == 1) (regAt wn 1048576) (regAt wn 32768) (regAt wn 1024) (BitVec.ofNat 3 (wn / 128)))
  | 33 => if wn / 32768 % 32 = 0 then some (.viMv (wn / 33554432 % 2 == 1) (regAt wn 1048576) (regAt wn 1024) (BitVec.ofNat 3 (wn / 128))) else none
  | _ => none

/-- Words of major vf (R37). -/
noncomputable def decodeVf (wn : Nat) : Option Instr :=
  match wn % 128 with
  | 0 => some (.vfAdd (wn / 33554432 % 2 == 1) (regAt wn 1048576) (regAt wn 32768) (regAt wn 1024) (BitVec.ofNat 3 (wn / 128)))
  | 1 => some (.vfSub (wn / 33554432 % 2 == 1) (regAt wn 1048576) (regAt wn 32768) (regAt wn 1024) (BitVec.ofNat 3 (wn / 128)))
  | 2 => some (.vfMul (wn / 33554432 % 2 == 1) (regAt wn 1048576) (regAt wn 32768) (regAt wn 1024) (BitVec.ofNat 3 (wn / 128)))
  | 3 => some (.vfDiv (wn / 33554432 % 2 == 1) (regAt wn 1048576) (regAt wn 32768) (regAt wn 1024) (BitVec.ofNat 3 (wn / 128)))
  | 4 => some (.vfFma (wn / 33554432 % 2 == 1) (regAt wn 1048576) (regAt wn 32768) (regAt wn 1024) (BitVec.ofNat 3 (wn / 128)))
  | 5 => some (.vfFms (wn / 33554432 % 2 == 1) (regAt wn 1048576) (regAt wn 32768) (regAt wn 1024) (BitVec.ofNat 3 (wn / 128)))
  | 6 => some (.vfFnma (wn / 33554432 % 2 == 1) (regAt wn 1048576) (regAt wn 32768) (regAt wn 1024) (BitVec.ofNat 3 (wn / 128)))
  | 7 => some (.vfMin (wn / 33554432 % 2 == 1) (regAt wn 1048576) (regAt wn 32768) (regAt wn 1024) (BitVec.ofNat 3 (wn / 128)))
  | 8 => some (.vfMax (wn / 33554432 % 2 == 1) (regAt wn 1048576) (regAt wn 32768) (regAt wn 1024) (BitVec.ofNat 3 (wn / 128)))
  | 9 => if wn / 1024 % 32 = 0 then some (.vfAbs (wn / 33554432 % 2 == 1) (regAt wn 1048576) (regAt wn 32768) (BitVec.ofNat 3 (wn / 128))) else none
  | 10 => if wn / 1024 % 32 = 0 then some (.vfNeg (wn / 33554432 % 2 == 1) (regAt wn 1048576) (regAt wn 32768) (BitVec.ofNat 3 (wn / 128))) else none
  | 11 => if wn / 1024 % 32 = 0 then some (.vfSqrt (wn / 33554432 % 2 == 1) (regAt wn 1048576) (regAt wn 32768) (BitVec.ofNat 3 (wn / 128))) else none
  | 12 => if wn / 1024 % 32 = 0 then some (.vfRcpe (wn / 33554432 % 2 == 1) (regAt wn 1048576) (regAt wn 32768) (BitVec.ofNat 3 (wn / 128))) else none
  | 13 => if wn / 1024 % 32 = 0 then some (.vfRsqe (wn / 33554432 % 2 == 1) (regAt wn 1048576) (regAt wn 32768) (BitVec.ofNat 3 (wn / 128))) else none
  | 14 => if wn / 1024 % 32 = 0 then some (.vfExp2 (wn / 33554432 % 2 == 1) (regAt wn 1048576) (regAt wn 32768) (BitVec.ofNat 3 (wn / 128))) else none
  | 15 => some (.vfCmpeq (wn / 33554432 % 2 == 1) (regAt wn 1048576) (regAt wn 32768) (regAt wn 1024) (BitVec.ofNat 3 (wn / 128)))
  | 16 => some (.vfCmplt (wn / 33554432 % 2 == 1) (regAt wn 1048576) (regAt wn 32768) (regAt wn 1024) (BitVec.ofNat 3 (wn / 128)))
  | 17 => some (.vfCmple (wn / 33554432 % 2 == 1) (regAt wn 1048576) (regAt wn 32768) (regAt wn 1024) (BitVec.ofNat 3 (wn / 128)))
  | 18 => if wn / 1024 % 32 = 0 then some (.vfClass (wn / 33554432 % 2 == 1) (regAt wn 1048576) (regAt wn 32768) (BitVec.ofNat 3 (wn / 128))) else none
  | 19 => some (.vfSgnj (wn / 33554432 % 2 == 1) (regAt wn 1048576) (regAt wn 32768) (regAt wn 1024) (BitVec.ofNat 3 (wn / 128)))
  | 20 => some (.vfMaxm (wn / 33554432 % 2 == 1) (regAt wn 1048576) (regAt wn 32768) (regAt wn 1024) (BitVec.ofNat 3 (wn / 128)))
  | _ => none

/-- Words of major vfs (R37). -/
noncomputable def decodeVfs (wn : Nat) : Option Instr :=
  match wn % 128 with
  | 0 => some (.vfsAdd (wn / 33554432 % 2 == 1) (regAt wn 1048576) (regAt wn 32768) (regAt wn 1024) (BitVec.ofNat 3 (wn / 128)))
  | 1 => some (.vfsSub (wn / 33554432 % 2 == 1) (regAt wn 1048576) (regAt wn 32768) (regAt wn 1024) (BitVec.ofNat 3 (wn / 128)))
  | 2 => some (.vfsMul (wn / 33554432 % 2 == 1) (regAt wn 1048576) (regAt wn 32768) (regAt wn 1024) (BitVec.ofNat 3 (wn / 128)))
  | 3 => some (.vfsDiv (wn / 33554432 % 2 == 1) (regAt wn 1048576) (regAt wn 32768) (regAt wn 1024) (BitVec.ofNat 3 (wn / 128)))
  | 4 => some (.vfsFma (wn / 33554432 % 2 == 1) (regAt wn 1048576) (regAt wn 32768) (regAt wn 1024) (BitVec.ofNat 3 (wn / 128)))
  | 5 => some (.vfsFms (wn / 33554432 % 2 == 1) (regAt wn 1048576) (regAt wn 32768) (regAt wn 1024) (BitVec.ofNat 3 (wn / 128)))
  | 6 => some (.vfsFnma (wn / 33554432 % 2 == 1) (regAt wn 1048576) (regAt wn 32768) (regAt wn 1024) (BitVec.ofNat 3 (wn / 128)))
  | 7 => some (.vfsMin (wn / 33554432 % 2 == 1) (regAt wn 1048576) (regAt wn 32768) (regAt wn 1024) (BitVec.ofNat 3 (wn / 128)))
  | 8 => some (.vfsMax (wn / 33554432 % 2 == 1) (regAt wn 1048576) (regAt wn 32768) (regAt wn 1024) (BitVec.ofNat 3 (wn / 128)))
  | 15 => some (.vfsCmpeq (wn / 33554432 % 2 == 1) (regAt wn 1048576) (regAt wn 32768) (regAt wn 1024) (BitVec.ofNat 3 (wn / 128)))
  | 16 => some (.vfsCmplt (wn / 33554432 % 2 == 1) (regAt wn 1048576) (regAt wn 32768) (regAt wn 1024) (BitVec.ofNat 3 (wn / 128)))
  | 17 => some (.vfsCmple (wn / 33554432 % 2 == 1) (regAt wn 1048576) (regAt wn 32768) (regAt wn 1024) (BitVec.ofNat 3 (wn / 128)))
  | 19 => some (.vfsSgnj (wn / 33554432 % 2 == 1) (regAt wn 1048576) (regAt wn 32768) (regAt wn 1024) (BitVec.ofNat 3 (wn / 128)))
  | 20 => some (.vfsMaxm (wn / 33554432 % 2 == 1) (regAt wn 1048576) (regAt wn 32768) (regAt wn 1024) (BitVec.ofNat 3 (wn / 128)))
  | _ => none

/-- Words of major vcv (R37). -/
noncomputable def decodeVcv (wn : Nat) : Option Instr :=
  match wn % 128 with
  | 0 => if wn / 1024 % 32 = 0 then some (.vcvCvt (wn / 33554432 % 2 == 1) (regAt wn 1048576) (regAt wn 32768) (BitVec.ofNat 3 (wn / 128))) else none
  | 1 => if wn / 1024 % 32 = 0 then some (.vcvCvts (wn / 33554432 % 2 == 1) (regAt wn 1048576) (regAt wn 32768) (BitVec.ofNat 3 (wn / 128))) else none
  | 2 => some (.vcvQnt (wn / 33554432 % 2 == 1) (regAt wn 1048576) (regAt wn 32768) (regAt wn 1024) (BitVec.ofNat 3 (wn / 128)))
  | 3 => some (.vcvHad (wn / 33554432 % 2 == 1) (regAt wn 1048576) (regAt wn 32768) (regAt wn 1024) (BitVec.ofNat 3 (wn / 128)))
  | 4 => some (.vcvHash (wn / 33554432 % 2 == 1) (regAt wn 1048576) (regAt wn 32768) (regAt wn 1024) (BitVec.ofNat 3 (wn / 128)))
  | 5 => if wn / 32768 % 32 = 0 then some (.vcvIota (wn / 33554432 % 2 == 1) (regAt wn 1048576) (regAt wn 1024) (BitVec.ofNat 3 (wn / 128))) else none
  | _ => none

/-- Words of major vp (R37). -/
noncomputable def decodeVp (wn : Nat) : Option Instr :=
  match wn % 128 with
  | 0 => some (.vpSlup (wn / 33554432 % 2 == 1) (regAt wn 1048576) (regAt wn 32768) (regAt wn 1024) (BitVec.ofNat 3 (wn / 128)))
  | 1 => some (.vpSldn (wn / 33554432 % 2 == 1) (regAt wn 1048576) (regAt wn 32768) (regAt wn 1024) (BitVec.ofNat 3 (wn / 128)))
  | 2 => some (.vpRgat (wn / 33554432 % 2 == 1) (regAt wn 1048576) (regAt wn 32768) (regAt wn 1024) (BitVec.ofNat 3 (wn / 128)))
  | 3 => if wn / 1024 % 32 = 0 then some (.vpCmpr (wn / 33554432 % 2 == 1) (regAt wn 1048576) (regAt wn 32768) (BitVec.ofNat 3 (wn / 128))) else none
  | 4 => if wn / 1024 % 32 = 0 then some (.vpExpd (wn / 33554432 % 2 == 1) (regAt wn 1048576) (regAt wn 32768) (BitVec.ofNat 3 (wn / 128))) else none
  | 5 => some (.vpXchg (wn / 33554432 % 2 == 1) (regAt wn 1048576) (regAt wn 32768) (regAt wn 1024) (BitVec.ofNat 3 (wn / 128)))
  | 6 => if wn / 1024 % 32 = 0 then some (.vpSort (wn / 33554432 % 2 == 1) (regAt wn 1048576) (regAt wn 32768) (BitVec.ofNat 3 (wn / 128))) else none
  | 7 => some (.vpMerge (wn / 33554432 % 2 == 1) (regAt wn 1048576) (regAt wn 32768) (regAt wn 1024) (BitVec.ofNat 3 (wn / 128)))
  | 8 => some (.vpRsum (wn / 33554432 % 2 == 1) (regAt wn 1048576) (regAt wn 32768) (regAt wn 1024) (BitVec.ofNat 3 (wn / 128)))
  | 9 => some (.vpRmax (wn / 33554432 % 2 == 1) (regAt wn 1048576) (regAt wn 32768) (regAt wn 1024) (BitVec.ofNat 3 (wn / 128)))
  | 10 => some (.vpRmin (wn / 33554432 % 2 == 1) (regAt wn 1048576) (regAt wn 32768) (regAt wn 1024) (BitVec.ofNat 3 (wn / 128)))
  | 11 => some (.vpRand (wn / 33554432 % 2 == 1) (regAt wn 1048576) (regAt wn 32768) (regAt wn 1024) (BitVec.ofNat 3 (wn / 128)))
  | 12 => some (.vpRor (wn / 33554432 % 2 == 1) (regAt wn 1048576) (regAt wn 32768) (regAt wn 1024) (BitVec.ofNat 3 (wn / 128)))
  | 13 => some (.vpFrsum (wn / 33554432 % 2 == 1) (regAt wn 1048576) (regAt wn 32768) (regAt wn 1024) (BitVec.ofNat 3 (wn / 128)))
  | 14 => some (.vpFrmax (wn / 33554432 % 2 == 1) (regAt wn 1048576) (regAt wn 32768) (regAt wn 1024) (BitVec.ofNat 3 (wn / 128)))
  | 15 => some (.vpFrmin (wn / 33554432 % 2 == 1) (regAt wn 1048576) (regAt wn 32768) (regAt wn 1024) (BitVec.ofNat 3 (wn / 128)))
  | 16 => some (.vpScan (wn / 33554432 % 2 == 1) (regAt wn 1048576) (regAt wn 32768) (regAt wn 1024) (BitVec.ofNat 3 (wn / 128)))
  | 17 => some (.vpFscan (wn / 33554432 % 2 == 1) (regAt wn 1048576) (regAt wn 32768) (regAt wn 1024) (BitVec.ofNat 3 (wn / 128)))
  | 18 => if wn / 128 % 8 = 0 then some (.vpMand (wn / 33554432 % 2 == 1) (regAt wn 1048576) (regAt wn 32768) (regAt wn 1024)) else none
  | 19 => if wn / 128 % 8 = 0 then some (.vpMor (wn / 33554432 % 2 == 1) (regAt wn 1048576) (regAt wn 32768) (regAt wn 1024)) else none
  | 20 => if wn / 128 % 8 = 0 then some (.vpMxor (wn / 33554432 % 2 == 1) (regAt wn 1048576) (regAt wn 32768) (regAt wn 1024)) else none
  | 21 => if wn / 128 % 256 = 0 then some (.vpMnot (wn / 33554432 % 2 == 1) (regAt wn 1048576) (regAt wn 32768)) else none
  | 22 => if wn / 128 % 256 = 0 then some (.vpMpop (wn / 33554432 % 2 == 1) (regAt wn 1048576) (regAt wn 32768)) else none
  | 23 => if wn / 128 % 256 = 0 then some (.vpMffs (wn / 33554432 % 2 == 1) (regAt wn 1048576) (regAt wn 32768)) else none
  | 24 => if wn / 128 % 256 = 0 then some (.vpMfirst (wn / 33554432 % 2 == 1) (regAt wn 1048576) (regAt wn 32768)) else none
  | 25 => some (.vpBcast (wn / 33554432 % 2 == 1) (regAt wn 1048576) (regAt wn 32768) (regAt wn 1024) (BitVec.ofNat 3 (wn / 128)))
  | 26 => if wn / 128 % 8 = 0 then some (.vpExt (wn / 33554432 % 2 == 1) (regAt wn 1048576) (regAt wn 32768) (regAt wn 1024)) else none
  | 27 => if wn / 128 % 8 = 0 then some (.vpInsrt (wn / 33554432 % 2 == 1) (regAt wn 1048576) (regAt wn 32768) (regAt wn 1024)) else none
  | _ => none

/-- Words of major vld (R37). -/
noncomputable def decodeVld (wn : Nat) : Option Instr :=
  (VMode.ofCode (wn / 32 % 4)).bind fun e => (VOrd.ofCode (wn % 4)).bind fun o => some (.vld (wn / 33554432 % 2 == 1) (regAt wn 1048576) (regAt wn 32768) (regAt wn 1024) (BitVec.ofNat 3 (wn / 128)) e (BitVec.ofNat 3 (wn / 4)) o)

/-- Words of major vst (R37). -/
noncomputable def decodeVst (wn : Nat) : Option Instr :=
  (VMode.ofCode (wn / 32 % 4)).bind fun e => (VOrd.ofCode (wn % 4)).bind fun o => some (.vst (wn / 33554432 % 2 == 1) (regAt wn 1048576) (regAt wn 32768) (regAt wn 1024) (BitVec.ofNat 3 (wn / 128)) e (BitVec.ofNat 3 (wn / 4)) o)

/-- Words of major vlk (R37). -/
noncomputable def decodeVlk (wn : Nat) : Option Instr :=
  match wn % 4 with
  | 0 => if wn / 4 % 32 = 16 then some (.vlkGl (wn / 33554432 % 2 == 1) (regAt wn 1048576) (regAt wn 32768) (regAt wn 1024) (BitVec.ofNat 3 (wn / 128))) else none
  | 1 => if wn / 4 % 32 = 16 then some (.vlkSc (wn / 33554432 % 2 == 1) (regAt wn 1048576) (regAt wn 32768) (regAt wn 1024) (BitVec.ofNat 3 (wn / 128))) else none
  | _ => none

/-- Words of major vw (R37). -/
noncomputable def decodeVw (wn : Nat) : Option Instr :=
  match wn % 128 with
  | 0 => some (.vwWmac (wn / 33554432 % 2 == 1) (regAt wn 1048576) (regAt wn 32768) (regAt wn 1024) (BitVec.ofNat 3 (wn / 128)))
  | 1 => some (.vwWmacz (wn / 33554432 % 2 == 1) (regAt wn 1048576) (regAt wn 32768) (regAt wn 1024) (BitVec.ofNat 3 (wn / 128)))
  | 2 => some (.vwWmacsz (wn / 33554432 % 2 == 1) (regAt wn 1048576) (regAt wn 32768) (regAt wn 1024) (BitVec.ofNat 3 (wn / 128)))
  | 3 => some (.vwWadd (wn / 33554432 % 2 == 1) (regAt wn 1048576) (regAt wn 32768) (regAt wn 1024) (BitVec.ofNat 3 (wn / 128)))
  | 4 => some (.vwWaddz (wn / 33554432 % 2 == 1) (regAt wn 1048576) (regAt wn 32768) (regAt wn 1024) (BitVec.ofNat 3 (wn / 128)))
  | 5 => some (.vwWmul (wn / 33554432 % 2 == 1) (regAt wn 1048576) (regAt wn 32768) (regAt wn 1024) (BitVec.ofNat 3 (wn / 128)))
  | 6 => if wn / 1024 % 32 = 0 then some (.vwNsat (wn / 33554432 % 2 == 1) (regAt wn 1048576) (regAt wn 32768) (BitVec.ofNat 3 (wn / 128))) else none
  | 7 => if wn / 1024 % 32 = 0 then some (.vwNsatz (wn / 33554432 % 2 == 1) (regAt wn 1048576) (regAt wn 32768) (BitVec.ofNat 3 (wn / 128))) else none
  | 8 => some (.vwNrshr (wn / 33554432 % 2 == 1) (regAt wn 1048576) (regAt wn 32768) (regAt wn 1024) (BitVec.ofNat 3 (wn / 128)))
  | _ => none

/-- Words of major m (R37). -/
noncomputable def decodeM (wn : Nat) : Option Instr :=
  match wn % 256 with
  | 0 => if wn / 8192 % 8192 = 0 then some (.mOn (regAt wn 256)) else none
  | 1 => if wn / 256 % 262144 = 0 then some .mOff else none
  | 2 => if wn / 256 % 32768 = 0 ∧ wn / 16777216 % 4 = 0 then some (.mZero (wn / 8388608 % 2 == 1)) else none
  | 3 => if wn / 256 % 32 = 0 ∧ wn / 16777216 % 4 = 0 then some (.mOpa (wn / 8388608 % 2 == 1) (regAt wn 262144) (regAt wn 8192)) else none
  | 4 => if wn / 256 % 32 = 0 ∧ wn / 16777216 % 4 = 0 then some (.mOps (wn / 8388608 % 2 == 1) (regAt wn 262144) (regAt wn 8192)) else none
  | 5 => if wn / 8192 % 32 = 0 ∧ wn / 16777216 % 4 = 0 then some (.mRdrow (wn / 8388608 % 2 == 1) (regAt wn 262144) (regAt wn 256)) else none
  | 6 => if wn / 8192 % 32 = 0 ∧ wn / 16777216 % 4 = 0 then some (.mWrrow (wn / 8388608 % 2 == 1) (regAt wn 262144) (regAt wn 256)) else none
  | 7 => if wn / 8192 % 32 = 0 ∧ wn / 16777216 % 4 = 0 then some (.mRdcol (wn / 8388608 % 2 == 1) (regAt wn 262144) (regAt wn 256)) else none
  | 8 => if wn / 8192 % 1024 = 0 ∧ wn / 16777216 % 4 = 0 then some (.mSt (wn / 8388608 % 2 == 1) (regAt wn 256)) else none
  | 9 => if wn / 8192 % 1024 = 0 ∧ wn / 16777216 % 4 = 0 then some (.mLd (wn / 8388608 % 2 == 1) (regAt wn 256)) else none
  | 10 => if wn / 8192 % 2048 = 0 then some (.mLdtab (BitVec.ofNat 2 (wn / 16777216)) (regAt wn 256)) else none
  | _ => none

/-- Words of major mt (R37). -/
noncomputable def decodeMt (wn : Nat) : Option Instr :=
  if wn / 8 % 32 = 0 then some (.mtMul (BitVec.ofNat 2 (wn / 16777216)) (wn / 8388608 % 2 == 1) (regAt wn 262144) (regAt wn 8192) (regAt wn 256) (BitVec.ofNat 3 (wn))) else none

/-- Words of major c (R37). -/
noncomputable def decodeC (wn : Nat) : Option Instr :=
  match wn / 4194304 % 16 with
  | 0 => some (.cCopy (regAt wn 131072) (regAt wn 4096) (regAt wn 128) (BitVec.ofNat 3 (wn / 16)) (BitVec.ofNat 4 (wn)))
  | 1 => some (.cGath (regAt wn 131072) (regAt wn 4096) (regAt wn 128) (BitVec.ofNat 3 (wn / 16)) (BitVec.ofNat 4 (wn)))
  | 2 => some (.cScat (regAt wn 131072) (regAt wn 4096) (regAt wn 128) (BitVec.ofNat 3 (wn / 16)) (BitVec.ofNat 4 (wn)))
  | 3 => some (.cXf (regAt wn 131072) (regAt wn 4096) (regAt wn 128) (BitVec.ofNat 3 (wn / 16)) (BitVec.ofNat 4 (wn)))
  | 4 => if wn / 128 % 32 = 0 then some (.cFill (regAt wn 131072) (regAt wn 4096) (BitVec.ofNat 3 (wn / 16)) (BitVec.ofNat 4 (wn))) else none
  | 5 => if wn % 16 = 0 ∧ wn / 128 % 32768 = 0 then some (.cWait (BitVec.ofNat 3 (wn / 16))) else none
  | _ => none

/-- Words of major cb (R37). -/
noncomputable def decodeCb (wn : Nat) : Option Instr :=
  match wn % 2048 with
  | 0 => if wn / 2097152 % 32 = 0 then some (.cbSet (regAt wn 65536) (regAt wn 2048)) else none
  | 1 => if wn / 65536 % 1024 = 0 then some (.cbArr (regAt wn 2048)) else none
  | 2 => if wn / 65536 % 1024 = 0 then some (.cbWt (regAt wn 2048)) else none
  | 3 => if wn / 65536 % 1024 = 0 then some (.cbArw (regAt wn 2048)) else none
  | 4 => if wn / 65536 % 32 = 0 then some (.cbSt (regAt wn 2097152) (regAt wn 2048)) else none
  | _ => none

/-- Words of major p (R37). -/
noncomputable def decodeP (wn : Nat) : Option Instr :=
  match wn / 16 % 8 with
  | 0 => if wn % 16 = 0 ∧ wn / 128 % 256 = 0 ∧ wn / 33554432 % 2 = 0 then some (.pBind (regAt wn 1048576) (regAt wn 32768)) else none
  | 1 => if wn % 16 = 0 ∧ wn / 33554432 % 2 = 0 then some (.pApp (regAt wn 1048576) (regAt wn 32768) (regAt wn 1024) (BitVec.ofNat 3 (wn / 128))) else none
  | 2 => if wn / 33554432 % 2 = 0 then some (.pLd (regAt wn 1048576) (regAt wn 32768) (regAt wn 1024) (BitVec.ofNat 3 (wn / 128)) (BitVec.ofNat 4 (wn))) else none
  | 3 => if wn / 128 % 8 = 0 ∧ wn / 33554432 % 2 = 0 then some (.pLds (regAt wn 1048576) (regAt wn 32768) (regAt wn 1024) (BitVec.ofNat 4 (wn))) else none
  | 4 => if wn / 128 % 256 = 0 ∧ wn / 33554432 % 2 = 0 then some (.pInfo (regAt wn 1048576) (regAt wn 32768) (BitVec.ofNat 4 (wn))) else none
  | 5 => if wn % 16 = 0 ∧ wn / 128 % 256 = 0 ∧ wn / 1048576 % 64 = 0 then some (.pUnbind (regAt wn 32768)) else none
  | _ => none

/-- Words of major f (R37). -/
noncomputable def decodeF (wn : Nat) : Option Instr :=
  match wn % 2048 with
  | 0 => if wn / 2048 % 32 = 0 then some (.fColl (regAt wn 2097152) (regAt wn 65536)) else none
  | 1 => if wn / 2048 % 32 = 0 ∧ wn / 2097152 % 32 = 0 then some (.fWait (regAt wn 65536)) else none
  | 2 => if wn / 2048 % 32 = 0 then some (.fTest (regAt wn 2097152) (regAt wn 65536)) else none
  | _ => none

/-- Words of major w (R37). -/
noncomputable def decodeW (wn : Nat) : Option Instr :=
  match wn % 2048 with
  | 0 => if wn / 2097152 % 32 = 0 then some (.wMark (regAt wn 65536) (regAt wn 2048)) else none
  | 1 => if wn / 2048 % 1024 = 0 then some (.wInfo (regAt wn 2097152)) else none
  | _ => none

/-- Words of major h (R37). -/
noncomputable def decodeH (wn : Nat) : Option Instr :=
  match wn % 2048 with
  | 0 => some (.hPf (regAt wn 2097152) (regAt wn 65536) (regAt wn 2048))
  | 1 => some (.hPfs (regAt wn 2097152) (regAt wn 65536) (regAt wn 2048))
  | _ => some (.hNop (regAt wn 2097152) (regAt wn 65536) (regAt wn 2048) (BitVec.ofNat 11 wn))

/-- The word of the major in bits [31:26]; every other major is reserved (R37). -/
noncomputable def decodeRaw (n : Nat) : Option Instr :=
  match n / 67108864 with
  | 0 => decodeK n
  | 1 => decodeKc n
  | 2 => decodeA n
  | 3 => decodeAi n
  | 4 => decodeS n
  | 5 => decodeSi n
  | 6 => decodeIns n
  | 7 => decodeLd n
  | 8 => decodeSt n
  | 9 => decodeLk n
  | 10 => decodeB n
  | 11 => decodeBq n
  | 12 => decodeJ n
  | 13 => decodeJal n
  | 14 => decodeJr n
  | 15 => decodeX n
  | 16 => decodeSf n
  | 24 => decodeVc n
  | 25 => decodeV n
  | 26 => decodeVs n
  | 27 => decodeVi n
  | 28 => decodeVf n
  | 29 => decodeVfs n
  | 30 => decodeVcv n
  | 31 => decodeVp n
  | 32 => decodeVld n
  | 33 => decodeVst n
  | 34 => decodeVlk n
  | 35 => decodeVw n
  | 40 => decodeM n
  | 41 => decodeMt n
  | 48 => decodeC n
  | 49 => decodeCb n
  | 52 => decodeP n
  | 56 => decodeF n
  | 60 => decodeW n
  | 62 => decodeH n
  | _ => none

/-- The instruction a word is, or none for an illegal word (R25). -/
noncomputable def decodeWord (w : IWord) : Option Instr :=
  match decodeRaw w.toNat with
  | some i => if i.wordWf then some i else none
  | none => none

/-- Whether the major of a word is convoyable (R33). -/
def convoyableMajor (w : IWord) : Bool :=
  match w.toNat / 67108864 with
  | 25 | 26 | 27 | 28 | 29 | 30 | 31 | 32 | 33 | 34 | 35 => true
  | _ => false

/-- A linked word: another word joins the unit after it (R34). -/
def linkedWord (w : IWord) : Bool := convoyableMajor w && w.toNat / 33554432 % 2 == 1

/-- How many of the words at hand form the unit that starts at the first: it ends at the first word that
is not linked, and at the fourth word in any case (R34). -/
def unitLength : Nat → List IWord → Nat
  | 0, _ => 0
  | _, [] => 0
  | k + 1, w :: rest => if linkedWord w then 1 + unitLength k rest else 1

/-- What a unit decodes to: an instruction, or the first failing check: cause 1, or cause 2 when `bad`,
with the word and its position (R26, R34). -/
inductive UnitResult
  | ok (i : Instr)
  | fails (bad : Bool) (w : IWord) (pos : BitVec 2)
deriving DecidableEq, Repr

/-- The words of a convoy from position `pos` on, after the word `prev`: each is legal (cause 1) and may
follow it (cause 2), and the fourth is not linked (R34). -/
noncomputable def decodeLinked (prev : CWord) (pos : Nat) : List IWord → Except (Bool × IWord × Nat) (List CWord)
  | [] => .ok []
  | w :: rest =>
    match decodeWord w with
    | none => .error (false, w, pos)
    | some i =>
      match i.toCWord with
      | none => .error (true, w, pos)
      | some (l, c) =>
        if !prev.mayPrecede c || (l && decide (3 ≤ pos)) then .error (true, w, pos)
        else match decodeLinked c (pos + 1) rest with
          | .ok cs => .ok (c :: cs)
          | .error e => .error e

/-- The unit whose words are given, exactly those of `unitLength` (R34). -/
noncomputable def decodeUnit : List IWord → UnitResult
  | [] => .fails false 0 0
  | w :: rest =>
    match decodeWord w with
    | none => .fails false w 0
    | some i =>
      match i.toCWord, rest with
      | some (true, c), _ :: _ =>
        match decodeLinked c 1 rest with
        | .ok cs => .ok (.convoy (c :: cs))
        | .error (bad, v, pos) => .fails bad v (BitVec.ofNat 2 pos)
      | _, _ => .ok i

/-- The number that a word's fields make (R29); an event and a convoy have no word of their own. -/
def Instr.encodeNat : Instr → Nat
  | .kNop => 1
  | .kTrap c => 2 + c.toNat * 65536
  | .kBrk => 3
  | .kEret => 4
  | .kWfi => 5
  | .kEnd => 6
  | .kClaim => 7
  | .kFence s t => 8 + s.toNat * 2097152 + t.toNat * 65536
  | .kLaunch d a => 9 + d.toNat * 2097152 + a.toNat * 65536
  | .kEgress d a => 10 + d.toNat * 2097152 + a.toNat * 65536
  | .kYield a => 11 + a.toNat * 65536
  | .kcRw d a c => 67108864 + d.toNat * 2097152 + a.toNat * 65536 + c.toNat
  | .kcRs d a c => 67125248 + d.toNat * 2097152 + a.toNat * 65536 + c.toNat
  | .kcRc d a c => 67141632 + d.toNat * 2097152 + a.toNat * 65536 + c.toNat
  | .kcR d c => 67158016 + d.toNat * 2097152 + c.toNat
  | .aAdd d a b => 134217728 + d.toNat * 2097152 + a.toNat * 65536 + b.toNat * 2048
  | .aSub d a b => 134217729 + d.toNat * 2097152 + a.toNat * 65536 + b.toNat * 2048
  | .aAnd d a b => 134217730 + d.toNat * 2097152 + a.toNat * 65536 + b.toNat * 2048
  | .aOr d a b => 134217731 + d.toNat * 2097152 + a.toNat * 65536 + b.toNat * 2048
  | .aXor d a b => 134217732 + d.toNat * 2097152 + a.toNat * 65536 + b.toNat * 2048
  | .aShl d a b => 134217733 + d.toNat * 2097152 + a.toNat * 65536 + b.toNat * 2048
  | .aShr d a b => 134217734 + d.toNat * 2097152 + a.toNat * 65536 + b.toNat * 2048
  | .aSra d a b => 134217735 + d.toNat * 2097152 + a.toNat * 65536 + b.toNat * 2048
  | .aSlt d a b => 134217736 + d.toNat * 2097152 + a.toNat * 65536 + b.toNat * 2048
  | .aSltz d a b => 134217737 + d.toNat * 2097152 + a.toNat * 65536 + b.toNat * 2048
  | .aMin d a b => 134217738 + d.toNat * 2097152 + a.toNat * 65536 + b.toNat * 2048
  | .aMax d a b => 134217739 + d.toNat * 2097152 + a.toNat * 65536 + b.toNat * 2048
  | .aMinz d a b => 134217740 + d.toNat * 2097152 + a.toNat * 65536 + b.toNat * 2048
  | .aMaxz d a b => 134217741 + d.toNat * 2097152 + a.toNat * 65536 + b.toNat * 2048
  | .aMul d a b => 134217742 + d.toNat * 2097152 + a.toNat * 65536 + b.toNat * 2048
  | .aMulh d a b => 134217743 + d.toNat * 2097152 + a.toNat * 65536 + b.toNat * 2048
  | .aMulhz d a b => 134217744 + d.toNat * 2097152 + a.toNat * 65536 + b.toNat * 2048
  | .aDiv d a b => 134217745 + d.toNat * 2097152 + a.toNat * 65536 + b.toNat * 2048
  | .aDivz d a b => 134217746 + d.toNat * 2097152 + a.toNat * 65536 + b.toNat * 2048
  | .aRem d a b => 134217747 + d.toNat * 2097152 + a.toNat * 65536 + b.toNat * 2048
  | .aRemz d a b => 134217748 + d.toNat * 2097152 + a.toNat * 65536 + b.toNat * 2048
  | .aClz d a => 134217749 + d.toNat * 2097152 + a.toNat * 65536
  | .aCtz d a => 134217750 + d.toNat * 2097152 + a.toNat * 65536
  | .aPop d a => 134217751 + d.toNat * 2097152 + a.toNat * 65536
  | .aAddw d a b => 134217752 + d.toNat * 2097152 + a.toNat * 65536 + b.toNat * 2048
  | .aSubw d a b => 134217753 + d.toNat * 2097152 + a.toNat * 65536 + b.toNat * 2048
  | .aSext d a w => 134217754 + d.toNat * 2097152 + a.toNat * 65536 + w.code * 2048
  | .aZext d a w => 134217755 + d.toNat * 2097152 + a.toNat * 65536 + w.code * 2048
  | .sAdd d a b => 268435456 + d.toNat * 2097152 + a.toNat * 65536 + b.toNat * 2048
  | .sSub d a b => 268435457 + d.toNat * 2097152 + a.toNat * 65536 + b.toNat * 2048
  | .sAnd d a b => 268435458 + d.toNat * 2097152 + a.toNat * 65536 + b.toNat * 2048
  | .sOr d a b => 268435459 + d.toNat * 2097152 + a.toNat * 65536 + b.toNat * 2048
  | .sXor d a b => 268435460 + d.toNat * 2097152 + a.toNat * 65536 + b.toNat * 2048
  | .sShl d a b => 268435461 + d.toNat * 2097152 + a.toNat * 65536 + b.toNat * 2048
  | .sShr d a b => 268435462 + d.toNat * 2097152 + a.toNat * 65536 + b.toNat * 2048
  | .sSra d a b => 268435463 + d.toNat * 2097152 + a.toNat * 65536 + b.toNat * 2048
  | .sSlt d a b => 268435464 + d.toNat * 2097152 + a.toNat * 65536 + b.toNat * 2048
  | .sSltz d a b => 268435465 + d.toNat * 2097152 + a.toNat * 65536 + b.toNat * 2048
  | .sMin d a b => 268435466 + d.toNat * 2097152 + a.toNat * 65536 + b.toNat * 2048
  | .sMax d a b => 268435467 + d.toNat * 2097152 + a.toNat * 65536 + b.toNat * 2048
  | .sMinz d a b => 268435468 + d.toNat * 2097152 + a.toNat * 65536 + b.toNat * 2048
  | .sMaxz d a b => 268435469 + d.toNat * 2097152 + a.toNat * 65536 + b.toNat * 2048
  | .sMul d a b => 268435470 + d.toNat * 2097152 + a.toNat * 65536 + b.toNat * 2048
  | .sMulh d a b => 268435471 + d.toNat * 2097152 + a.toNat * 65536 + b.toNat * 2048
  | .sMulhz d a b => 268435472 + d.toNat * 2097152 + a.toNat * 65536 + b.toNat * 2048
  | .sDiv d a b => 268435473 + d.toNat * 2097152 + a.toNat * 65536 + b.toNat * 2048
  | .sDivz d a b => 268435474 + d.toNat * 2097152 + a.toNat * 65536 + b.toNat * 2048
  | .sRem d a b => 268435475 + d.toNat * 2097152 + a.toNat * 65536 + b.toNat * 2048
  | .sRemz d a b => 268435476 + d.toNat * 2097152 + a.toNat * 65536 + b.toNat * 2048
  | .sClz d a => 268435477 + d.toNat * 2097152 + a.toNat * 65536
  | .sCtz d a => 268435478 + d.toNat * 2097152 + a.toNat * 65536
  | .sPop d a => 268435479 + d.toNat * 2097152 + a.toNat * 65536
  | .sAddw d a b => 268435480 + d.toNat * 2097152 + a.toNat * 65536 + b.toNat * 2048
  | .sSubw d a b => 268435481 + d.toNat * 2097152 + a.toNat * 65536 + b.toNat * 2048
  | .sSext d a w => 268435482 + d.toNat * 2097152 + a.toNat * 65536 + w.code * 2048
  | .sZext d a w => 268435483 + d.toNat * 2097152 + a.toNat * 65536 + w.code * 2048
  | .sBqeq a b => 268435488 + a.toNat * 65536 + b.toNat * 2048
  | .sBqne a b => 268435489 + a.toNat * 65536 + b.toNat * 2048
  | .sBqlt a b => 268435490 + a.toNat * 65536 + b.toNat * 2048
  | .sBqge a b => 268435491 + a.toNat * 65536 + b.toNat * 2048
  | .sBqltz a b => 268435492 + a.toNat * 65536 + b.toNat * 2048
  | .sBqgez a b => 268435493 + a.toNat * 65536 + b.toNat * 2048
  | .aiAdd d a i => 201326592 + d.toNat * 2097152 + a.toNat * 65536 + i.toNat
  | .aiAnd d a i => 201330688 + d.toNat * 2097152 + a.toNat * 65536 + i.toNat
  | .aiOr d a i => 201334784 + d.toNat * 2097152 + a.toNat * 65536 + i.toNat
  | .aiXor d a i => 201338880 + d.toNat * 2097152 + a.toNat * 65536 + i.toNat
  | .aiShl d a c => 201342976 + d.toNat * 2097152 + a.toNat * 65536 + c.toNat
  | .aiShr d a c => 201347072 + d.toNat * 2097152 + a.toNat * 65536 + c.toNat
  | .aiSra d a c => 201351168 + d.toNat * 2097152 + a.toNat * 65536 + c.toNat
  | .aiSlt d a i => 201355264 + d.toNat * 2097152 + a.toNat * 65536 + i.toNat
  | .aiSltz d a i => 201359360 + d.toNat * 2097152 + a.toNat * 65536 + i.toNat
  | .aiMul d a i => 201363456 + d.toNat * 2097152 + a.toNat * 65536 + i.toNat
  | .siAdd d a i => 335544320 + d.toNat * 2097152 + a.toNat * 65536 + i.toNat
  | .siAnd d a i => 335548416 + d.toNat * 2097152 + a.toNat * 65536 + i.toNat
  | .siOr d a i => 335552512 + d.toNat * 2097152 + a.toNat * 65536 + i.toNat
  | .siXor d a i => 335556608 + d.toNat * 2097152 + a.toNat * 65536 + i.toNat
  | .siShl d a c => 335560704 + d.toNat * 2097152 + a.toNat * 65536 + c.toNat
  | .siShr d a c => 335564800 + d.toNat * 2097152 + a.toNat * 65536 + c.toNat
  | .siSra d a c => 335568896 + d.toNat * 2097152 + a.toNat * 65536 + c.toNat
  | .siSlt d a i => 335572992 + d.toNat * 2097152 + a.toNat * 65536 + i.toNat
  | .siSltz d a i => 335577088 + d.toNat * 2097152 + a.toNat * 65536 + i.toNat
  | .siMul d a i => 335581184 + d.toNat * 2097152 + a.toNat * 65536 + i.toNat
  | .ins d s q i => 402653184 + d.toNat * 2097152 + s.toNat * 1048576 + q.toNat * 262144 + i.toNat
  | .ld d a w q o i => 469762048 + d.toNat * 2097152 + a.toNat * 65536 + w.code * 8192 + q.toNat * 4096 + o.code * 1024 + i.toNat
  | .st d a w q o i => 536870912 + d.toNat * 2097152 + a.toNat * 65536 + w.code * 8192 + q.toNat * 4096 + o.code * 1024 + i.toNat
  | .lkLl d a => 603979776 + d.toNat * 2097152 + a.toNat * 65536
  | .lkSc d a b => 603979777 + d.toNat * 2097152 + a.toNat * 65536 + b.toNat * 2048
  | .lkLl32 d a => 603979778 + d.toNat * 2097152 + a.toNat * 65536
  | .lkSc32 d a b => 603979779 + d.toNat * 2097152 + a.toNat * 65536 + b.toNat * 2048
  | .bEq a b n d => 671088640 + a.toNat * 2097152 + b.toNat * 65536 + n.code * 2048 + d.toNat
  | .bNe a b n d => 671096832 + a.toNat * 2097152 + b.toNat * 65536 + n.code * 2048 + d.toNat
  | .bLt a b n d => 671105024 + a.toNat * 2097152 + b.toNat * 65536 + n.code * 2048 + d.toNat
  | .bGe a b n d => 671113216 + a.toNat * 2097152 + b.toNat * 65536 + n.code * 2048 + d.toNat
  | .bLtz a b n d => 671121408 + a.toNat * 2097152 + b.toNat * 65536 + n.code * 2048 + d.toNat
  | .bGez a b n d => 671129600 + a.toNat * 2097152 + b.toNat * 65536 + n.code * 2048 + d.toNat
  | .bqT n d => 738197504 + n.code * 2048 + d.toNat
  | .bqF n d => 738205696 + n.code * 2048 + d.toNat
  | .j n d => 805306368 + n.code * 16777216 + d.toNat
  | .jal n d => 872415232 + n.code * 16777216 + d.toNat
  | .jr d a => 939524096 + d.toNat * 2097152 + a.toNat * 65536
  | .xStoa a => 1006632960 + a.toNat * 65536
  | .xAfroms d => 1006632961 + d.toNat * 2097152
  | .xAtoe a => 1006632962 + a.toNat * 65536
  | .xSfrome d => 1006632963 + d.toNat * 2097152
  | .xSpush a => 1006632964 + a.toNat * 65536
  | .xDrain m => 1006632965 + m.toNat * 2048
  | .sfAdd d a b t => 1073741824 + d.toNat * 2097152 + a.toNat * 65536 + b.toNat * 2048 + t.code * 256
  | .sfSub d a b t => 1073741825 + d.toNat * 2097152 + a.toNat * 65536 + b.toNat * 2048 + t.code * 256
  | .sfMul d a b t => 1073741826 + d.toNat * 2097152 + a.toNat * 65536 + b.toNat * 2048 + t.code * 256
  | .sfDiv d a b t => 1073741827 + d.toNat * 2097152 + a.toNat * 65536 + b.toNat * 2048 + t.code * 256
  | .sfSqrt d a t => 1073741828 + d.toNat * 2097152 + a.toNat * 65536 + t.code * 256
  | .sfMin d a b t => 1073741829 + d.toNat * 2097152 + a.toNat * 65536 + b.toNat * 2048 + t.code * 256
  | .sfMax d a b t => 1073741830 + d.toNat * 2097152 + a.toNat * 65536 + b.toNat * 2048 + t.code * 256
  | .sfFma d a b t => 1073741831 + d.toNat * 2097152 + a.toNat * 65536 + b.toNat * 2048 + t.code * 256
  | .sfCvfi d a t => 1073741832 + d.toNat * 2097152 + a.toNat * 65536 + t.code * 256
  | .sfCvif d a t => 1073741833 + d.toNat * 2097152 + a.toNat * 65536 + t.code * 256
  | .sfCvff d a t => 1073741834 + d.toNat * 2097152 + a.toNat * 65536 + t.code * 256
  | .sfLt d a b t => 1073741835 + d.toNat * 2097152 + a.toNat * 65536 + b.toNat * 2048 + t.code * 256
  | .sfEq d a b t => 1073741836 + d.toNat * 2097152 + a.toNat * 65536 + b.toNat * 2048 + t.code * 256
  | .sfLe d a b t => 1073741837 + d.toNat * 2097152 + a.toNat * 65536 + b.toNat * 2048 + t.code * 256
  | .vcSetvl d a b => 1610612736 + d.toNat * 1048576 + a.toNat * 32768 + b.toNat * 1024
  | .vcSetvlmax d b => 1610612737 + d.toNat * 1048576 + b.toNat * 1024
  | .vAdd l d a b m => 1677721600 + l.toNat * 33554432 + d.toNat * 1048576 + a.toNat * 32768 + b.toNat * 1024 + m.toNat * 128
  | .vSub l d a b m => 1677721601 + l.toNat * 33554432 + d.toNat * 1048576 + a.toNat * 32768 + b.toNat * 1024 + m.toNat * 128
  | .vRsub l d a b m => 1677721602 + l.toNat * 33554432 + d.toNat * 1048576 + a.toNat * 32768 + b.toNat * 1024 + m.toNat * 128
  | .vMul l d a b m => 1677721603 + l.toNat * 33554432 + d.toNat * 1048576 + a.toNat * 32768 + b.toNat * 1024 + m.toNat * 128
  | .vMulh l d a b m => 1677721604 + l.toNat * 33554432 + d.toNat * 1048576 + a.toNat * 32768 + b.toNat * 1024 + m.toNat * 128
  | .vMulhz l d a b m => 1677721605 + l.toNat * 33554432 + d.toNat * 1048576 + a.toNat * 32768 + b.toNat * 1024 + m.toNat * 128
  | .vMac l d a b m => 1677721606 + l.toNat * 33554432 + d.toNat * 1048576 + a.toNat * 32768 + b.toNat * 1024 + m.toNat * 128
  | .vNmac l d a b m => 1677721607 + l.toNat * 33554432 + d.toNat * 1048576 + a.toNat * 32768 + b.toNat * 1024 + m.toNat * 128
  | .vAnd l d a b m => 1677721608 + l.toNat * 33554432 + d.toNat * 1048576 + a.toNat * 32768 + b.toNat * 1024 + m.toNat * 128
  | .vOr l d a b m => 1677721609 + l.toNat * 33554432 + d.toNat * 1048576 + a.toNat * 32768 + b.toNat * 1024 + m.toNat * 128
  | .vXor l d a b m => 1677721610 + l.toNat * 33554432 + d.toNat * 1048576 + a.toNat * 32768 + b.toNat * 1024 + m.toNat * 128
  | .vShl l d a b m => 1677721611 + l.toNat * 33554432 + d.toNat * 1048576 + a.toNat * 32768 + b.toNat * 1024 + m.toNat * 128
  | .vShr l d a b m => 1677721612 + l.toNat * 33554432 + d.toNat * 1048576 + a.toNat * 32768 + b.toNat * 1024 + m.toNat * 128
  | .vSra l d a b m => 1677721613 + l.toNat * 33554432 + d.toNat * 1048576 + a.toNat * 32768 + b.toNat * 1024 + m.toNat * 128
  | .vRshr l d a b m => 1677721614 + l.toNat * 33554432 + d.toNat * 1048576 + a.toNat * 32768 + b.toNat * 1024 + m.toNat * 128
  | .vRshre l d a b m => 1677721615 + l.toNat * 33554432 + d.toNat * 1048576 + a.toNat * 32768 + b.toNat * 1024 + m.toNat * 128
  | .vMin l d a b m => 1677721616 + l.toNat * 33554432 + d.toNat * 1048576 + a.toNat * 32768 + b.toNat * 1024 + m.toNat * 128
  | .vMax l d a b m => 1677721617 + l.toNat * 33554432 + d.toNat * 1048576 + a.toNat * 32768 + b.toNat * 1024 + m.toNat * 128
  | .vMinz l d a b m => 1677721618 + l.toNat * 33554432 + d.toNat * 1048576 + a.toNat * 32768 + b.toNat * 1024 + m.toNat * 128
  | .vMaxz l d a b m => 1677721619 + l.toNat * 33554432 + d.toNat * 1048576 + a.toNat * 32768 + b.toNat * 1024 + m.toNat * 128
  | .vAbs l d a m => 1677721620 + l.toNat * 33554432 + d.toNat * 1048576 + a.toNat * 32768 + m.toNat * 128
  | .vAvg l d a b m => 1677721621 + l.toNat * 33554432 + d.toNat * 1048576 + a.toNat * 32768 + b.toNat * 1024 + m.toNat * 128
  | .vDiv l d a b m => 1677721622 + l.toNat * 33554432 + d.toNat * 1048576 + a.toNat * 32768 + b.toNat * 1024 + m.toNat * 128
  | .vDivz l d a b m => 1677721623 + l.toNat * 33554432 + d.toNat * 1048576 + a.toNat * 32768 + b.toNat * 1024 + m.toNat * 128
  | .vRem l d a b m => 1677721624 + l.toNat * 33554432 + d.toNat * 1048576 + a.toNat * 32768 + b.toNat * 1024 + m.toNat * 128
  | .vRemz l d a b m => 1677721625 + l.toNat * 33554432 + d.toNat * 1048576 + a.toNat * 32768 + b.toNat * 1024 + m.toNat * 128
  | .vCmpeq l d a b m => 1677721626 + l.toNat * 33554432 + d.toNat * 1048576 + a.toNat * 32768 + b.toNat * 1024 + m.toNat * 128
  | .vCmpne l d a b m => 1677721627 + l.toNat * 33554432 + d.toNat * 1048576 + a.toNat * 32768 + b.toNat * 1024 + m.toNat * 128
  | .vCmplt l d a b m => 1677721628 + l.toNat * 33554432 + d.toNat * 1048576 + a.toNat * 32768 + b.toNat * 1024 + m.toNat * 128
  | .vCmple l d a b m => 1677721629 + l.toNat * 33554432 + d.toNat * 1048576 + a.toNat * 32768 + b.toNat * 1024 + m.toNat * 128
  | .vCmpltz l d a b m => 1677721630 + l.toNat * 33554432 + d.toNat * 1048576 + a.toNat * 32768 + b.toNat * 1024 + m.toNat * 128
  | .vCmplez l d a b m => 1677721631 + l.toNat * 33554432 + d.toNat * 1048576 + a.toNat * 32768 + b.toNat * 1024 + m.toNat * 128
  | .vSel l d a b m => 1677721632 + l.toNat * 33554432 + d.toNat * 1048576 + a.toNat * 32768 + b.toNat * 1024 + m.toNat * 128
  | .vMv l d a m => 1677721633 + l.toNat * 33554432 + d.toNat * 1048576 + a.toNat * 32768 + m.toNat * 128
  | .vClz l d a m => 1677721634 + l.toNat * 33554432 + d.toNat * 1048576 + a.toNat * 32768 + m.toNat * 128
  | .vPop l d a m => 1677721635 + l.toNat * 33554432 + d.toNat * 1048576 + a.toNat * 32768 + m.toNat * 128
  | .vsAdd l d a b m => 1744830464 + l.toNat * 33554432 + d.toNat * 1048576 + a.toNat * 32768 + b.toNat * 1024 + m.toNat * 128
  | .vsSub l d a b m => 1744830465 + l.toNat * 33554432 + d.toNat * 1048576 + a.toNat * 32768 + b.toNat * 1024 + m.toNat * 128
  | .vsRsub l d a b m => 1744830466 + l.toNat * 33554432 + d.toNat * 1048576 + a.toNat * 32768 + b.toNat * 1024 + m.toNat * 128
  | .vsMul l d a b m => 1744830467 + l.toNat * 33554432 + d.toNat * 1048576 + a.toNat * 32768 + b.toNat * 1024 + m.toNat * 128
  | .vsMulh l d a b m => 1744830468 + l.toNat * 33554432 + d.toNat * 1048576 + a.toNat * 32768 + b.toNat * 1024 + m.toNat * 128
  | .vsMulhz l d a b m => 1744830469 + l.toNat * 33554432 + d.toNat * 1048576 + a.toNat * 32768 + b.toNat * 1024 + m.toNat * 128
  | .vsMac l d a b m => 1744830470 + l.toNat * 33554432 + d.toNat * 1048576 + a.toNat * 32768 + b.toNat * 1024 + m.toNat * 128
  | .vsNmac l d a b m => 1744830471 + l.toNat * 33554432 + d.toNat * 1048576 + a.toNat * 32768 + b.toNat * 1024 + m.toNat * 128
  | .vsAnd l d a b m => 1744830472 + l.toNat * 33554432 + d.toNat * 1048576 + a.toNat * 32768 + b.toNat * 1024 + m.toNat * 128
  | .vsOr l d a b m => 1744830473 + l.toNat * 33554432 + d.toNat * 1048576 + a.toNat * 32768 + b.toNat * 1024 + m.toNat * 128
  | .vsXor l d a b m => 1744830474 + l.toNat * 33554432 + d.toNat * 1048576 + a.toNat * 32768 + b.toNat * 1024 + m.toNat * 128
  | .vsShl l d a b m => 1744830475 + l.toNat * 33554432 + d.toNat * 1048576 + a.toNat * 32768 + b.toNat * 1024 + m.toNat * 128
  | .vsShr l d a b m => 1744830476 + l.toNat * 33554432 + d.toNat * 1048576 + a.toNat * 32768 + b.toNat * 1024 + m.toNat * 128
  | .vsSra l d a b m => 1744830477 + l.toNat * 33554432 + d.toNat * 1048576 + a.toNat * 32768 + b.toNat * 1024 + m.toNat * 128
  | .vsRshr l d a b m => 1744830478 + l.toNat * 33554432 + d.toNat * 1048576 + a.toNat * 32768 + b.toNat * 1024 + m.toNat * 128
  | .vsRshre l d a b m => 1744830479 + l.toNat * 33554432 + d.toNat * 1048576 + a.toNat * 32768 + b.toNat * 1024 + m.toNat * 128
  | .vsMin l d a b m => 1744830480 + l.toNat * 33554432 + d.toNat * 1048576 + a.toNat * 32768 + b.toNat * 1024 + m.toNat * 128
  | .vsMax l d a b m => 1744830481 + l.toNat * 33554432 + d.toNat * 1048576 + a.toNat * 32768 + b.toNat * 1024 + m.toNat * 128
  | .vsMinz l d a b m => 1744830482 + l.toNat * 33554432 + d.toNat * 1048576 + a.toNat * 32768 + b.toNat * 1024 + m.toNat * 128
  | .vsMaxz l d a b m => 1744830483 + l.toNat * 33554432 + d.toNat * 1048576 + a.toNat * 32768 + b.toNat * 1024 + m.toNat * 128
  | .vsAvg l d a b m => 1744830485 + l.toNat * 33554432 + d.toNat * 1048576 + a.toNat * 32768 + b.toNat * 1024 + m.toNat * 128
  | .vsDiv l d a b m => 1744830486 + l.toNat * 33554432 + d.toNat * 1048576 + a.toNat * 32768 + b.toNat * 1024 + m.toNat * 128
  | .vsDivz l d a b m => 1744830487 + l.toNat * 33554432 + d.toNat * 1048576 + a.toNat * 32768 + b.toNat * 1024 + m.toNat * 128
  | .vsRem l d a b m => 1744830488 + l.toNat * 33554432 + d.toNat * 1048576 + a.toNat * 32768 + b.toNat * 1024 + m.toNat * 128
  | .vsRemz l d a b m => 1744830489 + l.toNat * 33554432 + d.toNat * 1048576 + a.toNat * 32768 + b.toNat * 1024 + m.toNat * 128
  | .vsCmpeq l d a b m => 1744830490 + l.toNat * 33554432 + d.toNat * 1048576 + a.toNat * 32768 + b.toNat * 1024 + m.toNat * 128
  | .vsCmpne l d a b m => 1744830491 + l.toNat * 33554432 + d.toNat * 1048576 + a.toNat * 32768 + b.toNat * 1024 + m.toNat * 128
  | .vsCmplt l d a b m => 1744830492 + l.toNat * 33554432 + d.toNat * 1048576 + a.toNat * 32768 + b.toNat * 1024 + m.toNat * 128
  | .vsCmple l d a b m => 1744830493 + l.toNat * 33554432 + d.toNat * 1048576 + a.toNat * 32768 + b.toNat * 1024 + m.toNat * 128
  | .vsCmpltz l d a b m => 1744830494 + l.toNat * 33554432 + d.toNat * 1048576 + a.toNat * 32768 + b.toNat * 1024 + m.toNat * 128
  | .vsCmplez l d a b m => 1744830495 + l.toNat * 33554432 + d.toNat * 1048576 + a.toNat * 32768 + b.toNat * 1024 + m.toNat * 128
  | .vsSel l d a b m => 1744830496 + l.toNat * 33554432 + d.toNat * 1048576 + a.toNat * 32768 + b.toNat * 1024 + m.toNat * 128
  | .vsMv l d b m => 1744830497 + l.toNat * 33554432 + d.toNat * 1048576 + b.toNat * 1024 + m.toNat * 128
  | .viAdd l d a i m => 1811939328 + l.toNat * 33554432 + d.toNat * 1048576 + a.toNat * 32768 + i.toNat * 1024 + m.toNat * 128
  | .viSub l d a i m => 1811939329 + l.toNat * 33554432 + d.toNat * 1048576 + a.toNat * 32768 + i.toNat * 1024 + m.toNat * 128
  | .viRsub l d a i m => 1811939330 + l.toNat * 33554432 + d.toNat * 1048576 + a.toNat * 32768 + i.toNat * 1024 + m.toNat * 128
  | .viMul l d a i m => 1811939331 + l.toNat * 33554432 + d.toNat * 1048576 + a.toNat * 32768 + i.toNat * 1024 + m.toNat * 128
  | .viMulh l d a i m => 1811939332 + l.toNat * 33554432 + d.toNat * 1048576 + a.toNat * 32768 + i.toNat * 1024 + m.toNat * 128
  | .viMulhz l d a i m => 1811939333 + l.toNat * 33554432 + d.toNat * 1048576 + a.toNat * 32768 + i.toNat * 1024 + m.toNat * 128
  | .viMac l d a i m => 1811939334 + l.toNat * 33554432 + d.toNat * 1048576 + a.toNat * 32768 + i.toNat * 1024 + m.toNat * 128
  | .viNmac l d a i m => 1811939335 + l.toNat * 33554432 + d.toNat * 1048576 + a.toNat * 32768 + i.toNat * 1024 + m.toNat * 128
  | .viAnd l d a i m => 1811939336 + l.toNat * 33554432 + d.toNat * 1048576 + a.toNat * 32768 + i.toNat * 1024 + m.toNat * 128
  | .viOr l d a i m => 1811939337 + l.toNat * 33554432 + d.toNat * 1048576 + a.toNat * 32768 + i.toNat * 1024 + m.toNat * 128
  | .viXor l d a i m => 1811939338 + l.toNat * 33554432 + d.toNat * 1048576 + a.toNat * 32768 + i.toNat * 1024 + m.toNat * 128
  | .viShl l d a i m => 1811939339 + l.toNat * 33554432 + d.toNat * 1048576 + a.toNat * 32768 + i.toNat * 1024 + m.toNat * 128
  | .viShr l d a i m => 1811939340 + l.toNat * 33554432 + d.toNat * 1048576 + a.toNat * 32768 + i.toNat * 1024 + m.toNat * 128
  | .viSra l d a i m => 1811939341 + l.toNat * 33554432 + d.toNat * 1048576 + a.toNat * 32768 + i.toNat * 1024 + m.toNat * 128
  | .viRshr l d a i m => 1811939342 + l.toNat * 33554432 + d.toNat * 1048576 + a.toNat * 32768 + i.toNat * 1024 + m.toNat * 128
  | .viRshre l d a i m => 1811939343 + l.toNat * 33554432 + d.toNat * 1048576 + a.toNat * 32768 + i.toNat * 1024 + m.toNat * 128
  | .viMin l d a i m => 1811939344 + l.toNat * 33554432 + d.toNat * 1048576 + a.toNat * 32768 + i.toNat * 1024 + m.toNat * 128
  | .viMax l d a i m => 1811939345 + l.toNat * 33554432 + d.toNat * 1048576 + a.toNat * 32768 + i.toNat * 1024 + m.toNat * 128
  | .viMinz l d a i m => 1811939346 + l.toNat * 33554432 + d.toNat * 1048576 + a.toNat * 32768 + i.toNat * 1024 + m.toNat * 128
  | .viMaxz l d a i m => 1811939347 + l.toNat * 33554432 + d.toNat * 1048576 + a.toNat * 32768 + i.toNat * 1024 + m.toNat * 128
  | .viAvg l d a i m => 1811939349 + l.toNat * 33554432 + d.toNat * 1048576 + a.toNat * 32768 + i.toNat * 1024 + m.toNat * 128
  | .viDiv l d a i m => 1811939350 + l.toNat * 33554432 + d.toNat * 1048576 + a.toNat * 32768 + i.toNat * 1024 + m.toNat * 128
  | .viDivz l d a i m => 1811939351 + l.toNat * 33554432 + d.toNat * 1048576 + a.toNat * 32768 + i.toNat * 1024 + m.toNat * 128
  | .viRem l d a i m => 1811939352 + l.toNat * 33554432 + d.toNat * 1048576 + a.toNat * 32768 + i.toNat * 1024 + m.toNat * 128
  | .viRemz l d a i m => 1811939353 + l.toNat * 33554432 + d.toNat * 1048576 + a.toNat * 32768 + i.toNat * 1024 + m.toNat * 128
  | .viCmpeq l d a i m => 1811939354 + l.toNat * 33554432 + d.toNat * 1048576 + a.toNat * 32768 + i.toNat * 1024 + m.toNat * 128
  | .viCmpne l d a i m => 1811939355 + l.toNat * 33554432 + d.toNat * 1048576 + a.toNat * 32768 + i.toNat * 1024 + m.toNat * 128
  | .viCmplt l d a i m => 1811939356 + l.toNat * 33554432 + d.toNat * 1048576 + a.toNat * 32768 + i.toNat * 1024 + m.toNat * 128
  | .viCmple l d a i m => 1811939357 + l.toNat * 33554432 + d.toNat * 1048576 + a.toNat * 32768 + i.toNat * 1024 + m.toNat * 128
  | .viCmpltz l d a i m => 1811939358 + l.toNat * 33554432 + d.toNat * 1048576 + a.toNat * 32768 + i.toNat * 1024 + m.toNat * 128
  | .viCmplez l d a i m => 1811939359 + l.toNat * 33554432 + d.toNat * 1048576 + a.toNat * 32768 + i.toNat * 1024 + m.toNat * 128
  | .viSel l d a i m => 1811939360 + l.toNat * 33554432 + d.toNat * 1048576 + a.toNat * 32768 + i.toNat * 1024 + m.toNat * 128
  | .viMv l d i m => 1811939361 + l.toNat * 33554432 + d.toNat * 1048576 + i.toNat * 1024 + m.toNat * 128
  | .vfAdd l d a b m => 1879048192 + l.toNat * 33554432 + d.toNat * 1048576 + a.toNat * 32768 + b.toNat * 1024 + m.toNat * 128
  | .vfSub l d a b m => 1879048193 + l.toNat * 33554432 + d.toNat * 1048576 + a.toNat * 32768 + b.toNat * 1024 + m.toNat * 128
  | .vfMul l d a b m => 1879048194 + l.toNat * 33554432 + d.toNat * 1048576 + a.toNat * 32768 + b.toNat * 1024 + m.toNat * 128
  | .vfDiv l d a b m => 1879048195 + l.toNat * 33554432 + d.toNat * 1048576 + a.toNat * 32768 + b.toNat * 1024 + m.toNat * 128
  | .vfFma l d a b m => 1879048196 + l.toNat * 33554432 + d.toNat * 1048576 + a.toNat * 32768 + b.toNat * 1024 + m.toNat * 128
  | .vfFms l d a b m => 1879048197 + l.toNat * 33554432 + d.toNat * 1048576 + a.toNat * 32768 + b.toNat * 1024 + m.toNat * 128
  | .vfFnma l d a b m => 1879048198 + l.toNat * 33554432 + d.toNat * 1048576 + a.toNat * 32768 + b.toNat * 1024 + m.toNat * 128
  | .vfMin l d a b m => 1879048199 + l.toNat * 33554432 + d.toNat * 1048576 + a.toNat * 32768 + b.toNat * 1024 + m.toNat * 128
  | .vfMax l d a b m => 1879048200 + l.toNat * 33554432 + d.toNat * 1048576 + a.toNat * 32768 + b.toNat * 1024 + m.toNat * 128
  | .vfAbs l d a m => 1879048201 + l.toNat * 33554432 + d.toNat * 1048576 + a.toNat * 32768 + m.toNat * 128
  | .vfNeg l d a m => 1879048202 + l.toNat * 33554432 + d.toNat * 1048576 + a.toNat * 32768 + m.toNat * 128
  | .vfSqrt l d a m => 1879048203 + l.toNat * 33554432 + d.toNat * 1048576 + a.toNat * 32768 + m.toNat * 128
  | .vfRcpe l d a m => 1879048204 + l.toNat * 33554432 + d.toNat * 1048576 + a.toNat * 32768 + m.toNat * 128
  | .vfRsqe l d a m => 1879048205 + l.toNat * 33554432 + d.toNat * 1048576 + a.toNat * 32768 + m.toNat * 128
  | .vfExp2 l d a m => 1879048206 + l.toNat * 33554432 + d.toNat * 1048576 + a.toNat * 32768 + m.toNat * 128
  | .vfCmpeq l d a b m => 1879048207 + l.toNat * 33554432 + d.toNat * 1048576 + a.toNat * 32768 + b.toNat * 1024 + m.toNat * 128
  | .vfCmplt l d a b m => 1879048208 + l.toNat * 33554432 + d.toNat * 1048576 + a.toNat * 32768 + b.toNat * 1024 + m.toNat * 128
  | .vfCmple l d a b m => 1879048209 + l.toNat * 33554432 + d.toNat * 1048576 + a.toNat * 32768 + b.toNat * 1024 + m.toNat * 128
  | .vfClass l d a m => 1879048210 + l.toNat * 33554432 + d.toNat * 1048576 + a.toNat * 32768 + m.toNat * 128
  | .vfSgnj l d a b m => 1879048211 + l.toNat * 33554432 + d.toNat * 1048576 + a.toNat * 32768 + b.toNat * 1024 + m.toNat * 128
  | .vfMaxm l d a b m => 1879048212 + l.toNat * 33554432 + d.toNat * 1048576 + a.toNat * 32768 + b.toNat * 1024 + m.toNat * 128
  | .vfsAdd l d a b m => 1946157056 + l.toNat * 33554432 + d.toNat * 1048576 + a.toNat * 32768 + b.toNat * 1024 + m.toNat * 128
  | .vfsSub l d a b m => 1946157057 + l.toNat * 33554432 + d.toNat * 1048576 + a.toNat * 32768 + b.toNat * 1024 + m.toNat * 128
  | .vfsMul l d a b m => 1946157058 + l.toNat * 33554432 + d.toNat * 1048576 + a.toNat * 32768 + b.toNat * 1024 + m.toNat * 128
  | .vfsDiv l d a b m => 1946157059 + l.toNat * 33554432 + d.toNat * 1048576 + a.toNat * 32768 + b.toNat * 1024 + m.toNat * 128
  | .vfsFma l d a b m => 1946157060 + l.toNat * 33554432 + d.toNat * 1048576 + a.toNat * 32768 + b.toNat * 1024 + m.toNat * 128
  | .vfsFms l d a b m => 1946157061 + l.toNat * 33554432 + d.toNat * 1048576 + a.toNat * 32768 + b.toNat * 1024 + m.toNat * 128
  | .vfsFnma l d a b m => 1946157062 + l.toNat * 33554432 + d.toNat * 1048576 + a.toNat * 32768 + b.toNat * 1024 + m.toNat * 128
  | .vfsMin l d a b m => 1946157063 + l.toNat * 33554432 + d.toNat * 1048576 + a.toNat * 32768 + b.toNat * 1024 + m.toNat * 128
  | .vfsMax l d a b m => 1946157064 + l.toNat * 33554432 + d.toNat * 1048576 + a.toNat * 32768 + b.toNat * 1024 + m.toNat * 128
  | .vfsCmpeq l d a b m => 1946157071 + l.toNat * 33554432 + d.toNat * 1048576 + a.toNat * 32768 + b.toNat * 1024 + m.toNat * 128
  | .vfsCmplt l d a b m => 1946157072 + l.toNat * 33554432 + d.toNat * 1048576 + a.toNat * 32768 + b.toNat * 1024 + m.toNat * 128
  | .vfsCmple l d a b m => 1946157073 + l.toNat * 33554432 + d.toNat * 1048576 + a.toNat * 32768 + b.toNat * 1024 + m.toNat * 128
  | .vfsSgnj l d a b m => 1946157075 + l.toNat * 33554432 + d.toNat * 1048576 + a.toNat * 32768 + b.toNat * 1024 + m.toNat * 128
  | .vfsMaxm l d a b m => 1946157076 + l.toNat * 33554432 + d.toNat * 1048576 + a.toNat * 32768 + b.toNat * 1024 + m.toNat * 128
  | .vcvCvt l d a m => 2013265920 + l.toNat * 33554432 + d.toNat * 1048576 + a.toNat * 32768 + m.toNat * 128
  | .vcvCvts l d a m => 2013265921 + l.toNat * 33554432 + d.toNat * 1048576 + a.toNat * 32768 + m.toNat * 128
  | .vcvQnt l d a b m => 2013265922 + l.toNat * 33554432 + d.toNat * 1048576 + a.toNat * 32768 + b.toNat * 1024 + m.toNat * 128
  | .vcvHad l d a i m => 2013265923 + l.toNat * 33554432 + d.toNat * 1048576 + a.toNat * 32768 + i.toNat * 1024 + m.toNat * 128
  | .vcvHash l d a b m => 2013265924 + l.toNat * 33554432 + d.toNat * 1048576 + a.toNat * 32768 + b.toNat * 1024 + m.toNat * 128
  | .vcvIota l d b m => 2013265925 + l.toNat * 33554432 + d.toNat * 1048576 + b.toNat * 1024 + m.toNat * 128
  | .vpSlup l d a b m => 2080374784 + l.toNat * 33554432 + d.toNat * 1048576 + a.toNat * 32768 + b.toNat * 1024 + m.toNat * 128
  | .vpSldn l d a b m => 2080374785 + l.toNat * 33554432 + d.toNat * 1048576 + a.toNat * 32768 + b.toNat * 1024 + m.toNat * 128
  | .vpRgat l d a b m => 2080374786 + l.toNat * 33554432 + d.toNat * 1048576 + a.toNat * 32768 + b.toNat * 1024 + m.toNat * 128
  | .vpCmpr l d a m => 2080374787 + l.toNat * 33554432 + d.toNat * 1048576 + a.toNat * 32768 + m.toNat * 128
  | .vpExpd l d a m => 2080374788 + l.toNat * 33554432 + d.toNat * 1048576 + a.toNat * 32768 + m.toNat * 128
  | .vpXchg l d a i m => 2080374789 + l.toNat * 33554432 + d.toNat * 1048576 + a.toNat * 32768 + i.toNat * 1024 + m.toNat * 128
  | .vpSort l d a m => 2080374790 + l.toNat * 33554432 + d.toNat * 1048576 + a.toNat * 32768 + m.toNat * 128
  | .vpMerge l d a b m => 2080374791 + l.toNat * 33554432 + d.toNat * 1048576 + a.toNat * 32768 + b.toNat * 1024 + m.toNat * 128
  | .vpRsum l d a b m => 2080374792 + l.toNat * 33554432 + d.toNat * 1048576 + a.toNat * 32768 + b.toNat * 1024 + m.toNat * 128
  | .vpRmax l d a b m => 2080374793 + l.toNat * 33554432 + d.toNat * 1048576 + a.toNat * 32768 + b.toNat * 1024 + m.toNat * 128
  | .vpRmin l d a b m => 2080374794 + l.toNat * 33554432 + d.toNat * 1048576 + a.toNat * 32768 + b.toNat * 1024 + m.toNat * 128
  | .vpRand l d a b m => 2080374795 + l.toNat * 33554432 + d.toNat * 1048576 + a.toNat * 32768 + b.toNat * 1024 + m.toNat * 128
  | .vpRor l d a b m => 2080374796 + l.toNat * 33554432 + d.toNat * 1048576 + a.toNat * 32768 + b.toNat * 1024 + m.toNat * 128
  | .vpFrsum l d a b m => 2080374797 + l.toNat * 33554432 + d.toNat * 1048576 + a.toNat * 32768 + b.toNat * 1024 + m.toNat * 128
  | .vpFrmax l d a b m => 2080374798 + l.toNat * 33554432 + d.toNat * 1048576 + a.toNat * 32768 + b.toNat * 1024 + m.toNat * 128
  | .vpFrmin l d a b m => 2080374799 + l.toNat * 33554432 + d.toNat * 1048576 + a.toNat * 32768 + b.toNat * 1024 + m.toNat * 128
  | .vpScan l d a b m => 2080374800 + l.toNat * 33554432 + d.toNat * 1048576 + a.toNat * 32768 + b.toNat * 1024 + m.toNat * 128
  | .vpFscan l d a b m => 2080374801 + l.toNat * 33554432 + d.toNat * 1048576 + a.toNat * 32768 + b.toNat * 1024 + m.toNat * 128
  | .vpMand l d a b => 2080374802 + l.toNat * 33554432 + d.toNat * 1048576 + a.toNat * 32768 + b.toNat * 1024
  | .vpMor l d a b => 2080374803 + l.toNat * 33554432 + d.toNat * 1048576 + a.toNat * 32768 + b.toNat * 1024
  | .vpMxor l d a b => 2080374804 + l.toNat * 33554432 + d.toNat * 1048576 + a.toNat * 32768 + b.toNat * 1024
  | .vpMnot l d a => 2080374805 + l.toNat * 33554432 + d.toNat * 1048576 + a.toNat * 32768
  | .vpMpop l d a => 2080374806 + l.toNat * 33554432 + d.toNat * 1048576 + a.toNat * 32768
  | .vpMffs l d a => 2080374807 + l.toNat * 33554432 + d.toNat * 1048576 + a.toNat * 32768
  | .vpMfirst l d a => 2080374808 + l.toNat * 33554432 + d.toNat * 1048576 + a.toNat * 32768
  | .vpBcast l d a b m => 2080374809 + l.toNat * 33554432 + d.toNat * 1048576 + a.toNat * 32768 + b.toNat * 1024 + m.toNat * 128
  | .vpExt l d a b => 2080374810 + l.toNat * 33554432 + d.toNat * 1048576 + a.toNat * 32768 + b.toNat * 1024
  | .vpInsrt l d a b => 2080374811 + l.toNat * 33554432 + d.toNat * 1048576 + a.toNat * 32768 + b.toNat * 1024
  | .vwWmac l d a b m => 2348810240 + l.toNat * 33554432 + d.toNat * 1048576 + a.toNat * 32768 + b.toNat * 1024 + m.toNat * 128
  | .vwWmacz l d a b m => 2348810241 + l.toNat * 33554432 + d.toNat * 1048576 + a.toNat * 32768 + b.toNat * 1024 + m.toNat * 128
  | .vwWmacsz l d a b m => 2348810242 + l.toNat * 33554432 + d.toNat * 1048576 + a.toNat * 32768 + b.toNat * 1024 + m.toNat * 128
  | .vwWadd l d a b m => 2348810243 + l.toNat * 33554432 + d.toNat * 1048576 + a.toNat * 32768 + b.toNat * 1024 + m.toNat * 128
  | .vwWaddz l d a b m => 2348810244 + l.toNat * 33554432 + d.toNat * 1048576 + a.toNat * 32768 + b.toNat * 1024 + m.toNat * 128
  | .vwWmul l d a b m => 2348810245 + l.toNat * 33554432 + d.toNat * 1048576 + a.toNat * 32768 + b.toNat * 1024 + m.toNat * 128
  | .vwNsat l d a m => 2348810246 + l.toNat * 33554432 + d.toNat * 1048576 + a.toNat * 32768 + m.toNat * 128
  | .vwNsatz l d a m => 2348810247 + l.toNat * 33554432 + d.toNat * 1048576 + a.toNat * 32768 + m.toNat * 128
  | .vwNrshr l d a i m => 2348810248 + l.toNat * 33554432 + d.toNat * 1048576 + a.toNat * 32768 + i.toNat * 1024 + m.toNat * 128
  | .vld l d a x m e n o => 2147483648 + l.toNat * 33554432 + d.toNat * 1048576 + a.toNat * 32768 + x.toNat * 1024 + m.toNat * 128 + e.code * 32 + n.toNat * 4 + o.code
  | .vst l d a x m e n o => 2214592512 + l.toNat * 33554432 + d.toNat * 1048576 + a.toNat * 32768 + x.toNat * 1024 + m.toNat * 128 + e.code * 32 + n.toNat * 4 + o.code
  | .vlkGl l d a x m => 2281701440 + l.toNat * 33554432 + d.toNat * 1048576 + a.toNat * 32768 + x.toNat * 1024 + m.toNat * 128
  | .vlkSc l d a x m => 2281701441 + l.toNat * 33554432 + d.toNat * 1048576 + a.toNat * 32768 + x.toNat * 1024 + m.toNat * 128
  | .mOn s => 2684354560 + s.toNat * 256
  | .mOff => 2684354561
  | .mZero c => 2684354562 + c.toNat * 8388608
  | .mOpa c a b => 2684354563 + c.toNat * 8388608 + a.toNat * 262144 + b.toNat * 8192
  | .mOps c a b => 2684354564 + c.toNat * 8388608 + a.toNat * 262144 + b.toNat * 8192
  | .mRdrow c a s => 2684354565 + c.toNat * 8388608 + a.toNat * 262144 + s.toNat * 256
  | .mWrrow c a s => 2684354566 + c.toNat * 8388608 + a.toNat * 262144 + s.toNat * 256
  | .mRdcol c a s => 2684354567 + c.toNat * 8388608 + a.toNat * 262144 + s.toNat * 256
  | .mSt c s => 2684354568 + c.toNat * 8388608 + s.toNat * 256
  | .mLd c s => 2684354569 + c.toNat * 8388608 + s.toNat * 256
  | .mLdtab t s => 2684354570 + t.toNat * 16777216 + s.toNat * 256
  | .mtMul t c a b s q => 2751463424 + t.toNat * 16777216 + c.toNat * 8388608 + a.toNat * 262144 + b.toNat * 8192 + s.toNat * 256 + q.toNat
  | .cCopy a b c t p => 3221225472 + a.toNat * 131072 + b.toNat * 4096 + c.toNat * 128 + t.toNat * 16 + p.toNat
  | .cGath a b c t p => 3225419776 + a.toNat * 131072 + b.toNat * 4096 + c.toNat * 128 + t.toNat * 16 + p.toNat
  | .cScat a b c t p => 3229614080 + a.toNat * 131072 + b.toNat * 4096 + c.toNat * 128 + t.toNat * 16 + p.toNat
  | .cXf a b c t p => 3233808384 + a.toNat * 131072 + b.toNat * 4096 + c.toNat * 128 + t.toNat * 16 + p.toNat
  | .cFill a b t p => 3238002688 + a.toNat * 131072 + b.toNat * 4096 + t.toNat * 16 + p.toNat
  | .cWait t => 3242196992 + t.toNat * 16
  | .cbSet a b => 3288334336 + a.toNat * 65536 + b.toNat * 2048
  | .cbArr b => 3288334337 + b.toNat * 2048
  | .cbWt b => 3288334338 + b.toNat * 2048
  | .cbArw b => 3288334339 + b.toNat * 2048
  | .cbSt d b => 3288334340 + d.toNat * 2097152 + b.toNat * 2048
  | .pBind d a => 3489660928 + d.toNat * 1048576 + a.toNat * 32768
  | .pApp d a b m => 3489660944 + d.toNat * 1048576 + a.toNat * 32768 + b.toNat * 1024 + m.toNat * 128
  | .pLd d a b m l => 3489660960 + d.toNat * 1048576 + a.toNat * 32768 + b.toNat * 1024 + m.toNat * 128 + l.toNat
  | .pLds d a b l => 3489660976 + d.toNat * 1048576 + a.toNat * 32768 + b.toNat * 1024 + l.toNat
  | .pInfo d a s => 3489660992 + d.toNat * 1048576 + a.toNat * 32768 + s.toNat
  | .pUnbind a => 3489661008 + a.toNat * 32768
  | .fColl d a => 3758096384 + d.toNat * 2097152 + a.toNat * 65536
  | .fWait a => 3758096385 + a.toNat * 65536
  | .fTest d a => 3758096386 + d.toNat * 2097152 + a.toNat * 65536
  | .wMark a b => 4026531840 + a.toNat * 65536 + b.toNat * 2048
  | .wInfo d => 4026531841 + d.toNat * 2097152
  | .hPf d a b => 4160749568 + d.toNat * 2097152 + a.toNat * 65536 + b.toNat * 2048
  | .hPfs d a b => 4160749569 + d.toNat * 2097152 + a.toNat * 65536 + b.toNat * 2048
  | .hNop d a b fn => 4160749568 + d.toNat * 2097152 + a.toNat * 65536 + b.toNat * 2048 + fn.toNat
  | .convoy _ => 0
  | .timerExpiry _ => 0
  | .interrupt _ => 0
  | .homeWriteAdmit _ _ => 0
  | .ringSpaceFreed _ _ => 0
  | .matrixGrant _ => 0
  | .engineRow _ _ => 0
  | .engineComplete _ _ => 0
  | .engineFault _ => 0
  | .launchFail _ _ _ => 0
  | .launchBind _ => 0
  | .bindNextWrite _ _ _ _ _ => 0
  | .bindWithdraw _ => 0
  | .bindAdvance _ => 0
  | .preloadCopyDone _ => 0
  | .budgetExpiry _ => 0
  | .reclaimWaitExpiry _ => 0
  | .markWaitExpiry _ _ => 0
  | .postReclaim _ _ => 0
  | .markRequest _ => 0
  | .clusterHalt _ => 0
  | .clusterHalted _ => 0
  | .cellarExchange _ => 0
  | .exchangeDone _ => 0
  | .discardShadow _ => 0
  | .clusterResume _ => 0
  | .launchResume _ _ => 0
  | .rollback _ _ => 0
  | .logEngineFault _ => 0
  | .debugStop _ => 0
  | .debugHalted _ => 0
  | .debugResume _ => 0
  | .debugRewind _ _ => 0
  | .debugReplay _ => 0
  | .replayCountReached _ => 0
  | .debugStepback _ _ => 0
  | .tlbInvalidate _ => 0
  | .invalidationDone _ => 0
  | .tableWalk _ _ => 0
  | .linkTagEvict _ => 0
  | .lineFill _ => 0
  | .lineWriteback _ => 0
  | .broadcastPacket _ => 0
  | .d2dLinkLost => 0
  | .channelFailure _ _ => 0
  | .declareChannelFailed _ _ => 0
  | .refresh _ _ => 0
  | .patrolScrub _ => 0
  | .rowRemap _ => 0
  | .remapDone _ => 0
  | .migrationStart _ => 0
  | .migrationPass _ => 0
  | .migrationFreeze _ => 0
  | .migrationMoved _ => 0
  | .migrationFree _ => 0
  | .errorCounterClear _ => 0
  | .pyramidAssign _ => 0
  | .pyramidSpanWrite _ _ _ => 0
  | .launchWindowWrite _ _ _ => 0
  | .lstatRead _ _ => 0
  | .jtailWrite _ _ => 0
  | .doorbellWrite _ _ => 0
  | .attestationRequest _ _ => 0
  | .attestationDone _ => 0
  | .registerWrite _ _ _ => 0
  | .hostMemRead _ _ => 0
  | .hostMemWrite _ _ => 0
  | .inboundRequest _ _ => 0
  | .peerReply _ _ => 0
  | .collectiveData _ _ => 0
  | .flitAck _ _ => 0
  | .portRetrain _ _ => 0
  | .portDown _ => 0
  | .linkUp _ _ => 0
  | .retrainRequest _ _ => 0
  | .collectiveFailedMsg _ _ => 0
  | .peerLostMsg _ _ => 0
  | .peerTimeout _ _ => 0
  | .collectiveComplete _ => 0
  | .collectiveFail _ _ _ => 0
  | .reset => 0
  | .lifecycleTransition _ => 0
  | .thermalStep _ => 0
  | .droopEvent _ => 0
  | .powerLimitStep => 0
  | .illegalInstruction _ _ _ => 0
  | .fetchFault _ _ => 0
  | .partitionConfigWrite _ _ _ => 0
  | .interruptMaskWrite _ _ => 0
  | .cxlCacheResponse _ _ => 0
  | .cxlSnoop _ => 0
  | .backInvalidateResponse _ => 0

/-- Whether the instruction is one word of the instruction set. -/
def Instr.isWord : Instr → Bool
  | .kNop => true
  | .kTrap _ => true
  | .kBrk => true
  | .kEret => true
  | .kWfi => true
  | .kEnd => true
  | .kClaim => true
  | .kFence _ _ => true
  | .kLaunch _ _ => true
  | .kEgress _ _ => true
  | .kYield _ => true
  | .kcRw _ _ _ => true
  | .kcRs _ _ _ => true
  | .kcRc _ _ _ => true
  | .kcR _ _ => true
  | .aAdd _ _ _ => true
  | .aSub _ _ _ => true
  | .aAnd _ _ _ => true
  | .aOr _ _ _ => true
  | .aXor _ _ _ => true
  | .aShl _ _ _ => true
  | .aShr _ _ _ => true
  | .aSra _ _ _ => true
  | .aSlt _ _ _ => true
  | .aSltz _ _ _ => true
  | .aMin _ _ _ => true
  | .aMax _ _ _ => true
  | .aMinz _ _ _ => true
  | .aMaxz _ _ _ => true
  | .aMul _ _ _ => true
  | .aMulh _ _ _ => true
  | .aMulhz _ _ _ => true
  | .aDiv _ _ _ => true
  | .aDivz _ _ _ => true
  | .aRem _ _ _ => true
  | .aRemz _ _ _ => true
  | .aClz _ _ => true
  | .aCtz _ _ => true
  | .aPop _ _ => true
  | .aAddw _ _ _ => true
  | .aSubw _ _ _ => true
  | .aSext _ _ _ => true
  | .aZext _ _ _ => true
  | .sAdd _ _ _ => true
  | .sSub _ _ _ => true
  | .sAnd _ _ _ => true
  | .sOr _ _ _ => true
  | .sXor _ _ _ => true
  | .sShl _ _ _ => true
  | .sShr _ _ _ => true
  | .sSra _ _ _ => true
  | .sSlt _ _ _ => true
  | .sSltz _ _ _ => true
  | .sMin _ _ _ => true
  | .sMax _ _ _ => true
  | .sMinz _ _ _ => true
  | .sMaxz _ _ _ => true
  | .sMul _ _ _ => true
  | .sMulh _ _ _ => true
  | .sMulhz _ _ _ => true
  | .sDiv _ _ _ => true
  | .sDivz _ _ _ => true
  | .sRem _ _ _ => true
  | .sRemz _ _ _ => true
  | .sClz _ _ => true
  | .sCtz _ _ => true
  | .sPop _ _ => true
  | .sAddw _ _ _ => true
  | .sSubw _ _ _ => true
  | .sSext _ _ _ => true
  | .sZext _ _ _ => true
  | .sBqeq _ _ => true
  | .sBqne _ _ => true
  | .sBqlt _ _ => true
  | .sBqge _ _ => true
  | .sBqltz _ _ => true
  | .sBqgez _ _ => true
  | .aiAdd _ _ _ => true
  | .aiAnd _ _ _ => true
  | .aiOr _ _ _ => true
  | .aiXor _ _ _ => true
  | .aiShl _ _ _ => true
  | .aiShr _ _ _ => true
  | .aiSra _ _ _ => true
  | .aiSlt _ _ _ => true
  | .aiSltz _ _ _ => true
  | .aiMul _ _ _ => true
  | .siAdd _ _ _ => true
  | .siAnd _ _ _ => true
  | .siOr _ _ _ => true
  | .siXor _ _ _ => true
  | .siShl _ _ _ => true
  | .siShr _ _ _ => true
  | .siSra _ _ _ => true
  | .siSlt _ _ _ => true
  | .siSltz _ _ _ => true
  | .siMul _ _ _ => true
  | .ins _ _ _ _ => true
  | .ld _ _ _ _ _ _ => true
  | .st _ _ _ _ _ _ => true
  | .lkLl _ _ => true
  | .lkSc _ _ _ => true
  | .lkLl32 _ _ => true
  | .lkSc32 _ _ _ => true
  | .bEq _ _ _ _ => true
  | .bNe _ _ _ _ => true
  | .bLt _ _ _ _ => true
  | .bGe _ _ _ _ => true
  | .bLtz _ _ _ _ => true
  | .bGez _ _ _ _ => true
  | .bqT _ _ => true
  | .bqF _ _ => true
  | .j _ _ => true
  | .jal _ _ => true
  | .jr _ _ => true
  | .xStoa _ => true
  | .xAfroms _ => true
  | .xAtoe _ => true
  | .xSfrome _ => true
  | .xSpush _ => true
  | .xDrain _ => true
  | .sfAdd _ _ _ _ => true
  | .sfSub _ _ _ _ => true
  | .sfMul _ _ _ _ => true
  | .sfDiv _ _ _ _ => true
  | .sfSqrt _ _ _ => true
  | .sfMin _ _ _ _ => true
  | .sfMax _ _ _ _ => true
  | .sfFma _ _ _ _ => true
  | .sfCvfi _ _ _ => true
  | .sfCvif _ _ _ => true
  | .sfCvff _ _ _ => true
  | .sfLt _ _ _ _ => true
  | .sfEq _ _ _ _ => true
  | .sfLe _ _ _ _ => true
  | .vcSetvl _ _ _ => true
  | .vcSetvlmax _ _ => true
  | .vAdd _ _ _ _ _ => true
  | .vSub _ _ _ _ _ => true
  | .vRsub _ _ _ _ _ => true
  | .vMul _ _ _ _ _ => true
  | .vMulh _ _ _ _ _ => true
  | .vMulhz _ _ _ _ _ => true
  | .vMac _ _ _ _ _ => true
  | .vNmac _ _ _ _ _ => true
  | .vAnd _ _ _ _ _ => true
  | .vOr _ _ _ _ _ => true
  | .vXor _ _ _ _ _ => true
  | .vShl _ _ _ _ _ => true
  | .vShr _ _ _ _ _ => true
  | .vSra _ _ _ _ _ => true
  | .vRshr _ _ _ _ _ => true
  | .vRshre _ _ _ _ _ => true
  | .vMin _ _ _ _ _ => true
  | .vMax _ _ _ _ _ => true
  | .vMinz _ _ _ _ _ => true
  | .vMaxz _ _ _ _ _ => true
  | .vAbs _ _ _ _ => true
  | .vAvg _ _ _ _ _ => true
  | .vDiv _ _ _ _ _ => true
  | .vDivz _ _ _ _ _ => true
  | .vRem _ _ _ _ _ => true
  | .vRemz _ _ _ _ _ => true
  | .vCmpeq _ _ _ _ _ => true
  | .vCmpne _ _ _ _ _ => true
  | .vCmplt _ _ _ _ _ => true
  | .vCmple _ _ _ _ _ => true
  | .vCmpltz _ _ _ _ _ => true
  | .vCmplez _ _ _ _ _ => true
  | .vSel _ _ _ _ _ => true
  | .vMv _ _ _ _ => true
  | .vClz _ _ _ _ => true
  | .vPop _ _ _ _ => true
  | .vsAdd _ _ _ _ _ => true
  | .vsSub _ _ _ _ _ => true
  | .vsRsub _ _ _ _ _ => true
  | .vsMul _ _ _ _ _ => true
  | .vsMulh _ _ _ _ _ => true
  | .vsMulhz _ _ _ _ _ => true
  | .vsMac _ _ _ _ _ => true
  | .vsNmac _ _ _ _ _ => true
  | .vsAnd _ _ _ _ _ => true
  | .vsOr _ _ _ _ _ => true
  | .vsXor _ _ _ _ _ => true
  | .vsShl _ _ _ _ _ => true
  | .vsShr _ _ _ _ _ => true
  | .vsSra _ _ _ _ _ => true
  | .vsRshr _ _ _ _ _ => true
  | .vsRshre _ _ _ _ _ => true
  | .vsMin _ _ _ _ _ => true
  | .vsMax _ _ _ _ _ => true
  | .vsMinz _ _ _ _ _ => true
  | .vsMaxz _ _ _ _ _ => true
  | .vsAvg _ _ _ _ _ => true
  | .vsDiv _ _ _ _ _ => true
  | .vsDivz _ _ _ _ _ => true
  | .vsRem _ _ _ _ _ => true
  | .vsRemz _ _ _ _ _ => true
  | .vsCmpeq _ _ _ _ _ => true
  | .vsCmpne _ _ _ _ _ => true
  | .vsCmplt _ _ _ _ _ => true
  | .vsCmple _ _ _ _ _ => true
  | .vsCmpltz _ _ _ _ _ => true
  | .vsCmplez _ _ _ _ _ => true
  | .vsSel _ _ _ _ _ => true
  | .vsMv _ _ _ _ => true
  | .viAdd _ _ _ _ _ => true
  | .viSub _ _ _ _ _ => true
  | .viRsub _ _ _ _ _ => true
  | .viMul _ _ _ _ _ => true
  | .viMulh _ _ _ _ _ => true
  | .viMulhz _ _ _ _ _ => true
  | .viMac _ _ _ _ _ => true
  | .viNmac _ _ _ _ _ => true
  | .viAnd _ _ _ _ _ => true
  | .viOr _ _ _ _ _ => true
  | .viXor _ _ _ _ _ => true
  | .viShl _ _ _ _ _ => true
  | .viShr _ _ _ _ _ => true
  | .viSra _ _ _ _ _ => true
  | .viRshr _ _ _ _ _ => true
  | .viRshre _ _ _ _ _ => true
  | .viMin _ _ _ _ _ => true
  | .viMax _ _ _ _ _ => true
  | .viMinz _ _ _ _ _ => true
  | .viMaxz _ _ _ _ _ => true
  | .viAvg _ _ _ _ _ => true
  | .viDiv _ _ _ _ _ => true
  | .viDivz _ _ _ _ _ => true
  | .viRem _ _ _ _ _ => true
  | .viRemz _ _ _ _ _ => true
  | .viCmpeq _ _ _ _ _ => true
  | .viCmpne _ _ _ _ _ => true
  | .viCmplt _ _ _ _ _ => true
  | .viCmple _ _ _ _ _ => true
  | .viCmpltz _ _ _ _ _ => true
  | .viCmplez _ _ _ _ _ => true
  | .viSel _ _ _ _ _ => true
  | .viMv _ _ _ _ => true
  | .vfAdd _ _ _ _ _ => true
  | .vfSub _ _ _ _ _ => true
  | .vfMul _ _ _ _ _ => true
  | .vfDiv _ _ _ _ _ => true
  | .vfFma _ _ _ _ _ => true
  | .vfFms _ _ _ _ _ => true
  | .vfFnma _ _ _ _ _ => true
  | .vfMin _ _ _ _ _ => true
  | .vfMax _ _ _ _ _ => true
  | .vfAbs _ _ _ _ => true
  | .vfNeg _ _ _ _ => true
  | .vfSqrt _ _ _ _ => true
  | .vfRcpe _ _ _ _ => true
  | .vfRsqe _ _ _ _ => true
  | .vfExp2 _ _ _ _ => true
  | .vfCmpeq _ _ _ _ _ => true
  | .vfCmplt _ _ _ _ _ => true
  | .vfCmple _ _ _ _ _ => true
  | .vfClass _ _ _ _ => true
  | .vfSgnj _ _ _ _ _ => true
  | .vfMaxm _ _ _ _ _ => true
  | .vfsAdd _ _ _ _ _ => true
  | .vfsSub _ _ _ _ _ => true
  | .vfsMul _ _ _ _ _ => true
  | .vfsDiv _ _ _ _ _ => true
  | .vfsFma _ _ _ _ _ => true
  | .vfsFms _ _ _ _ _ => true
  | .vfsFnma _ _ _ _ _ => true
  | .vfsMin _ _ _ _ _ => true
  | .vfsMax _ _ _ _ _ => true
  | .vfsCmpeq _ _ _ _ _ => true
  | .vfsCmplt _ _ _ _ _ => true
  | .vfsCmple _ _ _ _ _ => true
  | .vfsSgnj _ _ _ _ _ => true
  | .vfsMaxm _ _ _ _ _ => true
  | .vcvCvt _ _ _ _ => true
  | .vcvCvts _ _ _ _ => true
  | .vcvQnt _ _ _ _ _ => true
  | .vcvHad _ _ _ _ _ => true
  | .vcvHash _ _ _ _ _ => true
  | .vcvIota _ _ _ _ => true
  | .vpSlup _ _ _ _ _ => true
  | .vpSldn _ _ _ _ _ => true
  | .vpRgat _ _ _ _ _ => true
  | .vpCmpr _ _ _ _ => true
  | .vpExpd _ _ _ _ => true
  | .vpXchg _ _ _ _ _ => true
  | .vpSort _ _ _ _ => true
  | .vpMerge _ _ _ _ _ => true
  | .vpRsum _ _ _ _ _ => true
  | .vpRmax _ _ _ _ _ => true
  | .vpRmin _ _ _ _ _ => true
  | .vpRand _ _ _ _ _ => true
  | .vpRor _ _ _ _ _ => true
  | .vpFrsum _ _ _ _ _ => true
  | .vpFrmax _ _ _ _ _ => true
  | .vpFrmin _ _ _ _ _ => true
  | .vpScan _ _ _ _ _ => true
  | .vpFscan _ _ _ _ _ => true
  | .vpMand _ _ _ _ => true
  | .vpMor _ _ _ _ => true
  | .vpMxor _ _ _ _ => true
  | .vpMnot _ _ _ => true
  | .vpMpop _ _ _ => true
  | .vpMffs _ _ _ => true
  | .vpMfirst _ _ _ => true
  | .vpBcast _ _ _ _ _ => true
  | .vpExt _ _ _ _ => true
  | .vpInsrt _ _ _ _ => true
  | .vwWmac _ _ _ _ _ => true
  | .vwWmacz _ _ _ _ _ => true
  | .vwWmacsz _ _ _ _ _ => true
  | .vwWadd _ _ _ _ _ => true
  | .vwWaddz _ _ _ _ _ => true
  | .vwWmul _ _ _ _ _ => true
  | .vwNsat _ _ _ _ => true
  | .vwNsatz _ _ _ _ => true
  | .vwNrshr _ _ _ _ _ => true
  | .vld _ _ _ _ _ _ _ _ => true
  | .vst _ _ _ _ _ _ _ _ => true
  | .vlkGl _ _ _ _ _ => true
  | .vlkSc _ _ _ _ _ => true
  | .mOn _ => true
  | .mOff => true
  | .mZero _ => true
  | .mOpa _ _ _ => true
  | .mOps _ _ _ => true
  | .mRdrow _ _ _ => true
  | .mWrrow _ _ _ => true
  | .mRdcol _ _ _ => true
  | .mSt _ _ => true
  | .mLd _ _ => true
  | .mLdtab _ _ => true
  | .mtMul _ _ _ _ _ _ => true
  | .cCopy _ _ _ _ _ => true
  | .cGath _ _ _ _ _ => true
  | .cScat _ _ _ _ _ => true
  | .cXf _ _ _ _ _ => true
  | .cFill _ _ _ _ => true
  | .cWait _ => true
  | .cbSet _ _ => true
  | .cbArr _ => true
  | .cbWt _ => true
  | .cbArw _ => true
  | .cbSt _ _ => true
  | .pBind _ _ => true
  | .pApp _ _ _ _ => true
  | .pLd _ _ _ _ _ => true
  | .pLds _ _ _ _ => true
  | .pInfo _ _ _ => true
  | .pUnbind _ => true
  | .fColl _ _ => true
  | .fWait _ => true
  | .fTest _ _ => true
  | .wMark _ _ => true
  | .wInfo _ => true
  | .hPf _ _ _ => true
  | .hPfs _ _ _ => true
  | .hNop _ _ _ _ => true
  | .convoy _ => false
  | .timerExpiry _ => false
  | .interrupt _ => false
  | .homeWriteAdmit _ _ => false
  | .ringSpaceFreed _ _ => false
  | .matrixGrant _ => false
  | .engineRow _ _ => false
  | .engineComplete _ _ => false
  | .engineFault _ => false
  | .launchFail _ _ _ => false
  | .launchBind _ => false
  | .bindNextWrite _ _ _ _ _ => false
  | .bindWithdraw _ => false
  | .bindAdvance _ => false
  | .preloadCopyDone _ => false
  | .budgetExpiry _ => false
  | .reclaimWaitExpiry _ => false
  | .markWaitExpiry _ _ => false
  | .postReclaim _ _ => false
  | .markRequest _ => false
  | .clusterHalt _ => false
  | .clusterHalted _ => false
  | .cellarExchange _ => false
  | .exchangeDone _ => false
  | .discardShadow _ => false
  | .clusterResume _ => false
  | .launchResume _ _ => false
  | .rollback _ _ => false
  | .logEngineFault _ => false
  | .debugStop _ => false
  | .debugHalted _ => false
  | .debugResume _ => false
  | .debugRewind _ _ => false
  | .debugReplay _ => false
  | .replayCountReached _ => false
  | .debugStepback _ _ => false
  | .tlbInvalidate _ => false
  | .invalidationDone _ => false
  | .tableWalk _ _ => false
  | .linkTagEvict _ => false
  | .lineFill _ => false
  | .lineWriteback _ => false
  | .broadcastPacket _ => false
  | .d2dLinkLost => false
  | .channelFailure _ _ => false
  | .declareChannelFailed _ _ => false
  | .refresh _ _ => false
  | .patrolScrub _ => false
  | .rowRemap _ => false
  | .remapDone _ => false
  | .migrationStart _ => false
  | .migrationPass _ => false
  | .migrationFreeze _ => false
  | .migrationMoved _ => false
  | .migrationFree _ => false
  | .errorCounterClear _ => false
  | .pyramidAssign _ => false
  | .pyramidSpanWrite _ _ _ => false
  | .launchWindowWrite _ _ _ => false
  | .lstatRead _ _ => false
  | .jtailWrite _ _ => false
  | .doorbellWrite _ _ => false
  | .attestationRequest _ _ => false
  | .attestationDone _ => false
  | .registerWrite _ _ _ => false
  | .hostMemRead _ _ => false
  | .hostMemWrite _ _ => false
  | .inboundRequest _ _ => false
  | .peerReply _ _ => false
  | .collectiveData _ _ => false
  | .flitAck _ _ => false
  | .portRetrain _ _ => false
  | .portDown _ => false
  | .linkUp _ _ => false
  | .retrainRequest _ _ => false
  | .collectiveFailedMsg _ _ => false
  | .peerLostMsg _ _ => false
  | .peerTimeout _ _ => false
  | .collectiveComplete _ => false
  | .collectiveFail _ _ _ => false
  | .reset => false
  | .lifecycleTransition _ => false
  | .thermalStep _ => false
  | .droopEvent _ => false
  | .powerLimitStep => false
  | .illegalInstruction _ _ _ => false
  | .fetchFault _ _ => false
  | .partitionConfigWrite _ _ _ => false
  | .interruptMaskWrite _ _ => false
  | .cxlCacheResponse _ _ => false
  | .cxlSnoop _ => false
  | .backInvalidateResponse _ => false

/-- The word of an instruction that is one (R29). -/
def Instr.encodeWord (i : Instr) : IWord := BitVec.ofNat 32 i.encodeNat

/-- The words of a convoy: every word but the last carries the link bit (R33). -/
noncomputable def encodeConvoy : List CWord → List IWord
  | [] => []
  | [c] => [(c.toInstr false).encodeWord]
  | c :: d :: rest => (c.toInstr true).encodeWord :: encodeConvoy (d :: rest)

/-- The words of an instruction: one, those of a convoy, or none for an event. -/
noncomputable def Instr.encode (i : Instr) : List IWord :=
  match i with
  | .convoy ws => encodeConvoy ws
  | i => if i.isWord then [i.encodeWord] else []

/-- The four bytes of a word, little-endian (R24). -/
def wordBytes (w : IWord) : List Byte :=
  [BitVec.ofNat 8 w.toNat, BitVec.ofNat 8 (w.toNat / 256), BitVec.ofNat 8 (w.toNat / 65536),
    BitVec.ofNat 8 (w.toNat / 16777216)]

/-- A word from its four bytes, little-endian (R24). -/
def wordOfBytes (b0 b1 b2 b3 : Byte) : IWord :=
  BitVec.ofNat 32 (b0.toNat + 256 * b1.toNat + 65536 * b2.toNat + 16777216 * b3.toNat)

/-- The instruction of a table row whose first `nbits` bits are `w`: its word goes through the bytes as
memory holds them. Every row has at most one word of 32 bits. -/
noncomputable def decodeTableWord (_nbits w : Nat) : Option Instr :=
  match wordBytes (BitVec.ofNat 32 w) with
  | [b0, b1, b2, b3] => decodeWord (wordOfBytes b0 b1 b2 b3)
  | _ => none

end Sys2Proof
end

