-- ==== Sys2Proof/Config.lean ====
section
/-!
DEFINITION. Sys2Proof/Config.lean: what the spec leaves to one package or leaves open. Each constant has no
body: a statement about the model holds whatever its value (notes/assumptions rows 2, 12, 13).
-/

namespace Sys2Proof.Config

/-- The choice among agents that may act next, by the model's step counter (log 2). -/
opaque schedule : Nat → Nat

/-- Whether the next hardware error strikes in a step, by the step counter (log 115). -/
opaque strikes : Nat → Bool

/-- Cycles that pass in a step, by the step counter (log 12). -/
opaque cycles : Nat → Nat

/-- Cycles a stall counter gains in a step: by the step counter and the counter's number (R188, log 12). -/
opaque stall : Nat → Nat → Nat

/-- Timing fields of a sampled record, by the step counter and the field (R233, log 12). -/
opaque timing : Nat → Nat → Nat

/-- A value the spec leaves open, by the step counter and the place in the result (log 13). -/
opaque freeByte : Nat → Nat → Byte

/-- The 64-bit device id (R393). -/
opaque deviceId : Word

/-- The 32 bytes of the device mark key (R395), by index. -/
opaque markKey : Nat → Byte

/-- The device attestation key, an SLH-DSA-SHAKE-256f private key (R393): the bytes of its secret seed, of its message key and of its
public seed, 32 each, by part and index. -/
opaque attKey : Nat → Nat → Byte

/-- The randomiser of a signature made in a step, by the step counter and the index (R393). -/
opaque signRand : Nat → Nat → Byte

/-- What the boot flash holds for a boot: slot 0 at twice the step counter, slot 1 after it (R391). -/
opaque flash : Nat → List Byte
/-- The fused hash of the key that signs images, by index (R391). -/
opaque keyHash : Nat → Byte
/-- The fused counter below which no image's security version may lie (R391). -/
opaque fusedSvn : Nat

/-- The island that a thermal monitor watches (R398, log 10). -/
opaque islandOf : Nat → Nat
/-- What a sensor reads in a step: thermal monitors by number, 128 the averaged power, process monitors from 129
on (R398, log 10). -/
opaque sensor : Nat → Nat → Nat

end Sys2Proof.Config
end

