-- ==== Sys2Proof/Machine/FMap.lean ====
section
/-!
DEFINITION. Sys2Proof/Machine/FMap.lean: sparse contents by number, as lists of key and value with keys
strictly rising. Register files, memories and tables of the K9 are held so: what is not listed reads as the
default the reader names (for storage, zero: R391, R392).
-/

namespace Sys2Proof.Machine

/-- Sparse contents: keys strictly rising. -/
abbrev FMap (α : Type) := List (Nat × α)

/-- The listed entry of a key: the first, in a map whose keys rise the only one. -/
def FMap.find? {α : Type} : FMap α → Nat → Option α
  | [], _ => none
  | (k, v) :: rest, x => if x = k then some v else FMap.find? rest x

/-- What a key reads as: its entry, or the default. -/
def FMap.get {α : Type} (d : α) (m : FMap α) (x : Nat) : α := (FMap.find? m x).getD d

/-- Lists an entry, replacing the one of its key. -/
def FMap.put {α : Type} : FMap α → Nat → α → FMap α
  | [], x, v => [(x, v)]
  | (k, w) :: rest, x, v =>
    if x = k then (k, v) :: rest
    else if x < k then (x, v) :: (k, w) :: rest
    else (k, w) :: FMap.put rest x v

/-- Takes a key off the list. -/
def FMap.erase {α : Type} (m : FMap α) (x : Nat) : FMap α := m.filter fun e => e.1 != x

/-- Writes a key in canonical form: the default is never listed. -/
def FMap.set {α : Type} [DecidableEq α] (d : α) (m : FMap α) (x : Nat) (v : α) : FMap α :=
  if v = d then FMap.erase m x else FMap.put m x v

/-- Takes every entry whose key fails the test off the list. -/
def FMap.keep {α : Type} (m : FMap α) (p : Nat → Bool) : FMap α := m.filter fun e => p e.1

/-- Changes every entry, keeping its key. -/
def FMap.mapVals {α : Type} (m : FMap α) (f : Nat → α → α) : FMap α := m.map fun e => (e.1, f e.1 e.2)

/-- The keys whose entries pass a test, ascending. -/
def FMap.keysWhere {α : Type} (m : FMap α) (p : Nat → α → Bool) : List Nat :=
  m.filterMap fun e => if p e.1 e.2 then some e.1 else none

/-- The first entry that passes a test. -/
def FMap.firstWhere {α : Type} (m : FMap α) (p : Nat → α → Bool) : Option (Nat × α) := List.find? (fun e => p e.1 e.2) m

/-- Keys strictly rising, the first above `lo`. -/
def FMap.rising {α : Type} : Option Nat → FMap α → Bool
  | _, [] => true
  | lo, (k, _) :: rest => (match lo with | none => true | some l => decide (l < k)) && FMap.rising (some k) rest

/-- Canonical form: keys strictly rising and no entry equal to the default. -/
def FMap.wf {α : Type} [DecidableEq α] (d : α) (m : FMap α) : Bool :=
  FMap.rising none m && m.all fun e => decide (e.2 ≠ d)

end Sys2Proof.Machine
end

