-- ==== Sys2Proof/Machine/Fp.lean ====
section
/-!
DEFINITION. Sys2Proof/Machine/Fp.lean: number formats, rounding and the floating operations
(04_numbers.md R90 to R106, R111 to R114). A finite value is an exact dyadic number; an operation whose
exact result is not dyadic hands `roundTo` its leading bits and says that more follow (`sticky`).
-/

namespace Sys2Proof.Machine

open Sys2Proof

/-- Sticky flags in the layout of FFLAGS[6:0] (R99). -/
abbrev FFlags := BitVec 7

/-- Flag nv. -/
def fNV : FFlags := 1
/-- Flag dz. -/
def fDZ : FFlags := 2
/-- Flag of. -/
def fOF : FFlags := 4
/-- Flag uf. -/
def fUF : FFlags := 8
/-- Flag nx. -/
def fNX : FFlags := 16
/-- Flag sat. -/
def fSAT : FFlags := 32
/-- Flag ifl. -/
def fIFL : FFlags := 64

/-- Rounding modes (R97). -/
inductive RMode | rne | rtz | rdn | rup | rna
deriving DecidableEq, Repr

/-- What a unit samples of FCTL at its issue (R97). -/
structure FCtl where
  mode : RMode
  flushIn : Bool
  flushOut : Bool
  sat : Bool
deriving DecidableEq, Repr

/-- FCTL as the units sample it (R97). -/
def FCtl.of (w : Word) : FCtl where
  mode := match w.toNat % 8 with
    | 1 => .rtz | 2 => .rdn | 3 => .rup | 4 => .rna | _ => .rne
  flushIn := w.getLsbD 3
  flushOut := w.getLsbD 4
  sat := w.getLsbD 5

/-- The control of the units that ignore FCTL: nearest even, nothing flushed (R109, R353, R418). -/
def FCtl.rne : FCtl := ⟨.rne, false, false, false⟩

/-- An element format (R90): an integer of 2^lg bits, an IEEE format, a member of the binary8 family. -/
inductive Fmt
  | int (signed : Bool) (lg : Nat)
  | ieee (k : FpFmt)
  | b8 (unsigned infs : Bool) (p : Nat)
deriving DecidableEq, Repr

/-- The format of a code; none for a reserved one, 0xFF among them (R90, R91). -/
def Fmt.ofCode (c : Byte) : Option Fmt :=
  let n := c.toNat
  match n / 64 with
  | 0 => if n / 8 % 4 = 0 ∧ 3 ≤ n % 8 ∧ n % 8 ≤ 6 then some (.int (n / 32 % 2 == 1) (n % 8)) else none
  | 1 => if n / 8 % 8 = 0 then
      (match n % 8 with
       | 0 => some (.ieee .h) | 1 => some (.ieee .bf) | 2 => some (.ieee .f32) | 3 => some (.ieee .f64)
       | _ => none)
    else none
  | 2 => if n / 8 % 2 = 0 ∧ n % 8 ≠ 0 then some (.b8 (n / 32 % 2 == 1) (n / 16 % 2 == 1) (n % 8)) else none
  | _ => none

/-- Width in bits. -/
def Fmt.width : Fmt → Nat
  | .int _ lg => 2 ^ lg
  | .ieee .h => 16 | .ieee .bf => 16 | .ieee .f32 => 32 | .ieee .f64 => 64
  | .b8 _ _ _ => 8

/-- Width in bytes. -/
def Fmt.bytes (f : Fmt) : Nat := f.width / 8

/-- Whether the class is integer. -/
def Fmt.isInt : Fmt → Bool
  | .int _ _ => true | .ieee _ => false | .b8 _ _ _ => false

/-- Whether the class is IEEE. -/
def Fmt.isIeee : Fmt → Bool
  | .ieee _ => true | .int _ _ => false | .b8 _ _ _ => false

/-- Whether the class is binary8. -/
def Fmt.isB8 : Fmt → Bool
  | .b8 _ _ _ => true | .int _ _ => false | .ieee _ => false

/-- Whether an integer format is signed: bit 5 of its code (R90). -/
def Fmt.signed : Fmt → Bool
  | .int s _ => s | .ieee _ => false | .b8 _ _ _ => false

/-- Significand width with the hidden bit (R98). -/
def Fmt.prec : Fmt → Nat
  | .ieee .h => 11 | .ieee .bf => 8 | .ieee .f32 => 24 | .ieee .f64 => 53
  | .b8 _ _ p => p
  | .int _ _ => 1

/-- Exponent bias (R94, R95). -/
def Fmt.bias : Fmt → Int
  | .ieee .h => 15 | .ieee .bf => 127 | .ieee .f32 => 127 | .ieee .f64 => 1023
  | .b8 false _ p => (2 ^ (7 - p) : Nat)
  | .b8 true _ p => (2 ^ (8 - p) : Nat)
  | .int _ _ => 0

/-- Exponent of the smallest normal (R98). -/
def Fmt.emin (f : Fmt) : Int := 1 - f.bias

/-- A number, as an operation sees it: a NaN and whether it signals, an infinity, or the exact value
(-1)^neg * m * 2^e, a signed zero when m is 0. -/
inductive FpVal
  | nan (sig : Bool)
  | inf (neg : Bool)
  | fin (neg : Bool) (m : Nat) (e : Int)
deriving DecidableEq, Repr

/-- The canonical NaN of a format (R94, R98). -/
def Fmt.nanBits : Fmt → Nat
  | .ieee .h => 0x7E00 | .ieee .bf => 0x7FC0 | .ieee .f32 => 0x7FC00000 | .ieee .f64 => 0x7FF8000000000000
  | .b8 false _ _ => 0x80
  | .b8 true _ _ => 0xFF
  | .int _ _ => 0

/-- Number of trailing significand bits. -/
def Fmt.tbits (f : Fmt) : Nat := f.prec - 1

/-- An IEEE bit pattern as a number (R94). -/
def decodeIeee (k : FpFmt) (bits : Nat) : FpVal :=
  let f : Fmt := .ieee k
  let t := f.tbits
  let eb := f.width - 1 - t
  let neg := bits / 2 ^ (f.width - 1) % 2 == 1
  let ex := bits / 2 ^ t % 2 ^ eb
  let fr := bits % 2 ^ t
  if ex = 2 ^ eb - 1 then
    if fr = 0 then .inf neg else .nan (fr / 2 ^ (t - 1) % 2 == 0)
  else if ex = 0 then .fin neg fr (f.emin - (t : Int))
  else .fin neg (2 ^ t + fr) ((ex : Int) - f.bias - (t : Int))

/-- A binary8 code as a number (R95). -/
def decodeB8 (uns infs : Bool) (p c : Nat) : FpVal :=
  let f : Fmt := .b8 uns infs p
  if c = 0 then .fin false 0 0
  else if c = 0x80 && !uns then .nan false
  else if c = 0xFF && uns then .nan false
  else if c = 0x7F && !uns && infs then .inf false
  else if c = 0xFF && !uns && infs then .inf true
  else if c = 0xFE && uns && infs then .inf false
  else
    let neg := !uns && c / 128 % 2 == 1
    let body := if uns then c else c % 128
    let e := body / 2 ^ (p - 1)
    let t := body % 2 ^ (p - 1)
    if e = 0 then .fin neg t (f.emin - ((p - 1 : Nat) : Int))
    else .fin neg (2 ^ (p - 1) + t) ((e : Int) - f.bias - ((p - 1 : Nat) : Int))

/-- An element as a number; an integer element is its value (R95, R106). -/
def Fmt.decode (f : Fmt) (bits : Nat) : FpVal :=
  match f with
  | .int s lg =>
    let w := 2 ^ lg
    let n := bits % 2 ^ w
    if s && n / 2 ^ (w - 1) % 2 == 1 then .fin true (2 ^ w - n) 0 else .fin false n 0
  | .ieee k => decodeIeee k bits
  | .b8 u i p => decodeB8 u i p (bits % 256)

/-- The bit pattern of the largest finite value, without its sign (R96). -/
def Fmt.maxBits : Fmt → Nat
  | .ieee .h => 0x7BFF | .ieee .bf => 0x7F7F | .ieee .f32 => 0x7F7FFFFF | .ieee .f64 => 0x7FEFFFFFFFFFFFFF
  | .b8 false false _ => 0x7F
  | .b8 false true _ => 0x7E
  | .b8 true false _ => 0xFE
  | .b8 true true _ => 0xFD
  | .int _ _ => 0

/-- Whether a format has infinities (R95). -/
def Fmt.hasInf : Fmt → Bool
  | .ieee _ => true
  | .b8 _ i _ => i
  | .int _ _ => false

/-- The sign bit of a negative number, where the format has one. -/
def Fmt.signBits (f : Fmt) (neg : Bool) : Nat :=
  match f with
  | .ieee _ => if neg then 2 ^ (f.width - 1) else 0
  | .b8 false _ _ => if neg then 128 else 0
  | .b8 true _ _ => 0
  | .int _ _ => 0

/-- The bit pattern of an infinity. -/
def Fmt.infBits (f : Fmt) (neg : Bool) : Nat :=
  match f with
  | .ieee .h => 0x7C00 + f.signBits neg
  | .ieee .bf => 0x7F80 + f.signBits neg
  | .ieee .f32 => 0x7F800000 + f.signBits neg
  | .ieee .f64 => 0x7FF0000000000000 + f.signBits neg
  | .b8 false _ _ => 0x7F + f.signBits neg
  | .b8 true _ _ => 0xFE
  | .int _ _ => 0

/-- The bit pattern of a zero; the binary8 family has no negative one (R95). -/
def Fmt.zeroBits (f : Fmt) (neg : Bool) : Nat :=
  match f with
  | .ieee _ => f.signBits neg
  | .b8 _ _ _ => 0
  | .int _ _ => 0

/-- `m * 2^e` against `m' * 2^e'`: whether the first is the larger. -/
def dyGt (m : Nat) (e : Int) (m' : Nat) (e' : Int) : Bool :=
  if e' ≤ e then decide (m' < m * 2 ^ (e - e').toNat) else decide (m' * 2 ^ (e' - e).toNat < m)

/-- Whether the mode rounds the magnitude up, given the discarded part against one half, whether anything was
discarded, and whether the kept part is odd (R98). -/
def roundsUp (mode : RMode) (neg : Bool) (cmpHalf : Ordering) (inexact odd : Bool) : Bool :=
  match mode with
  | .rne => match cmpHalf with | .gt => true | .eq => odd | .lt => false
  | .rna => match cmpHalf with | .lt => false | .eq => true | .gt => true
  | .rtz => false
  | .rdn => inexact && neg
  | .rup => inexact && !neg

/-- The nearest kept integer and whether anything was discarded, for |x| = (m + less than 1 when sticky)
scaled down by 2^sh (R98). -/
def roundShift (mode : RMode) (neg : Bool) (m : Nat) (sticky : Bool) (sh : Int) : Nat × Bool :=
  if sh ≤ 0 then (m * 2 ^ (-sh).toNat + (if roundsUp mode neg .lt sticky (m % 2 == 1) then 1 else 0), sticky)
  else
    let k := sh.toNat
    let n := m / 2 ^ k
    let r := m % 2 ^ k
    let h := 2 ^ (k - 1)
    let c : Ordering := if r < h then .lt else if h < r then .gt else if sticky then .gt else .eq
    let inexact := sticky || r != 0
    (n + (if roundsUp mode neg c inexact (n % 2 == 1) then 1 else 0), inexact)

/-- The bit pattern, without sign, of `n * 2^qe`, which the format holds exactly. -/
def Fmt.packMag (f : Fmt) (n : Nat) (qe : Int) : Nat :=
  if n = 0 then 0
  else
    let ex := (Nat.log2 n : Int) + qe
    let t := f.tbits
    if ex < f.emin then n * 2 ^ (qe - (f.emin - (t : Int))).toNat
    else
      let fld := (ex - f.emin + 1).toNat
      let sh := (t : Int) - (Nat.log2 n : Int)
      let sig := if 0 ≤ sh then n * 2 ^ sh.toNat else n / 2 ^ (-sh).toNat
      fld * 2 ^ t + (sig - 2 ^ t)

/-- RoundTo of R98 for a finite non-zero |x| = (m + less than 1 when sticky) * 2^e, m > 0; with `sat` the
overflow branch is that of SatConvert (R103). -/
def roundFin (f : Fmt) (mode : RMode) (flushOut sat neg : Bool) (m : Nat) (e : Int) (sticky : Bool) : Nat × FFlags :=
  let e0 := (Nat.log2 m : Int) + e
  let ex := if e0 < f.emin then f.emin else e0
  let qe := ex - (f.prec : Int) + 1
  let (n, inexact) := roundShift mode neg m sticky (qe - e)
  match f.decode f.maxBits with
  | .fin _ mm me =>
    if dyGt n qe mm me then
      if sat then (f.signBits neg + f.maxBits, fSAT)
      else
        let toMax := mode == .rtz || (mode == .rdn && !neg) || (mode == .rup && neg)
        if toMax then (f.signBits neg + f.maxBits, fOF ||| fNX)
        else if f.hasInf then (f.infBits neg, fOF ||| fNX)
        else (f.nanBits, fOF ||| fNX)
    else
      let nx := if inexact then fNX else 0
      let uf := if inexact && decide (e0 < f.emin) then fUF else 0
      let small := n != 0 && dyGt 1 f.emin n qe
      if flushOut && f.isIeee && small then (f.zeroBits neg, nx ||| fUF ||| fNX)
      else if n = 0 then (f.zeroBits neg, nx ||| uf)
      else (f.signBits neg + f.packMag n qe, nx ||| uf)
  | _ => (0, 0)

/-- A negative source for an unsigned binary8 target (R102). -/
def roundUnsignedNeg (f : Fmt) (p : Nat) (infs sat : Bool) (mode : RMode) (m : Nat) (e : Int) (sticky : Bool) :
    Nat × FFlags :=
  let e0 := (Nat.log2 m : Int) + e
  let ex := if e0 < f.emin then f.emin else e0
  let (n, _) := roundShift mode true m sticky (ex - (p : Int) + 1 - e)
  if n = 0 then (0, fUF ||| fNX)
  else if sat then (0, fSAT)
  else ((Fmt.b8 true infs p).nanBits, fNV)

/-- Rounding to the integers by a mode, of |x| = (m + sticky) * 2^e (R102). -/
def roundInt (mode : RMode) (neg : Bool) (m : Nat) (e : Int) (sticky : Bool) : Nat × Bool :=
  roundShift mode neg m sticky (-e)

/-- Bounds of an integer format. -/
def intMin (signed : Bool) (w : Nat) : Int := if signed then -((2 ^ (w - 1) : Nat) : Int) else 0
/-- Bounds of an integer format. -/
def intMax (signed : Bool) (w : Nat) : Int :=
  if signed then ((2 ^ (w - 1) : Nat) : Int) - 1 else ((2 ^ w : Nat) : Int) - 1

/-- The low `w` bits of an integer. -/
def wrapInt (w : Nat) (x : Int) : Nat := (x % ((2 ^ w : Nat) : Int)).toNat

/-- A value rounded into an integer format and clamped (R102). -/
def toIntFmt (s : Bool) (w : Nat) (mode : RMode) (v : FpVal) : Nat × FFlags :=
  match v with
  | .nan _ => (0, fNV)
  | .inf neg => (wrapInt w (if neg then intMin s w else intMax s w), fSAT ||| fNX)
  | .fin neg m e =>
    let (n, inexact) := roundInt mode neg m e false
    let x : Int := if neg then -(n : Int) else (n : Int)
    let nx := if inexact then fNX else 0
    if x < intMin s w then (wrapInt w (intMin s w), nx ||| fSAT ||| fNX)
    else if intMax s w < x then (wrapInt w (intMax s w), nx ||| fSAT ||| fNX)
    else (wrapInt w x, nx)

/-- Whether a value is a signalling NaN. -/
def FpVal.isSig : FpVal → Bool
  | .nan s => s | .inf _ => false | .fin _ _ _ => false

/-- Whether a value is a NaN. -/
def FpVal.isNan : FpVal → Bool
  | .nan _ => true | .inf _ => false | .fin _ _ _ => false

/-- Conversion of a number to a format: RoundTo, or SatConvert when `sat` (R98, R101 to R103). A NaN raises
no flag here: the caller knows whether its source signals. -/
def Fmt.convert (f : Fmt) (c : FCtl) (sat : Bool) (v : FpVal) : Nat × FFlags :=
  match f with
  | .int s lg => toIntFmt s (2 ^ lg) c.mode v
  | .b8 true infs p =>
    match v with
    | .nan _ => (f.nanBits, 0)
    | .inf neg =>
      if neg then (if sat then (0, fSAT) else (f.nanBits, fNV))
      else if sat then (f.maxBits, fSAT) else if infs then (f.infBits false, 0) else (f.nanBits, 0)
    | .fin neg m e =>
      if m = 0 then (0, 0)
      else if neg then roundUnsignedNeg f p infs sat c.mode m e false
      else roundFin f c.mode c.flushOut sat false m e false
  | _ =>
    match v with
    | .nan _ => (f.nanBits, 0)
    | .inf neg =>
      if sat then (f.signBits neg + f.maxBits, fSAT)
      else if f.hasInf then (f.infBits neg, 0) else (f.nanBits, 0)
    | .fin neg m e =>
      if m = 0 then (f.zeroBits neg, 0) else roundFin f c.mode c.flushOut sat neg m e false

/-- A subnormal IEEE operand read as zero of its sign under flush_in, with ifl (R100). -/
def flushVal (f : Fmt) (c : FCtl) (v : FpVal) : FpVal × FFlags :=
  match v with
  | .fin neg m e =>
    if c.flushIn && f.isIeee && m != 0 && dyGt 1 f.emin m e then (.fin neg 0 0, fIFL) else (v, 0)
  | v => (v, 0)

/-- NV of a signalling operand (R94). -/
def sigNV (v : FpVal) : FFlags := if v.isSig then fNV else 0

/-- The exact result of an operation: a NaN with the flags it raises, an infinity, or a magnitude with
`sticky` when more bits follow. -/
inductive Exact
  | nan (fl : FFlags)
  | inf (neg : Bool) (fl : FFlags)
  | val (neg : Bool) (m : Nat) (e : Int) (sticky : Bool)
deriving DecidableEq, Repr

/-- One rounding of an exact result (R98); with `c.sat` unused: arithmetic never saturates. -/
def Exact.round (f : Fmt) (c : FCtl) : Exact → Nat × FFlags
  | .nan fl => (f.nanBits, fl)
  | .inf neg fl => (if f.hasInf then f.infBits neg else f.nanBits, fl)
  | .val neg m e st => if m = 0 then (f.zeroBits neg, 0) else roundFin f c.mode c.flushOut false neg m e st

/-- Exact sum of two finite numbers. A zero sum of opposite signs is +0, or -0 when rounding down. -/
def addFin (mode : RMode) (n1 : Bool) (m1 : Nat) (e1 : Int) (n2 : Bool) (m2 : Nat) (e2 : Int) : Exact :=
  let e := if e1 ≤ e2 then e1 else e2
  let a : Int := (m1 * 2 ^ (e1 - e).toNat : Nat)
  let b : Int := (m2 * 2 ^ (e2 - e).toNat : Nat)
  let s : Int := (if n1 then -a else a) + (if n2 then -b else b)
  if s = 0 then
    .val (if m1 = 0 ∧ m2 = 0 ∧ n1 = n2 then n1 else mode == .rdn) 0 0 false
  else .val (decide (s < 0)) s.natAbs e false

/-- Exact sum (R155, R199). -/
def addEx (mode : RMode) (x y : FpVal) : Exact :=
  match x, y with
  | .nan _, _ => .nan (sigNV x ||| sigNV y)
  | _, .nan _ => .nan (sigNV x ||| sigNV y)
  | .inf a, .inf b => if a = b then .inf a 0 else .nan fNV
  | .inf a, .fin _ _ _ => .inf a 0
  | .fin _ _ _, .inf b => .inf b 0
  | .fin n1 m1 e1, .fin n2 m2 e2 => addFin mode n1 m1 e1 n2 m2 e2

/-- Sign change. -/
def FpVal.neg : FpVal → FpVal
  | .nan s => .nan s
  | .inf n => .inf (!n)
  | .fin n m e => .fin (!n) m e

/-- Exact product (R155, R199). -/
def mulEx (x y : FpVal) : Exact :=
  match x, y with
  | .nan _, _ => .nan (sigNV x ||| sigNV y)
  | _, .nan _ => .nan (sigNV x ||| sigNV y)
  | .inf a, .inf b => .inf (a != b) 0
  | .inf a, .fin b m _ => if m = 0 then .nan fNV else .inf (a != b) 0
  | .fin a m _, .inf b => if m = 0 then .nan fNV else .inf (a != b) 0
  | .fin n1 m1 e1, .fin n2 m2 e2 => .val (n1 != n2) (m1 * m2) (e1 + e2) false

/-- Exact x * y + z with one rounding to come; 0 times infinity is invalid even beside a quiet NaN (R155). -/
def fmaEx (mode : RMode) (x y z : FpVal) : Exact :=
  match mulEx x y with
  | .nan fl => .nan (fl ||| sigNV z)
  | .inf a _ =>
    match z with
    | .nan _ => .nan (sigNV z)
    | .inf b => if a = b then .inf a 0 else .nan fNV
    | .fin _ _ _ => .inf a 0
  | .val n m e _ =>
    match z with
    | .nan _ => .nan (sigNV z)
    | .inf b => .inf b 0
    | .fin nz mz ez => addFin mode n m e nz mz ez

/-- Exact quotient to at least 70 leading bits (R155, R199). -/
def divEx (x y : FpVal) : Exact :=
  match x, y with
  | .nan _, _ => .nan (sigNV x ||| sigNV y)
  | _, .nan _ => .nan (sigNV x ||| sigNV y)
  | .inf _, .inf _ => .nan fNV
  | .inf a, .fin b _ _ => .inf (a != b) 0
  | .fin a _ _, .inf b => .val (a != b) 0 0 false
  | .fin n1 m1 e1, .fin n2 m2 e2 =>
    if m2 = 0 then (if m1 = 0 then .nan fNV else .inf (n1 != n2) fDZ)
    else if m1 = 0 then .val (n1 != n2) 0 0 false
    else
      let k := 72 + Nat.log2 m2
      let num := m1 * 2 ^ k
      .val (n1 != n2) (num / m2) (e1 - e2 - (k : Int)) (num % m2 != 0)

/-- Integer square root by bits: the largest r below 2^k with r * r at most n. -/
def isqrtBits (n : Nat) : Nat → Nat → Nat
  | 0, r => r
  | k + 1, r => if (r + 2 ^ k) * (r + 2 ^ k) ≤ n then isqrtBits n k (r + 2 ^ k) else isqrtBits n k r

/-- Integer square root. -/
def isqrt (n : Nat) : Nat := isqrtBits n (Nat.log2 n / 2 + 1) 0

/-- Exact square root to at least 70 leading bits (R155, R199). -/
def sqrtEx (x : FpVal) : Exact :=
  match x with
  | .nan _ => .nan (sigNV x)
  | .inf n => if n then .nan fNV else .inf false 0
  | .fin n m e =>
    if m = 0 then .val n 0 0 false
    else if n then .nan fNV
    else
      let k : Nat := if e % 2 = 0 then 144 else 145
      let mm := m * 2 ^ k
      let r := isqrt mm
      .val false r ((e - (k : Int)) / 2) (r * r != mm)

/-- Order of two numbers that are no NaN, zeros of either sign equal. -/
def ltVal (x y : FpVal) : Bool :=
  match x, y with
  | .inf a, .inf b => a && !b
  | .inf a, _ => a
  | _, .inf b => !b
  | .fin n1 m1 e1, .fin n2 m2 e2 =>
    if m1 = 0 ∧ m2 = 0 then false
    else if n1 && !n2 then true
    else if !n1 && n2 then false
    else if n1 then dyGt m1 e1 m2 e2
    else dyGt m2 e2 m1 e1
  | _, _ => false

/-- Whether a value carries a negative sign. -/
def FpVal.isNeg : FpVal → Bool
  | .nan _ => false | .inf n => n | .fin n _ _ => n

/-- min and max of R94: a NaN gives the canonical NaN, -0 orders below +0. The result is one of the operands'
bit patterns. -/
def minMaxBits (f : Fmt) (isMax : Bool) (xb yb : Nat) (x y : FpVal) : Nat × FFlags :=
  if x.isNan || y.isNan then (f.nanBits, sigNV x ||| sigNV y)
  else
    let less := ltVal x y || (!ltVal y x && x.isNeg && !y.isNeg)
    (if less == isMax then yb else xb, 0)

/-- The three comparisons with their flags (R94). -/
inductive FCmp | eq | lt | le
deriving DecidableEq, Repr

/-- A comparison: false beside a NaN; eq signals for a signalling NaN, lt and le for any (R94). -/
def cmpVal (k : FCmp) (x y : FpVal) : Bool × FFlags :=
  if x.isNan || y.isNan then
    (false, match k with | .eq => sigNV x ||| sigNV y | .lt => fNV | .le => fNV)
  else
    (match k with
     | .eq => !ltVal x y && !ltVal y x
     | .lt => ltVal x y
     | .le => !ltVal y x, 0)

/-- Nearest integer of a / b, ties to even. -/
def roundHalfEven (a b : Nat) : Nat :=
  let q := a / b
  let r := a % b
  if 2 * r < b then q else if b < 2 * r then q + 1 else if q % 2 = 0 then q else q + 1

/-- Table RCP of R113: min(127, round(128 * (256 / (128.5 + j) - 1))). -/
def rcpTable (j : Nat) : Nat :=
  let d := 257 + 2 * j
  Nat.min 127 (roundHalfEven (128 * (512 - d)) d)

/-- Table RSQ of R114: min(127, round(128 * (2 / sqrt c - 1))), c = (1 + (j + 0.5) / 64) * 2^h. -/
def rsqTable (i : Nat) : Nat :=
  let d := (129 + 2 * (i % 64)) * 2 ^ (i / 64)
  Nat.min 127 ((isqrt (33554432 / d) + 1) / 2 - 128)

/-- vf.rcpe (R113). -/
def rcpeOp (f : Fmt) (c : FCtl) (x : FpVal) : Nat × FFlags :=
  match x with
  | .nan _ => (f.nanBits, sigNV x)
  | .inf n => (f.zeroBits n, 0)
  | .fin n m e =>
    if m = 0 then (f.infBits n, fDZ)
    else
      let l := Nat.log2 m
      let j := (m * 128 / 2 ^ l) % 128
      roundFin f .rne c.flushOut false n (128 + rcpTable j) (-((l : Int) + e) - 8) false

/-- vf.rsqe (R114). -/
def rsqeOp (f : Fmt) (c : FCtl) (x : FpVal) : Nat × FFlags :=
  match x with
  | .nan _ => (f.nanBits, sigNV x)
  | .inf n => if n then (f.nanBits, fNV) else (f.zeroBits false, 0)
  | .fin n m e =>
    if m = 0 then (f.infBits n, fDZ)
    else if n then (f.nanBits, fNV)
    else
      let l := Nat.log2 m
      let ex := (l : Int) + e
      let i := 64 * (ex % 2).toNat + (m * 64 / 2 ^ l) % 64
      roundFin f .rne c.flushOut false false (128 + rsqTable i) (-(ex / 2) - 8) false

/-- Fixed-point precision of the special functions, in bits. -/
def spPrec : Nat := 512

/-- The product of the roots 2^(1/2), 2^(1/4), ... that the leading bits of `fr / 2^k` select, in fixed point:
2^(fr / 2^k) to nearly `spPrec` bits. `c` is the next root's square. -/
def exp2Loop (fr : Nat) : Nat → Nat → Nat → Nat
  | 0, _, acc => acc
  | k + 1, c, acc =>
    let r := isqrt (c * 2 ^ spPrec)
    exp2Loop fr k r (if fr / 2 ^ k % 2 = 1 then acc * r / 2 ^ spPrec else acc)

/-- 2^(fr / 2^k) in fixed point, for fr below 2^k. -/
def exp2Frac (fr k : Nat) : Nat := exp2Loop fr k (2 ^ (spPrec + 1)) (2 ^ spPrec)

/-- A finite number as an integer and a fraction of 2^k: x = n + fr / 2^k, 0 <= fr < 2^k. -/
def splitFloor (neg : Bool) (m : Nat) (e : Int) : Int × Nat × Nat :=
  let s : Int := if neg then -(m : Int) else (m : Int)
  if 0 ≤ e then (s * ((2 ^ e.toNat : Nat) : Int), 0, 0)
  else
    let k := (-e).toNat
    let d : Int := ((2 ^ k : Nat) : Int)
    (s / d, (s % d).toNat, k)

/-- 2^x correctly rounded, for the narrow formats (R111, R201); outside the format's range by far the exact
value is replaced by one that rounds alike. -/
def exp2Narrow (f : Fmt) (c : FCtl) (x : FpVal) : Nat × FFlags :=
  match x with
  | .nan _ => (f.nanBits, sigNV x)
  | .inf n => if n then (f.zeroBits false, 0) else (f.infBits false, 0)
  | .fin n m e =>
    if m = 0 then roundFin f c.mode c.flushOut false false 1 0 false
    else
      let (i, fr, k) := splitFloor n m e
      let i' : Int := if i < -2000 then -2000 else if 2000 < i then 2000 else i
      if fr = 0 then roundFin f c.mode c.flushOut false false 1 i' (i' != i)
      else roundFin f c.mode c.flushOut false false (exp2Frac fr k) (i' - (spPrec : Int)) true

/-- Entry T[j] of R112: 2^(j/64) rounded to binary32. -/
def exp2T (j : Nat) : Nat :=
  if j = 0 then 0x3F800000 else (roundFin (.ieee .f32) .rne false false false (exp2Frac j 6) (-(spPrec : Int)) true).1

/-- One binary32 operation of R112: nearest even, no flushing, its flags dropped. -/
def f32Mul (a b : Nat) : Nat := ((mulEx (decodeIeee .f32 a) (decodeIeee .f32 b)).round (.ieee .f32) .rne).1
/-- One binary32 operation of R112. -/
def f32Add (a b : Nat) : Nat := ((addEx .rne (decodeIeee .f32 a) (decodeIeee .f32 b)).round (.ieee .f32) .rne).1

/-- vf.exp2 on binary32 (R112). -/
def exp2F32 (c : FCtl) (x : FpVal) : Nat × FFlags :=
  let f : Fmt := .ieee .f32
  match x with
  | .nan _ => (f.nanBits, sigNV x)
  | .inf n => if n then (0, 0) else (f.infBits false, 0)
  | .fin n m e =>
    if !n && !dyGt 128 0 m e then (f.infBits false, fOF ||| fNX)
    else if n && dyGt m e 160 0 then (0, fUF ||| fNX)
    else
      let (mm, _) := roundInt .rne n m (e + 6) false
      let mi : Int := if n then -(mm : Int) else (mm : Int)
      let k := mi / 64
      let j := (mi % 64).toNat
      let fb := match addFin .rne n m e (!(n && mm != 0)) mm (-6) with
        | .val a b d _ => if b = 0 then 0 else (roundFin f .rne false false a b d false).1
        | _ => 0
      let p := f32Mul (f32Add (f32Mul (f32Add (f32Mul 0x3D635847 fb) 0x3E75FDF0) fb) 0x3F317218) fb
      let t := exp2T j
      let y := f32Add t (f32Mul t p)
      match decodeIeee .f32 y with
      | .fin a b d =>
        let (out, fl) := if b = 0 then (0, 0) else roundFin f .rne c.flushOut false a b (d + k) false
        let exact := fb % 2147483648 == 0 && j == 0 &&
          (match decodeIeee .f32 out with
           | .fin a' b' d' => a == a' && !dyGt b (d + k) b' d' && !dyGt b' d' b (d + k)
           | _ => false)
        (out, fl ||| (if exact then 0 else fNX))
      | _ => (f.nanBits, 0)

/-- Bits of log2 of a fixed-point number in [1, 2], the first bit worth one half. -/
def log2Loop : Nat → Nat → Nat → Nat
  | 0, _, acc => acc
  | k + 1, y, acc =>
    let z := y * y / 2 ^ spPrec
    if 2 ^ (spPrec + 1) ≤ z then log2Loop k (z / 2) (2 * acc + 1) else log2Loop k z (2 * acc)

/-- Combiner lae2 of two finite numbers that are not equal: log2(2^o + 2^w), one rounding (R353). The
larger plus log2(1 + 2^-d), d their distance, to 200 fractional bits and more following. -/
def lae2Fin (f : Fmt) (n1 : Bool) (m1 : Nat) (e1 : Int) (n2 : Bool) (m2 : Nat) (e2 : Int) : Nat :=
  let big1 := ltVal (.fin n2 m2 e2) (.fin n1 m1 e1)
  let (nb, mb, eb) := if big1 then (n1, m1, e1) else (n2, m2, e2)
  let (ns, ms, es) := if big1 then (n2, m2, e2) else (n1, m1, e1)
  let t := match addFin .rne ns ms es (!nb) mb eb with
    | .val _ d ed _ =>
      if !dyGt 190 0 d ed then 0
      else
        let (i, fr, k) := splitFloor true d ed
        let z := exp2Frac fr k / 2 ^ (-i).toNat
        log2Loop 200 (2 ^ spPrec + z) 0
    | _ => 0
  -- the larger in units of 2^-200: exact, for every binary16 and binary32 number
  let b : Int := if 0 ≤ eb + 200 then (mb * 2 ^ (eb + 200).toNat : Nat) else 0
  let s : Int := (if nb then -b else b) + (t : Int)
  if 0 ≤ s then (roundFin f .rne false false false (Nat.max s.toNat 1) (-200) true).1
  else
    -- |x| = -(s + delta), 0 < delta < 1
    (roundFin f .rne false false true (Nat.max (s.natAbs - 1) 1) (-200) true).1

/-- Combiner lae2 (R353). -/
def lae2Op (f : Fmt) (o w : FpVal) : Nat :=
  match o, w with
  | .nan _, _ => f.nanBits
  | _, .nan _ => f.nanBits
  | .inf a, .inf b => f.infBits (a && b)
  | .inf a, .fin n m e =>
    if a then (if m = 0 then f.zeroBits n else (roundFin f .rne false false n m e false).1) else f.infBits false
  | .fin n m e, .inf b =>
    if b then (if m = 0 then f.zeroBits n else (roundFin f .rne false false n m e false).1) else f.infBits false
  | .fin n1 m1 e1, .fin n2 m2 e2 =>
    if !ltVal o w && !ltVal w o then ((addFin .rne n1 m1 e1 false 1 0).round f .rne).1
    else lae2Fin f n1 m1 e1 n2 m2 e2

/-- vf.class: one of ten bits (R200). -/
def classBits (f : Fmt) (v : FpVal) : Nat :=
  match v with
  | .inf true => 1
  | .inf false => 128
  | .nan true => 256
  | .nan false => 512
  | .fin neg m e =>
    if m = 0 then (if neg then 8 else 16)
    else if dyGt 1 f.emin m e then (if neg then 4 else 32)
    else (if neg then 2 else 64)

/-- A number that is an integer, as one. -/
def FpVal.toInt : FpVal → Int
  | .fin neg m _ => if neg then -(m : Int) else (m : Int)
  | .nan _ => 0
  | .inf _ => 0

/-- Conversion between integer formats: modulo 2^w, or clamped with flag sat when saturating (R205). -/
def intToInt (sat s' : Bool) (w' : Nat) (x : Int) : Nat × FFlags :=
  if x < intMin s' w' then
    if sat then (wrapInt w' (intMin s' w'), fSAT) else (wrapInt w' x, 0)
  else if intMax s' w' < x then
    if sat then (wrapInt w' (intMax s' w'), fSAT) else (wrapInt w' x, 0)
  else (wrapInt w' x, 0)

/-- Conversion of one element between formats, with its flags: cvt, or cvts when `always` (R100 to R103,
R205). -/
def convertElem (src dst : Fmt) (c : FCtl) (always : Bool) (bits : Nat) : Nat × FFlags :=
  let sat := always || c.sat
  match src, dst with
  | .int s lg, .int s' lg' => intToInt sat s' (2 ^ lg') ((Fmt.int s lg).decode bits).toInt
  | _, _ =>
    let v0 := src.decode bits
    let (v, fl) := flushVal src c v0
    let (out, fl') := dst.convert c sat v
    (out, fl ||| sigNV v0 ||| fl')

end Sys2Proof.Machine
end

