-- ==== Sys2Proof/Machine/State.lean ====
section
/-!
DEFINITION. Sys2Proof/Machine/State.lean: the state of the whole package as plain data, and the state right
after reset. INVENTORY.md, '## State', lists every piece with its rule. A register file or a storage is an
`FMap`: what is not listed reads as zero, as R391 and R392 leave it at reset.
-/

namespace Sys2Proof.Machine

open Sys2Proof

/-- Why the machine stops. -/
inductive Fault
  /-- Raised by a register access of the management cores to an address in no region of R316: a bus error.
  Safe: the spec names it (R316). -/
  | busError
deriving DecidableEq, Repr

/-- Why the model gives an instruction no meaning. -/
inductive Refusal
  /-- Raised by an arm of `exec` whose instruction has no meaning yet. Safe: nothing is claimed of it. -/
  | notModelled (mnemonic : String)
deriving DecidableEq, Repr

/-- Storage by byte address in canonical form: what is not listed reads as zero (R391, R392). -/
abbrev Memory := FMap Byte

/-- The canonical form of storage: addresses strictly rising, no entry zero. -/
def Memory.wf (m : Memory) : Bool := FMap.wf (0 : Byte) m

/-- A bind record of the slot table, 4 words (R375). -/
structure BindRec where
  w0 : Word := 0
  w1 : Word := 0
  w2 : Word := 0
  w3 : Word := 0
deriving DecidableEq, Repr

/-- Launch sequence number of a bind record. -/
def BindRec.seq (b : BindRec) : Nat := b.w0.toNat % 2 ^ 32
/-- Partition of a bind record. -/
def BindRec.partition (b : BindRec) : Nat := b.w0.toNat / 2 ^ 32 % 32
/-- Priority of a bind record. -/
def BindRec.prio (b : BindRec) : Nat := b.w0.toNat / 2 ^ 37 % 4
/-- Rewind-log mode of a bind record: 0 off, 1 debug, 2 recover. -/
def BindRec.log (b : BindRec) : Nat := b.w0.toNat / 2 ^ 39 % 4
/-- Deterministic flag of a bind record. -/
def BindRec.det (b : BindRec) : Bool := b.w0.getLsbD 41
/-- Gang flag of a bind record. -/
def BindRec.gang (b : BindRec) : Bool := b.w0.getLsbD 42
/-- Lane-group grant of a bind record. -/
def BindRec.grant (b : BindRec) : BitVec 4 := b.w0.extractLsb' 43 4
/-- Valid bit of a bind record. -/
def BindRec.valid (b : BindRec) : Bool := b.w0.getLsbD 47
/-- ASID of a bind record. -/
def BindRec.asid (b : BindRec) : Nat := b.w0.toNat / 2 ^ 48
/-- Entry address of a bind record. -/
def BindRec.entry (b : BindRec) : Word := b.w1 &&& 0x00FFFFFFFFFFFFFF
/-- First element index of a bind record. -/
def BindRec.start (b : BindRec) : Nat := b.w2.toNat % 2 ^ 40
/-- Budget of a bind record in units of 65,536 cycles. -/
def BindRec.budget (b : BindRec) : Nat := b.w2.toNat / 2 ^ 40
/-- Element count of a bind record. -/
def BindRec.count (b : BindRec) : Nat := b.w3.toNat % 2 ^ 40
/-- Preload descriptor index of a bind record. -/
def BindRec.preload (b : BindRec) : Nat := b.w3.toNat / 2 ^ 40 % 256

/-- The program counter queue with its annul bits and provisional marks (R123). -/
structure PcQueue where
  q0 : Word := 0
  q1 : Word := 0
  q2 : Word := 0
  n0 : Bool := false
  n1 : Bool := false
  prov1 : Bool := false
  prov2 : Bool := false
  /-- The units at Q0 and Q1 stand in a delay slot (TCAUSE.slot, R128; log 16). -/
  d0 : Bool := false
  d1 : Bool := false
deriving DecidableEq, Repr

/-- A poisoned queue entry: the cause and address of the A-side fault and the word that faulted (R133). -/
structure PoisonMark where
  cause : Nat
  addr : Word
  word : Word
deriving DecidableEq, Repr

/-- An entry of xe. -/
structure XeEntry where
  val : Word
  bad : Option PoisonMark := none
deriving DecidableEq, Repr

/-- The queues between the halves that hold entries between units (R119). -/
structure Queues where
  sq : List Word := []
  xa : List Word := []
  xe : List XeEntry := []
  bq : List Bool := []
deriving DecidableEq, Repr

/-- Trap and status registers (R126 to R131, R135, R137). -/
structure TrapRegs where
  tvec : Word := 0
  tcause : Word := 0
  tval : Word := 0
  epc0 : Word := 0
  epc1 : Word := 0
  epc2 : Word := 0
  enul : BitVec 4 := 0
  /-- Delay-slot marks of EPC0 and EPC1 (log 16). -/
  eslot0 : Bool := false
  eslot1 : Bool := false
  eapc : Word := 0
  claimbase : Word := 0
  inTrap : Bool := false
  claimed : Bool := false
  ie : Bool := false
  pie : Bool := false
  qpend : BitVec 2 := 0
  dbpend : Bool := false
  tcmp : Word := 0
deriving DecidableEq, Repr

/-- The other CSRs a sequencer holds (R137). -/
structure Csrs where
  fctl : Word := 0
  fflags : FFlags := 0
  vtype : Word := 0
  vl : Nat := 0
  mskip : Word := 0
  skipcnt : Word := 0
  npv0 : Word := 0
  npv1 : Word := 0
  npv2 : Word := 0
  npv3 : Word := 0
  sampctl : Word := 0
  sampbase : Word := 0
  sampCount : Nat := 0
  cycle : Word := 0
  units : Word := 0
  stallq : Word := 0
  stalls : Word := 0
  stallb : Word := 0
  stallm : Word := 0
  rstg0 : Nat := 0
  rstg1 : Nat := 0
  rstg2 : Nat := 0
  rstg3 : Nat := 0
  dwbase : Word := 0
  dwlen : Word := 0
  winno : BitVec 32 := 0
deriving DecidableEq, Repr

/-- A record of the rewind log (R306). `old` holds the old bytes of the locations `locs`, which are physical,
scratchpad or lane-private byte addresses by `space` (log 86). -/
structure LogRec where
  kind : Nat
  space : Nat
  writer : Nat
  window : Nat
  addr : Nat
  extra : Nat := 0
  locs : List Nat := []
  old : List Byte := []
  size : Nat
  /-- First element of the range whose sequencer wrote lane-private SRAM (R8). -/
  range : Nat := 0
  /-- Place among the launch's records of both rings, in the order in which they were appended. -/
  no : Nat := 0
  /-- Offset of its first byte in its ring (R305, log 86). -/
  pos : Nat := 0
deriving DecidableEq, Repr

/-- A store that has retired and is not yet admitted at its home (R118, R341): the writes it makes together,
the ordering kind of its page, whether it releases, whether it follows the one before it, its log record, and whether its page is
compressed. One to a scratchpad names the cluster, and its parts are byte offsets there. -/
structure PStore where
  parts : List (Nat × List Byte)
  /-- The generic address of each part. -/
  vas : List Nat := []
  ord : Nat
  release : Bool := false
  /-- No later access of the sequencer is performed before it (R344). -/
  strong : Bool := false
  inOrder : Bool := false
  entry : Option LogRec := none
  comp : Bool := false
  /-- The cluster whose scratchpad it writes, for a store that must follow earlier ones (R268, R344). -/
  pad : Option Nat := none
  /-- For a store of a vector unit: the unit's number, one above UNITS at its issue, the word and the elements (R343). -/
  unit : Nat := 0
  word : Nat := 0
  elems : List Nat := []
  /-- An earlier word of its unit stores too (R343). -/
  second : Bool := false
  /-- A record of a sampled unit: one that fails clears the enable and raises nothing (R232). -/
  sample : Bool := false
  /-- It travels by broadcast packet: its data is not allocated in the die cache (R323, R325). -/
  packet : Bool := false
deriving DecidableEq, Repr

/-- The link a sequencer holds (R147, R228): lines and generation. -/
inductive LinkState
  | none
  | scalar (line gen : Nat)
  | vector (lines : List Nat) (gen : Nat)
deriving DecidableEq, Repr

/-- One engine tag of a sequencer (R270). -/
structure EngTag where
  count : Nat := 0
  cause : Nat := 0
  addr : Word := 0
  flags : FFlags := 0
deriving DecidableEq, Repr

/-- A pyramid binding: serial and the stream's descriptor address, physical and virtual (R357). -/
structure PHandle where
  serial : Nat
  desc : Nat
  va : Word
deriving DecidableEq, Repr

/-- A collective handle of a sequencer (R415, R419): state 0 running, 1 complete, 2 failed. -/
structure CHandle where
  serial : Nat
  state : Nat := 0
  reason : Nat := 0
  port : Nat := 0xFF
  addr : Word := 0
deriving DecidableEq, Repr

/-- An append block sent to its home, its first time not yet written (R359): destination register, the
stream, the handle slot, the items' bytes, and the block's poison. -/
structure Append where
  reg : Reg
  desc : Nat
  slot : Nat
  items : List (List Byte)
  /-- Stores of its sequencer that must commit before its times are assigned (R346). -/
  after : Nat := 0
deriving DecidableEq, Repr

/-- Where a sequencer stands at its launch's mark: not at one, arrived and waiting for the opening, or waiting to go
on after the opening (R302). -/
inductive MarkPhase | none | arrived | opened
deriving DecidableEq, Repr

/-- What runs a debug REPLAY or STEPBACK holds open: the UNITS count at which the launch stops (R311). -/
structure Replay where
  target : Nat
  alone : Bool
deriving DecidableEq, Repr

/-- One sequencer (R116). -/
structure Seq where
  /-- It holds a current record whose entry state is set. -/
  live : Bool := false
  cur : BindRec := {}
  next : BindRec := {}
  a : FMap Word := []
  s : FMap Word := []
  pc : PcQueue := {}
  qs : Queues := {}
  shadow : Queues := {}
  tr : TrapRegs := {}
  csr : Csrs := {}
  grant : BitVec 4 := 0
  /-- The next unit to issue is the first after k.eret, a debug resumption or a restore (R183, R251). -/
  resume : Bool := false
  stores : List PStore := []
  link : LinkState := .none
  gen : Nat := 0
  watched : FMap Bool := []
  /-- The cb.arw words whose arrival has already counted: barrier and unit (R282). -/
  arrived : List (Nat × Word) := []
  /-- The barriers it has used, with the window of the last use (R283). -/
  barUsed : FMap Nat := []
  tags : FMap EngTag := []
  handles : FMap PHandle := []
  hserial : Nat := 0
  chandles : FMap CHandle := []
  cserial : Nat := 0
  appends : List Append := []
  reclaim : Option Nat := none
  markReq : Bool := false
  mark : MarkPhase := .none
  /-- A committed peer or host store that failed (R411): cause and TVAL. -/
  peerErr : Option (Nat × Word) := none
  replay : Option Replay := none
  /-- Halted by a debug stop (R311) or by firmware failure of the launch (R23). -/
  stopped : Bool := false
  /-- A k.wfi completes at its next issue, because the sequencer was pre-empted and resumed (R160). -/
  woken : Bool := false
  /-- UNITS when a k.wfi of this sequencer began to wait: the interrupt that ends the wait is taken after that unit (R160). -/
  wfi : Option Word := none
  /-- The preload copy of the current record has not ended (R376). -/
  preloading : Bool := false
  /-- CYCLE when its budget began: 0 at bind, later after a pre-emption by exchange (R380). -/
  budgetFrom : Nat := 0
  /-- It waits to take matrix mode again before its first issue (R383). -/
  wantMatrix : Bool := false
  /-- 32-byte units of the scratchpad that the accesses of the unit under way meet, and whether matrix accesses are among them (R265). -/
  used : FMap Bool := []
  wide : Bool := false
  /-- Banks that its accesses have met since it was bound, the step of the latest of them, and its own latest step (R188, R265). -/
  banks : BitVec 64 := 0
  bankAt : Nat := 0
  stepAt : Nat := 0
deriving DecidableEq, Repr

/-- The sequencer of an idle slot. -/
def Seq.idle : Seq := {}

/-- One Larder table set: valid, and the 256 frequencies; cum and the slot map follow from them (R256, R257). -/
structure LarderSet where
  valid : Bool := false
  freq : List Nat := []
deriving DecidableEq, Repr

/-- A stopped mt.mul (R235, R251). An mt.mul under way between two segments holds the same record, with the operands
it read at issue and whether it has added no row yet (R248, R261). -/
structure Progress where
  unit : Word
  position : Nat
  row : Nat
  ops : List Word := []
  fresh : Bool := false
  /-- The next unit of the holder decides what becomes of the record: after a debug resumption or a Cellar restore (R251). -/
  again : Bool := false
  /-- Sampled records of the unit's memory words, which are written when it ends (R232). -/
  recs : List (List Byte) := []
deriving DecidableEq, Repr

/-- One core (R169, R180, R235). Keys: register 32 * g + k; mask 8 * g + k; flags and SRAM by lane 8 * g + l,
SRAM byte at lane * 4096 + offset, its poison at that / 4; register poison by byte, 4096 * g + 128 * k + byte; accumulator
element at 128 * row + column, its poison at that + 16384 * accumulator; mask poison by bit, 128 * (8 * g + k) + position. -/
structure Core where
  vreg : FMap (BitVec 1024) := []
  vpois : FMap Bool := []
  mask : FMap (BitVec 128) := []
  maskPois : FMap Bool := []
  laneFlags : FMap FFlags := []
  sram : Memory := []
  sramPois : FMap Bool := []
  holder : Option Nat := none
  waiters : List Nat := []
  mvl : Nat := 0
  accFmt : Byte := 0
  acc0 : FMap (BitVec 32) := []
  acc1 : FMap (BitVec 32) := []
  accPois : FMap Bool := []
  larder : FMap LarderSet := []
  progress : Option Progress := none
  lastLaunch : Option (Nat × Nat) := none
deriving DecidableEq, Repr

/-- One barrier (R281). -/
structure Barrier where
  target : Nat := 0
  count : Nat := 0
  phase : Bool := false
  error : Bool := false
  last : Nat := 0
deriving DecidableEq, Repr

/-- The five commands of the copy engine (R269). -/
inductive CmdOp | copy | gath | scat | fill | xf
deriving DecidableEq, Repr

/-- A command placed with the copy engine (R269 to R276): operands as issued, its next row, its flags, the
sampled FCTL, its ASID and partition, and whether it is held by a stop. -/
structure EngCmd where
  id : Nat
  owner : Nat
  /-- Stores of its sequencer that must commit before it begins (R269). -/
  after : Nat := 0
  op : CmdOp
  sa : Word
  sb : Word
  sc : Word
  tag : Nat
  bar : Nat
  row : Nat := 0
  fctl : Word
  flags : FFlags := 0
  asid : Nat
  partition : Nat
  launch : Nat
  log : Nat
  window : Nat
  paused : Bool := false
  stopRow : Bool := false
  /-- The error that ends the command at its row: cause and address. -/
  err : Option (Nat × Word) := none
  /-- The writes of its row have been sent to a window and are not all answered (R272, R278). -/
  sent : Bool := false
  /-- Its launch has failed: it ends, signalling its barrier, once its row in flight has committed (R23). -/
  ending : Bool := false
deriving DecidableEq, Repr

/-- A preload of a cluster: the slot of its record, destination offset, length, source, whose record it is, and
whether the copy has ended (R377). -/
structure Preload where
  q : Nat
  off : Nat
  len : Nat
  src : Word
  /-- It belongs to the slot's current record; else to the next one. -/
  cur : Bool := false
  done : Bool := false
deriving DecidableEq, Repr

/-- The scratchpad side of a cluster: bytes, poison of 32-byte units, region words and barriers (R263 to R266,
R281). -/
structure Pad where
  sp : Memory := []
  spPois : FMap Bool := []
  region : FMap Word := []
  barrier : FMap Barrier := []
deriving DecidableEq, Repr

/-- What the Cellar holds of one cluster (R284): the scratchpad side, the 64 sequencers, the 16 cores by their
numbers within the cluster, and the unfinished commands. -/
structure Shadow where
  pad : Pad := {}
  seqs : FMap Seq := []
  cores : FMap Core := []
  cmds : List EngCmd := []
deriving DecidableEq, Repr

/-- One cluster (R263 to R284, R377, R381). -/
structure Cluster where
  pad : Pad := {}
  cmds : List EngCmd := []
  nextCmd : Nat := 0
  shadow : Option Shadow := none
  preTab : Nat := 0
  halted : Bool := false
  halting : Bool := false
  busy : Bool := false
  preloads : List Preload := []
  /-- The sealed ASID whose data the cluster may still hold (R298). -/
  sealedAsid : Option Nat := none
  /-- The step in which its copy engine last read or wrote the scratchpad (R265). -/
  engineAt : Nat := 0
deriving DecidableEq, Repr

/-- One die (R300, R315, R292). -/
structure Die where
  invAsid : BitVec 16 := 0
  invAll : Bool := false
  invVa : Word := 0
  invPages : BitVec 32 := 0
  invBusy : Bool := false
  counters : FMap Nat := []
  linkLost : Bool := false
deriving DecidableEq, Repr

/-- One entry of a row-remap table: pseudo-channel, bank group, bank, row, and the spare row (R331), and which of its two copies
cannot be corrected (R332). -/
structure Remap where
  pc : Nat
  bg : Nat
  bank : Nat
  row : Nat
  spare : Nat
  bad0 : Bool := false
  bad1 : Bool := false
deriving DecidableEq, Repr

/-- One base die's control block (R331, R334, R336). -/
structure Stack where
  chfail : BitVec 32 := 0
  chlost : BitVec 32 := 0
  corrected : Nat := 0
  rebuilt : Nat := 0
  poisoned : Nat := 0
  suspends : Nat := 0
  remapfail : Nat := 0
  rmTarget : Word := 0
  rmBusy : Bool := false
  rmResult : Nat := 0
  remap : FMap (List Remap) := []
  mgSrc : Word := 0
  mgDst : Word := 0
  mgPages : Word := 0
  mgPhase : Nat := 0
  mgDirty : FMap Bool := []
  postponed : FMap Nat := []
deriving DecidableEq, Repr

/-- What a die cache holds of one line (R289, R290): valid and dirty sectors, and whether its page is
compressed. -/
structure LineState where
  valid : BitVec 4 := 0
  dirty : BitVec 4 := 0
  comp : Bool := false
deriving DecidableEq, Repr

/-- One stored sector of a compressed line with the width code, element size and poison of its metadata (R320, R328). -/
structure StoredSector where
  width : Nat := 0
  esz : Nat := 0
  bytes : List Byte := []
  pois : Bool := false
deriving DecidableEq, Repr

/-- A compressed line as its home stores it (R320, R327, R328): the form and the stored sectors (log 67). -/
structure StoredLine where
  form : Nat := 0
  sectors : List StoredSector := []
  /-- Its sector 0 could not be read and is stored as poison: the form is lost (R322, log 67). -/
  lost : Bool := false
deriving DecidableEq, Repr

/-- A migration mark of a source frame (R334): 1 migrating, 2 frozen, 3 moved, with the destination address and the
stack whose engine moves it. -/
structure Moved where
  phase : Nat
  dst : Nat
  stack : Nat
deriving DecidableEq, Repr

/-- A cached translation (R299): pages and ranges alike as a run of virtual addresses, with the distance to the
physical address, the attribute word of R294 and whether it comes from a range. -/
structure TlbEntry where
  asid : Nat
  base : Nat
  limit : Nat
  /-- The part of [base, limit) that it translates: no range of a lower number meets it (R296). -/
  lo : Nat
  hi : Nat
  delta : Nat
  attr : Word
  range : Bool
  sealed : Bool
deriving DecidableEq, Repr

/-- The configuration of a partition (R386), offsets 0x200 to 0x2FF as words by offset / 8. -/
structure PartCfg where
  words : FMap Word := []
deriving DecidableEq, Repr

/-- One partition (R370, R310, R386). -/
structure Part where
  lstat : FMap Word := []
  lasid : FMap Nat := []
  lpre : FMap Nat := []
  jbase : Nat := 0
  jhead : BitVec 32 := 1
  jtail : BitVec 32 := 1
  nbase : Nat := 0
  nsize : Nat := 0
  nhead : Nat := 0
  ntail : Nat := 0
  istat : BitVec 4 := 0
  /-- Vectors raised while masked, held until their mask bit is 1 (R390). -/
  undelivered : BitVec 4 := 0
  imask : BitVec 4 := 0
  delivered : List Nat := []
  clip : Nat := 0
  clipOpen : Bool := false
  clipFrames : Nat := 0
  clipBytes : List Byte := []
  /-- The sequencer whose k.egress runs (R394). -/
  egressOwner : Option Nat := none
  attBusy : Bool := false
  attDone : Bool := false
  manDone : Bool := false
  attReq : Nat := 0
  /-- The report of the attestation that runs, as it read at its start (R393). -/
  attReport : List Byte := []
  cfg : PartCfg := {}
  dbgLaunch : Nat := 0
  dbgArg0 : Nat := 0
  dbgArg1 : Nat := 0
  dbgBusy : Bool := false
  dbgResult : Nat := 0
  dbgEscapes : Nat := 0
  brkstop : Bool := false
  watchstop : Bool := false
  /-- Accepted launches not yet bound, by priority: 4 queues, the head first (R372, R379). -/
  queues : FMap (List Nat) := []
  ringPairs : FMap Nat := []
  /-- Launches bound in this round of the weighted round-robin (R379). -/
  served : Nat := 0
deriving DecidableEq, Repr

/-- The block reset leaves a partition with. -/
def Part.fresh : Part := {}

/-- A live region that a window pre-emption saves: its number, 16 for the implicit ones, its region word, bytes and poisoned units
(R382). -/
structure SavedRegion where
  num : Nat
  word : Word
  /-- The 2 KiB lines that it covers. -/
  lines : List Nat
  bytes : Memory
  pois : FMap Bool
deriving DecidableEq, Repr

/-- A snapshot block (R303), with what R383 writes beside it. -/
structure Snap where
  window : Nat
  q : Nat
  die : Nat
  vmask : Word
  flags : Word
  x : Seq
  vregs : FMap (BitVec 1024) := []
  masks : FMap (BitVec 128) := []
  laneFlags : FMap FFlags := []
  holder : Bool := false
  accFmt : Byte := 0
  mvl : Nat := 0
  acc0 : FMap (BitVec 32) := []
  acc1 : FMap (BitVec 32) := []
  larder : Option (FMap LarderSet) := none
  /-- Saved live regions of a window pre-emption (R382). -/
  regions : List SavedRegion := []
  size : Nat
  /-- Offset of the block in its ring (R305, log 86). -/
  pos : Nat := 0
  /-- Bytes of the handles and live regions that a window pre-emption has written to the ring for it, and their offset
  (R382, R383). -/
  beside : Nat := 0
  besidePos : Nat := 0
deriving DecidableEq, Repr

/-- One range of a launch: the sequencer it is bound to, its element range, whether its k.end has passed step 2, and
whether its bind record was lost before it became current (R12, R20, R378). -/
structure Range where
  q : Nat
  start : Nat
  count : Nat
  ended : Bool := false
  lost : Bool := false
deriving DecidableEq, Repr

/-- One launch (R10, R371, R374). -/
structure Launch where
  packet : List Word
  asid : Nat
  preload : Nat
  byK : Bool
  prio : Nat
  time : Nat
  /-- State of R374: 1 accepted, 2 bound, 3 running, 4 complete, 5 failed, 6 rolled back. -/
  lstate : Nat := 1
  cause : Nat := 0
  held : Bool := false
  plost : Nat := 0
  lostOnce : Bool := false
  restored : Nat := 0
  cword : Word := 0
  /-- Outcome of each prerequisite: 0 not final, 1 complete, 2 failed (R11). -/
  pre0 : Nat := 1
  pre1 : Nat := 1
  ranges : List Range := []
  winno : Nat := 0
  oldest : Nat := 1
  truncated : Nat := 0
  ring0 : List LogRec := []
  ring1 : List LogRec := []
  nextRec : Nat := 0
  reserved0 : Nat := 0
  reserved1 : Nat := 0
  /-- Offset in each ring of the next byte to be written (R305, log 86). -/
  pos0 : Nat := 0
  pos1 : Nat := 0
  /-- Barriers that its sequencers used which have ended: cluster, barrier and window of the last use (R283). -/
  barUsed : List (Nat × Nat × Nat) := []
  snaps : List Snap := []
  ringPair : Option Nat := none
  /-- The sequence number's stop request: a debug stop, a window request or a recovery in progress (R311, R313). -/
  recovering : Bool := false
  /-- The cause of the trap that started the recovery (R314). -/
  recCause : Nat := 19
  /-- When it is pre-empted it goes down one priority: its budget ran out (R380). -/
  demote : Bool := false
  /-- It has failed with a cause, and rows in flight or stores of it are still to be performed before its slots are released (R23). -/
  failing : Option Nat := none
  /-- It has been rolled back, and its sequencers go on once every write of the undo has been performed (R313). -/
  undoing : Bool := false
deriving DecidableEq, Repr

/-- A merged span that its home has not written into its slot yet (R352, R363): level, number, bytes, poison, and the
append count before the block whose append merged it (log 51). -/
structure PendSpan where
  level : Nat
  num : Nat
  bytes : List Byte
  bad : Bool
  before : Nat
deriving DecidableEq, Repr

/-- One pyramid stream with its home's registrations, by the physical address of its descriptor (R350, R358,
R363): owner (partition and launch), bindings as sequencer and serial with their launch, Apin of the owner, and
merged spans not yet written. -/
structure Stream where
  va : Word
  asid : Nat
  owner : Option (Nat × Nat) := none
  binds : List (Nat × Nat × Nat × Nat) := []
  apin : Nat := 0
  apins : FMap Nat := []
  pend : List PendSpan := []
deriving DecidableEq, Repr

/-- One participant of a collective that lies in this package (R414, R415): its sequencer, launch and handle, its rank,
the descriptor, the peer number of each rank, the contents of its send buffer, the physical runs of its receive
buffer with their attributes, and those of its send buffer and the receive buffer's contents as they were when it joined. -/
structure Member where
  q : Nat
  launch : Nat
  slot : Nat
  serial : Nat
  rank : Nat
  desc : List Byte
  rtab : List Nat
  src : List Byte
  out : List (Nat × Nat × Word)
  inp : List (Nat × Nat × Word) := []
  old : List Byte := []
deriving DecidableEq, Repr

/-- Data of a collective received from a peer: source rank, destination rank, first element and bytes (R408). -/
structure CollData where
  /-- The package that sent it. -/
  package : Nat
  src : Nat
  dst : Nat
  op : Nat
  fmt : Byte
  first : Nat
  bytes : List Byte
deriving DecidableEq, Repr

/-- One collective in flight (R416 to R420). -/
structure Coll where
  partition : Nat
  group : Nat
  number : Nat
  members : List Member := []
  data : List CollData := []
  failed : Option (Nat × Nat) := none
  /-- The launch whose full ring its results wait for (R308). -/
  blocked : Option Nat := none
deriving DecidableEq, Repr

/-- Who waits for a request to a peer or to the host (R389, R408, R411); the log engine reads the old bytes of a sequencer's store
(R305), a sequencer's sampled units leave records (R232), and an undo writes old bytes back for a partition's debugger (R310). -/
inductive Owner
  | seq (q : Nat)
  | engine (c k : Nat)
  | log (q : Nat)
  | sample (q : Nat)
  | undo (p : Nat)
  | other
deriving DecidableEq, Repr

/-- The answer to a request. -/
inductive Answer
  | data (bytes : List Byte)
  | done
  | refused
  | poison
  | lost (port : Nat)
deriving DecidableEq, Repr

/-- An outstanding request to a peer window or to the host window: port 0 to 17, or 18 for the host (R389,
R408). -/
structure Req where
  owner : Owner
  port : Nat
  tag : Nat
  pa : Nat
  len : Nat
  write : Bool
  bytes : List Byte := []
  answer : Option Answer := none
  /-- The generic address of the access. -/
  va : Nat := 0
  /-- Page kind of the mapping, 4 for an acquire and 8 for a release (R408). -/
  attr : Nat := 0
  /-- The ASID it was translated under, where it was (R300). -/
  asid : Option Nat := none
deriving DecidableEq, Repr

/-- A write that its home holds: of a frozen frame until it has moved, of a row until it has been copied (R331, R334). -/
structure HeldWrite where
  owner : Owner
  pa : Nat
  bytes : List Byte
  /-- Whether its page is compressed. -/
  comp : Bool
deriving DecidableEq, Repr

/-- One Wenlink port (R406 to R408). -/
structure Port where
  down : Bool := false
  lanes : Nat := 4
  credits : Nat := 0
  txSeq : Nat := 0
  rxSeq : Nat := 0
  freed : Nat := 0
  replay : List (Nat × List Byte) := []
  replays : Nat := 0
  waiting : List (List Byte) := []
  nextTag : Nat := 0
  /-- The peer asks for a retraining (R408). -/
  wantRetrain : Bool := false
  /-- The acknowledgement that it sent last, and whether it has announced its receive buffers since reset (R407, R408). -/
  lastAck : List Byte := []
  announced : Bool := false
deriving DecidableEq, Repr

/-- The port reset leaves. -/
def Port.fresh : Port := {}

/-- A hardware error that strikes a unit of the package (R181, R286, R292, R315, R322, R332). -/
inductive Upset
  /-- A single-bit error in a die cache of a die: corrected. -/
  | dieCorrected (d : Nat)
  /-- A double-bit error in the sector of an address in its die cache. -/
  | dieData (pa : Nat)
  /-- A tag parity error in the line of an address. -/
  | dieTag (pa : Nat)
  /-- A single-bit error in a scratchpad, a region word or the Cellar of a cluster: corrected. -/
  | padCorrected (c : Nat)
  /-- A double-bit error in a 32-byte unit of a scratchpad; `held` names the Cellar's copy. -/
  | padUnit (c unit : Nat) (held : Bool)
  /-- A double-bit error in a region word of a cluster. -/
  | region (c k : Nat) (held : Bool)
  /-- A double-bit error in a barrier of a cluster. -/
  | barrier (c b : Nat) (held : Bool)
  /-- A single-bit error in the state of a core: corrected. -/
  | coreCorrected (core : Nat)
  /-- A double-bit error in a 64-bit word of a vector register slice: group × 32 + register, and the word. -/
  | vecWord (core slice word : Nat) (held : Bool)
  /-- A double-bit error in a 64-bit word of a mask register: group × 8 + register, and the word. -/
  | maskWord (core slice word : Nat) (held : Bool)
  /-- A double-bit error in a 64-bit word of an accumulator: two elements of a row. -/
  | accWord (core acc word : Nat) (held : Bool)
  /-- A double-bit error in a 32-bit word of lane-private SRAM. -/
  | sramWord (core word : Nat) (held : Bool)
  /-- A parity error in an entry of a Larder table set. -/
  | larder (core set : Nat)
  /-- A parity error in the oldest entry of a translation buffer: a core's, or that of cluster c as 512 + c. -/
  | tlb (buffer : Nat)
  /-- The die-to-die link of a die retried a transfer. -/
  | linkRetry (d : Nat)
  /-- The ECC of the stack corrected an error at an address. -/
  | dramCorrected (pa : Nat)
  /-- The sector of an address has become uncorrectable in its stack. -/
  | dramData (pa : Nat)
  /-- The sector of the parity granule that covers an address has become uncorrectable. -/
  | dramParity (pa : Nat)
  /-- One of the two copies of the entry that remaps the row of an address has become uncorrectable. -/
  | remapCopy (pa : Nat) (second : Bool)
deriving DecidableEq, Repr

/-- What a broadcast packet answers (R325): for a read each element with its request id, global index and poison, for a write each
channel with the number of elements it has written. -/
inductive PacketAnswer
  | element (id index : Nat) (poison : Bool) (data : List Byte)
  | written (id stack channel count : Nat)
deriving DecidableEq, Repr

/-- What the hardware reports to the management firmware (R292, R332). -/
inductive Report
  | linkLost
  | remapLost (stack channel : Nat)
deriving DecidableEq, Repr

/-- The whole package. -/
structure State where
  tick : Nat
  now : Nat
  inputs : List Instr
  turn : Nat
  seqs : FMap Seq
  cores : FMap Core
  clusters : FMap Cluster
  dies : FMap Die
  baseDies : FMap Stack
  parts : FMap Part
  mem : Memory
  memPoison : FMap Bool
  lineTags : FMap (Nat × Nat)
  lines : FMap LineState
  stored : FMap StoredLine
  moved : FMap Moved
  /-- Writes by agents that do not wait, which their home holds: of a frozen frame until it has moved, of a row until it has been copied
(R331, R334). -/
  held : List HeldWrite
  asidTable : Nat
  /-- Base of the peer table in system-partition memory (R409). -/
  peerTable : Nat
  ports : FMap Port
  requests : List Req
  streams : FMap Stream
  colls : List Coll
  collCounts : List (Nat × Nat × Nat × Nat)
  launches : FMap Launch
  tlb : FMap (List TlbEntry)
  life : LifeState
  svn : BitVec 32
  m0 : List Byte
  bootFailed : Bool
  /-- By number: thermal 0 to 127, droop events from 128 on, process monitors from 192 on (R398). -/
  monitors : FMap Nat
  islands : FMap Nat
  ceilings : FMap Nat
  powerLimit : Nat
  powerAvg : Nat
  hostLines : FMap Bool
  backInval : FMap Bool
  /-- Sectors of device memory, by address / 32, that their stack cannot correct; the same of parity granules, by stripe × 8 +
  sector (R322). -/
  dramBad : FMap Bool
  parityBad : FMap Bool
  /-- Hardware errors yet to strike, in order (log 115). -/
  upsets : List Upset
  /-- The answers of the last broadcast packet from outside the cores (R325). -/
  answers : List PacketAnswer
  /-- What the hardware has reported to the firmware, the latest last. -/
  reports : List Report
  /-- The device keys are in the fuses (R392). -/
  keys : Bool
deriving DecidableEq, Repr

/-- The machine right after reset: every SRAM zero, HBM wiped, no launch (R391, R392); the values the spec does
not give are those of notes/assumptions rows 2 to 11. -/
def State.reset : State where
  tick := 0
  now := 0
  inputs := []
  turn := 0
  seqs := []
  cores := []
  clusters := []
  dies := []
  baseDies := []
  parts := []
  mem := []
  memPoison := []
  lineTags := []
  lines := []
  stored := []
  moved := []
  held := []
  asidTable := 0x7700000000
  peerTable := 0x7710000000
  ports := []
  requests := []
  streams := []
  colls := []
  collCounts := []
  launches := []
  tlb := []
  life := .production
  svn := 0
  m0 := []
  bootFailed := false
  monitors := []
  islands := []
  ceilings := []
  powerLimit := 2400
  powerAvg := 0
  hostLines := []
  backInval := []
  dramBad := []
  parityBad := []
  upsets := []
  answers := []
  reports := []
  keys := true

end Sys2Proof.Machine
end

