-- ==== Sys2Proof/Machine/Access.lean ====
section
/-!
DEFINITION. Sys2Proof/Machine/Access.lean: every read and write of a part of the state goes through the
operations of this file: the records of the units (R3), the register files (R28, R116), bytes in little-endian
order (R4).
-/

namespace Sys2Proof.Machine

open Sys2Proof

/-- Core number of a sequencer (R3). -/
def coreOf (q : Nat) : Nat := q / 4
/-- Cluster number, die × 16 + cluster, of a sequencer (R3). -/
def clusterOf (q : Nat) : Nat := q / 64
/-- Die of a sequencer (R3). -/
def dieOf (q : Nat) : Nat := q / 1024

/-- The record of a sequencer. -/
def State.seq (s : State) (q : Nat) : Seq := FMap.get Seq.idle s.seqs q
/-- Replaces the record of a sequencer. -/
def State.setSeq (s : State) (q : Nat) (x : Seq) : State := { s with seqs := FMap.put s.seqs q x }
/-- Changes the record of a sequencer. -/
def State.modSeq (s : State) (q : Nat) (f : Seq → Seq) : State := s.setSeq q (f (s.seq q))

/-- The record of a core. -/
def State.core (s : State) (c : Nat) : Core := FMap.get ({} : Core) s.cores c
/-- Replaces the record of a core. -/
def State.setCore (s : State) (c : Nat) (x : Core) : State := { s with cores := FMap.put s.cores c x }
/-- Changes the record of a core. -/
def State.modCore (s : State) (c : Nat) (f : Core → Core) : State := s.setCore c (f (s.core c))

/-- The record of a cluster. -/
def State.cluster (s : State) (c : Nat) : Cluster := FMap.get ({} : Cluster) s.clusters c
/-- Replaces the record of a cluster. -/
def State.setCluster (s : State) (c : Nat) (x : Cluster) : State :=
  { s with clusters := FMap.put s.clusters c x }
/-- Changes the record of a cluster. -/
def State.modCluster (s : State) (c : Nat) (f : Cluster → Cluster) : State := s.setCluster c (f (s.cluster c))
/-- The scratchpad side of a cluster. -/
def State.pad (s : State) (c : Nat) : Pad := (s.cluster c).pad
/-- Changes the scratchpad side of a cluster. -/
def State.modPad (s : State) (c : Nat) (f : Pad → Pad) : State :=
  s.modCluster c fun k => { k with pad := f k.pad }

/-- The record of a die. -/
def State.die (s : State) (d : Nat) : Die := FMap.get ({} : Die) s.dies d
/-- Changes the record of a die. -/
def State.modDie (s : State) (d : Nat) (f : Die → Die) : State := { s with dies := FMap.put s.dies d (f (s.die d)) }

/-- The record of a stack. -/
def State.stack (s : State) (k : Nat) : Stack := FMap.get ({} : Stack) s.baseDies k
/-- Changes the record of a stack. -/
def State.modStack (s : State) (k : Nat) (f : Stack → Stack) : State :=
  { s with baseDies := FMap.put s.baseDies k (f (s.stack k)) }

/-- The record of a partition. -/
def State.part (s : State) (p : Nat) : Part := FMap.get Part.fresh s.parts p
/-- Changes the record of a partition. -/
def State.modPart (s : State) (p : Nat) (f : Part → Part) : State :=
  { s with parts := FMap.put s.parts p (f (s.part p)) }

/-- Key of the launch of partition `p` with sequence number `n`. -/
def launchKey (p n : Nat) : Nat := p * 2 ^ 32 + n
/-- The launch of a partition with a sequence number, if the model holds one. -/
def State.launch? (s : State) (p n : Nat) : Option Launch := FMap.find? s.launches (launchKey p n)
/-- Changes a launch, if there is one. -/
def State.modLaunch (s : State) (p n : Nat) (f : Launch → Launch) : State :=
  match s.launch? p n with
  | some l => { s with launches := FMap.put s.launches (launchKey p n) (f l) }
  | none => s

/-- The record of a port. -/
def State.port (s : State) (k : Nat) : Port := FMap.get Port.fresh s.ports k
/-- Changes the record of a port. -/
def State.modPort (s : State) (k : Nat) (f : Port → Port) : State :=
  { s with ports := FMap.put s.ports k (f (s.port k)) }

/-- Error counter of a die, saturating at 2^32 - 1 (R315). -/
def State.countDie (s : State) (d off : Nat) : State :=
  s.modDie d fun x => { x with counters := FMap.set 0 x.counters off (Nat.min (2 ^ 32 - 1) (FMap.get 0 x.counters off + 1)) }

/-! ### Registers -/

/-- Reads an a-register; a0 reads zero (R116). -/
def Seq.getA (x : Seq) (r : Reg) : Word := if r = 0 then 0 else FMap.get 0 x.a r.toNat
/-- Writes an a-register; a result for a0 is discarded (R28). -/
def Seq.setA (x : Seq) (r : Reg) (v : Word) : Seq := if r = 0 then x else { x with a := FMap.set 0 x.a r.toNat v }
/-- Reads an s-register; s0 reads zero (R116). -/
def Seq.getS (x : Seq) (r : Reg) : Word := if r = 0 then 0 else FMap.get 0 x.s r.toNat
/-- A later result for the register of an append block whose first time has not arrived overtakes it (R359). -/
def dropTime (r : Reg) (l : List Append) : List Append := l.map fun e => if e.reg = r then { e with reg := 0 } else e
/-- Writes an s-register; a result for s0 is discarded (R28). -/
def Seq.setS (x : Seq) (r : Reg) (v : Word) : Seq :=
  if r = 0 then x else { x with s := FMap.set 0 x.s r.toNat v, appends := dropTime r x.appends }

/-! ### Bytes -/

/-- The `n` low bytes of a number, least significant first (R4). -/
def toBytes : Nat → Nat → List Byte
  | 0, _ => []
  | n + 1, v => BitVec.ofNat 8 v :: toBytes n (v / 256)

/-- The number whose bytes are given, least significant first (R4). -/
def ofBytes : List Byte → Nat
  | [] => 0
  | b :: rest => b.toNat + 256 * ofBytes rest

/-- Bytes that the spec leaves open, from place `k` on (log 13). -/
def State.freeBytes (s : State) (k n : Nat) : List Byte := (List.range n).map fun i => Config.freeByte s.tick (k + i)

/-- `n` bytes of storage from an address on. -/
def readBytes (m : Memory) (a : Nat) : Nat → List Byte
  | 0 => []
  | n + 1 => FMap.get 0 m a :: readBytes m (a + 1) n

/-- Writes bytes to storage from an address on, keeping its canonical form. -/
def writeBytes (m : Memory) (a : Nat) : List Byte → Memory
  | [] => m
  | b :: rest => writeBytes (FMap.set 0 m a b) (a + 1) rest

/-- A number stored at an address, little-endian. -/
def readNat (m : Memory) (a n : Nat) : Nat := ofBytes (readBytes m a n)

/-- Sets or clears the poison bits of `n` consecutive keys. -/
def setBits (m : FMap Bool) (k : Nat) (v : Bool) : Nat → FMap Bool
  | 0 => m
  | n + 1 => setBits (FMap.set false m k v) (k + 1) v n

/-- The first of `n` consecutive keys whose bit is set. -/
def firstBit (m : FMap Bool) (k : Nat) : Nat → Option Nat
  | 0 => none
  | n + 1 => if FMap.get false m k then some k else firstBit m (k + 1) n

/-- The first number below `n` that passes a test, from `k` on. -/
def firstFrom (p : Nat → Bool) (k : Nat) : Nat → Option Nat
  | 0 => none
  | n + 1 => if p k then some k else firstFrom p (k + 1) n

/-- Number of one bits among the low `n` bits. -/
def popBits : Nat → Nat → Nat
  | 0, _ => 0
  | n + 1, v => v % 2 + popBits n (v / 2)

/-- The bit positions set among the low `n` bits, ascending, from position `k`. -/
def bitsSet (k : Nat) : Nat → Nat → List Nat
  | 0, _ => []
  | n + 1, v => if v % 2 = 1 then k :: bitsSet (k + 1) n (v / 2) else bitsSet (k + 1) n (v / 2)

/-- Bits [hi:lo] of a word as a number. -/
def fld (w : Word) (lo width : Nat) : Nat := w.toNat / 2 ^ lo % 2 ^ width

end Sys2Proof.Machine
end

