-- ==== Sys2Proof/Machine/Hash.lean ====
section
/-!
DEFINITION. Sys2Proof/Machine/Hash.lean: Hash64 (04_numbers.md R115), the flit check (21_fabric.md R406) and
SHAKE256, which the spec names and FIPS 202 defines (19_launch_tenancy.md R374, R393, R395; log 15).
-/

namespace Sys2Proof.Machine

open Sys2Proof

/-- Hash64 of R115. -/
def hash64 (x y : Word) : Word :=
  let z := x ^^^ ((y + 0x9E3779B97F4A7C15) * 0xBF58476D1CE4E5B9)
  let z := (z ^^^ (z >>> 31)) * 0x94D049BB133111EB
  z ^^^ (z >>> 29)

/-- One bit of the CRC-64 of R406: polynomial 0x42F0E1EBA9EA3693, most significant bit first. -/
def crcBit (c : BitVec 64) : BitVec 64 := if c.msb then (c <<< 1) ^^^ 0x42F0E1EBA9EA3693 else c <<< 1

/-- One byte of the CRC. -/
def crcByte (c : BitVec 64) (b : Byte) : BitVec 64 :=
  let c := c ^^^ ((b.setWidth 64) <<< 56)
  crcBit (crcBit (crcBit (crcBit (crcBit (crcBit (crcBit (crcBit c)))))))

/-- The check of a flit over its bytes: initial value all ones, result inverted (R406). -/
def crc64 (bytes : List Byte) : BitVec 64 := ~~~ (bytes.foldl crcByte (BitVec.allOnes 64))

/-- The state of the sponge as five sheets: sheet `x` holds the lanes `(x, 0)` to `(x, 4)`. -/
abbrev Sheets := List (List (BitVec 64))

/-- A sheet by its number modulo 5. -/
def sheet (s : Sheets) (x : Nat) : List (BitVec 64) := s.getD (x % 5) []
/-- A lane. -/
def laneAt (s : Sheets) (x y : Nat) : BitVec 64 := (sheet s x).getD y 0
/-- Replaces a lane. -/
def putLane (s : Sheets) (x y : Nat) (v : BitVec 64) : Sheets := s.set x ((sheet s x).set y v)

/-- The parities of the columns of a sheet, all rows together. -/
def sheetParity (s : Sheets) (x : Nat) : BitVec 64 := (sheet s x).foldr (· ^^^ ·) 0

/-- Mixes into every lane the parities of its neighbour sheets. -/
def mixColumns (s : Sheets) : Sheets :=
  (List.range 5).map fun x =>
    (sheet s x).map (· ^^^ (sheetParity s (x + 4) ^^^ (sheetParity s (x + 1)).rotateLeft 1))

/-- Moves the lanes along the walk (x, y) → (y, 2x + 3y) from step `t` on, each turned by the triangular number of its step: the
offsets and the places in one. Lane (0, 0) does not move. -/
def moveLanes (old : Sheets) : Nat → Nat → Nat → Nat → Sheets → Sheets
  | 0, _, _, _, s => s
  | n + 1, t, x, y, s =>
    let y2 := (2 * x + 3 * y) % 5
    moveLanes old n (t + 1) y y2 (putLane s y y2 ((laneAt old x y).rotateLeft ((t + 1) * (t + 2) / 2 % 64)))

/-- The row step: each lane with the two that follow it in its row. -/
def mixRows (s : Sheets) : Sheets :=
  (List.range 5).map fun x =>
    ((sheet s x).zip ((sheet s (x + 1)).zip (sheet s (x + 2)))).map fun e => e.1 ^^^ (e.2.2 &&& ~~~ e.2.1)

/-- The next state of the generator of the round constants, x^8 + x^6 + x^5 + x^4 + 1. -/
def nextConst (r : BitVec 8) : BitVec 8 := if r.msb then (r <<< 1) ^^^ 0x71 else r <<< 1

/-- Adds `n` generator bits to lane (0, 0) at the places p, 2p + 1, 4p + 3 and so on; the generator goes on. -/
def addConst : Nat → Nat → BitVec 8 → Sheets → Sheets × BitVec 8
  | 0, _, r, s => (s, r)
  | n + 1, p, r, s =>
    addConst n (2 * p + 1) (nextConst r) (if r.getLsbD 0 then putLane s 0 0 (laneAt s 0 0 ^^^ (1 <<< p)) else s)

/-- `n` rounds of the permutation of 1,600 bits, the generator of the constants going on from one to the next. -/
def permuteRounds : Nat → BitVec 8 → Sheets → Sheets
  | 0, _, s => s
  | n + 1, r, s =>
    let a := mixColumns s
    let (b, r) := addConst 7 0 r (mixRows (moveLanes a 24 0 1 0 a))
    permuteRounds n r b

/-- The permutation. -/
def permute1600 (s : Sheets) : Sheets := permuteRounds 24 1 s

/-- Adds a block of 136 bytes, 17 lanes, into the state: its lane `i` is lane (i mod 5, i / 5). -/
def addBlock (s : Sheets) (block : List Byte) : Sheets :=
  (List.range 17).foldl (fun (s : Sheets) i =>
    putLane s (i % 5) (i / 5) (laneAt s (i % 5) (i / 5) ^^^ BitVec.ofNat 64 (ofBytes ((block.drop (8 * i)).take 8)))) s

/-- Takes whole blocks into the state; the fuel bounds their number. -/
def takeBlocks : Nat → Sheets → List Byte → Sheets
  | 0, s, _ => s
  | n + 1, s, bytes =>
    match bytes with
    | [] => s
    | _ => takeBlocks n (permute1600 (addBlock s (bytes.take 136))) (bytes.drop 136)

/-- The padded input of SHAKE256. -/
def shakePad (m : List Byte) : List Byte :=
  let k := 136 - m.length % 136
  if k = 1 then m ++ [0x9F] else m ++ [0x1F] ++ List.replicate (k - 2) 0 ++ [0x80]

/-- The first 136 bytes of SHAKE256 output. -/
def shake256 (m : List Byte) : List Byte :=
  let p := shakePad m
  let s := takeBlocks (p.length / 136) (List.replicate 5 (List.replicate 5 0)) p
  ((List.range 17).map fun i => toBytes 8 (laneAt s (i % 5) (i / 5)).toNat).flatten

end Sys2Proof.Machine
end

