-- ==== Sys2Proof/Machine/Requests.lean ====
section
/-!
DEFINITION. Sys2Proof/Machine/Requests.lean: the regions of the physical address map (15_package_memory.md R316) and what one
package sends beyond its own memory: flits, credits and the replay buffer (21_fabric.md R406 to R409), and requests to peer windows
and to the host window (19_launch_tenancy.md R389, 21_fabric.md R410, R411).
-/

namespace Sys2Proof.Machine

open Sys2Proof

/-- First address past device memory (R316). -/
def deviceTop : Nat := 0x7800000000
/-- First address of the host window (R316). -/
def hostBase : Nat := 0x1000000000000
/-- First address of the peer windows (R316). -/
def peerBase : Nat := 0x4000000000000

/-- The regions of the physical address map (R316). -/
inductive Region
  | device
  | host
  | peer (p : Nat)
  | registers
  | none
deriving DecidableEq, Repr

/-- The region of a physical address (R316). -/
def regionOf (pa : Nat) : Region :=
  if pa < deviceTop then .device
  else if hostBase ≤ pa ∧ pa < 0x2000000000000 then .host
  else if peerBase ≤ pa ∧ pa < 0x8000000000000 then .peer ((pa - peerBase) / 2 ^ 40)
  else if 0xF000000000000 ≤ pa ∧ pa < 0xF000100000000 then .registers
  else .none

/-- The port number that stands for the host attach in a request. -/
def hostPort : Nat := 18

/-- Entry `p` of the peer table, 8 bytes of system-partition memory (R409, log 7). -/
def State.peerEntry (s : State) (p : Nat) : Word := BitVec.ofNat 64 (ofBytes (readBytes s.mem (s.peerTable + 8 * p) 8))

/-- The numbers of the entries of the peer table that are not zero, ascending. -/
def State.peerNumbers (s : State) : List Nat :=
  ((s.mem.filter fun e => decide (s.peerTable ≤ e.1 ∧ e.1 < s.peerTable + 8 * 1024)).map fun e => (e.1 - s.peerTable) / 8).eraseDups

/-- The first valid entry of the peer table with a property. -/
def State.findPeer (s : State) (f : Word → Bool) : Option Word := (s.peerNumbers.map s.peerEntry).find? fun e => e.getLsbD 0 && f e

/-- This package's id: that of the peer-table entry with self set (R409); 0 where none is. -/
def State.selfPackage (s : State) : Nat :=
  match s.findPeer fun e => e.getLsbD 34 with
  | some e => fld e 19 10
  | none => 0

/-- Pads with zero bytes, or cuts, to `n` bytes. -/
def padTo (n : Nat) (l : List Byte) : List Byte := (l ++ List.replicate n 0).take n

/-- A flit of 256 bytes (R406). -/
def mkFlit (type seq freed src dst : Nat) (payload : List Byte) : List Byte :=
  let h := type + 16 * seq + 2 ^ 16 * freed + 2 ^ 24 * src + 2 ^ 34 * dst
  let body := toBytes 8 h ++ padTo 240 payload
  body ++ toBytes 8 (crc64 body).toNat

/-- A flit leaves a port: it returns the freed buffers; but for an acknowledgement, which is not replayed, it takes the next sequence
number and enters the replay buffer; types 1 to 3 spend a credit (R406 to R408). -/
def State.emitFlit (s : State) (k type dst : Nat) (payload : List Byte) : State :=
  let p := s.port k
  let f := mkFlit type p.txSeq (Nat.min 255 p.freed) s.selfPackage dst payload
  s.modPort k fun p =>
    if type = 4 then { p with freed := p.freed - 255, lastAck := f }
    else
      { p with
        txSeq := (p.txSeq + 1) % 4096
        freed := p.freed - 255
        credits := if type ≤ 3 then p.credits - 1 else p.credits
        replay := p.replay ++ [(p.txSeq, f)] }

/-- Whether a port may send one more flit of a type: it has room in its replay buffer and, for types 1 to 3, a credit (R407, R408). -/
def Port.maySend (p : Port) (type : Nat) : Bool := decide (p.replay.length < 512 ∧ (3 < type ∨ p.credits ≠ 0))

/-- The type, the destination and the payload of a flit that waits to be sent. -/
def waitingFlit (w : List Byte) : Nat × Nat × List Byte := (ofBytes (w.take 4) % 16, ofBytes (w.take 4) / 16, w.drop 4)

/-- Sends a flit on a port; one that the replay buffer has no room for, or of types 1 to 3 without a credit, waits its turn
(R407, R408). -/
def State.sendFlit (s : State) (k type dst : Nat) (payload : List Byte) : State :=
  let p := s.port k
  if !p.maySend type ∨ (type ≤ 3 ∧ p.waiting ≠ []) then
    s.modPort k fun p => { p with waiting := p.waiting ++ [toBytes 4 (type + 16 * dst) ++ payload] }
  else s.emitFlit k type dst payload

/-- Sends what waits, in order, while it may; a control flit passes those that wait for credits. The fuel is the number of waiting
flits. -/
def State.flush (s : State) (k : Nat) : Nat → State
  | 0 => s
  | n + 1 =>
    let p := s.port k
    match p.waiting.findIdx? fun w => p.maySend (waitingFlit w).1 with
    | none => s
    | some i =>
      let w := waitingFlit (p.waiting.getD i [])
      State.flush ((s.modPort k fun p => { p with waiting := p.waiting.eraseIdx i }).emitFlit k w.1 w.2.1 w.2.2) k n

/-- The ports of a peer's entry, ascending (R409). -/
def peerPorts (e : Word) : List Nat := bitsSet 0 18 (fld e 1 18)

/-- The port of a request to a peer address: PA[14:7] mod the number of ports set (R409). -/
def portFor (e : Word) (pa : Nat) : Option Nat :=
  let ps := peerPorts e
  if ps.isEmpty then none else ps[(pa / 128 % 256) % ps.length]?

/-- Payload of a request flit (R408). -/
def requestPayload (op attr tag len offset : Nat) (data : List Byte) : List Byte :=
  toBytes 1 op ++ toBytes 1 attr ++ toBytes 2 tag ++ toBytes 1 len ++ toBytes 3 0 ++ toBytes 8 offset
    ++ List.replicate 16 0 ++ padTo 128 data

/-- The port that makes a request to a peer address fail at once: 0xFF for a peer without a port, else the port that is down
(R411); none where the request can be sent. -/
def State.lostPort (s : State) (pa : Nat) : Option Nat :=
  match regionOf pa with
  | .peer pn =>
    match portFor (s.peerEntry pn) pa with
    | none => some 0xFF
    | some k => if (s.port k).down then some k else none
  | _ => none

/-- Notes a committed store of a sequencer that failed: its cause and TVAL wait for a fence, release, mark or k.end; the first
stands (R411). -/
def State.noteFailed (s : State) (q : Nat) (e : Nat × Word) : State :=
  s.modSeq q fun x => if x.peerErr.isNone then { x with peerErr := some e } else x

/-- A record store that fails clears the sampling enable and raises nothing (R232). -/
def State.stopSampling (s : State) (q : Nat) : State :=
  s.modSeq q fun x => { x with csr := { x.csr with sampctl := x.csr.sampctl &&& ~~~(1 : Word) } }

/-- A request that fails at once: a sequencer's write is noted as failed, others hold the answer (R411). -/
def State.refuseRequest (s : State) (o : Owner) (r : Req) (k : Nat) : State :=
  match o, r.write with
  | .seq q, true => s.noteFailed q (20, BitVec.ofNat 64 k)
  | .sample q, true => s.stopSampling q
  | .other, true => s
  | .undo _, true => s
  | _, _ => { s with requests := s.requests ++ [{ r with answer := some (.lost k) }] }

/-- The ASID of an owner's access, where it has one. -/
def State.ownerAsid (s : State) : Owner → Option Nat
  | .seq q => some (s.seq q).cur.asid
  | .sample q => some (s.seq q).cur.asid
  | .log q => some (s.seq q).cur.asid
  | .engine c k => ((s.cluster c).cmds.find? fun m => m.id == k).map EngCmd.asid
  | .undo _ => none
  | .other => none

/-- Sends one request within a 128-byte line of a peer window or of the host window. A peer without a working
port answers lost at once (R411). -/
def State.request (s : State) (o : Owner) (pa len : Nat) (write : Bool) (attr : Nat) (bytes : List Byte)
    (va : Nat := 0) : State :=
  let mk (k t : Nat) : Req :=
    { owner := o, port := k, tag := t, pa := pa, len := len, write := write, bytes := bytes, va := va, attr := attr, asid := s.ownerAsid o }
  match s.lostPort pa with
  | some k => s.refuseRequest o (mk k 0) k
  | none =>
    let k := match regionOf pa with | .peer pn => (portFor (s.peerEntry pn) pa).getD hostPort | _ => hostPort
    let t := (s.port k).nextTag
    let s := s.modPort k fun p => { p with nextTag := (p.nextTag + 1) % 65536 }
    let s := { s with requests := s.requests ++ [mk k t] }
    match regionOf pa with
    | .peer pn =>
      s.sendFlit k 1 (fld (s.peerEntry pn) 19 10)
        (requestPayload (if write then 2 else 1) attr t len ((pa - peerBase) % 2 ^ 40) bytes)
    | _ => s

/-- Whether a physical address is reached by requests: the host and peer windows (R316). -/
def isRemote (pa : Nat) : Bool :=
  match regionOf pa with | .host => true | .peer _ => true | .device => false | .registers => false | .none => false

/-- Sends a write to a window. The model's copy of its bytes follows; those of a write that fails at once are open (log 5,
log 27). -/
def State.sendWrite (s : State) (o : Owner) (pa : Nat) (b : List Byte) (attr va : Nat) : State :=
  { (s.request o pa b.length true attr b va) with
    mem := writeBytes s.mem pa (if (s.lostPort pa).isSome then s.freeBytes 0 b.length else b) }

/-- The read request of an owner that covers [pa, pa + n). -/
def State.findReq (s : State) (o : Owner) (pa n : Nat) : Option Req :=
  s.requests.find? fun r => r.owner == o && !r.write && decide (r.pa ≤ pa ∧ pa + n ≤ r.pa + r.len)

/-- Forgets the answered reads of an owner. -/
def State.dropReads (s : State) (o : Owner) : State :=
  match s.requests with
  | [] => s
  | _ => { s with requests := s.requests.filter fun r => !(r.owner == o && !r.write) }

/-- Whose order an owner's requests keep: the records of sampled units are stores of their sequencer (R232). -/
def Owner.main : Owner → Owner
  | .sample q => .seq q
  | .seq q => .seq q
  | .engine c k => .engine c k
  | .log q => .log q
  | .undo p => .undo p
  | .other => .other

/-- Whether an owner has writes not yet answered. -/
def State.writesOpen (s : State) (o : Owner) : Bool :=
  s.requests.any fun r => r.owner.main == o && r.write && r.answer.isNone

/-- The writes of a sequencer that have left its store buffer for a window and are not yet performed. -/
def State.sent (s : State) (q : Nat) : List Req :=
  s.requests.filter fun r => r.owner.main == .seq q && r.write && r.answer.isNone

/-- Whether a sequencer has stores that are not yet performed. -/
def State.storesOpen (s : State) (q : Nat) : Bool := !(s.seq q).stores.isEmpty || s.writesOpen (.seq q)

/-- Whether a write is an SO store's (R408). -/
def Req.so (r : Req) : Bool := r.attr % 4 == 1
/-- Whether a write is a strong store's: it acquires and releases (R146, R408). -/
def Req.strong (r : Req) : Bool := r.attr / 4 % 4 == 3

end Sys2Proof.Machine
end

