-- ==== Sys2Proof/Machine/BaseDie.lean ====
section
/-!
DEFINITION. Sys2Proof/Machine/BaseDie.lean: the stacks behind the die caches: the map of device memory, channels, parity and rebuilding,
the row-remap tables, compressed lines, and the filling and writing back of a line (15_package_memory.md R317 to R333).
-/

namespace Sys2Proof.Machine

open Sys2Proof

/-! ### Where an address lies (R317, R319) -/

/-- Where a granule of device memory lies (R319). -/
structure Place where
  group : Nat
  stack : Nat
  channel : Nat
  parityChannel : Nat
  pc : Nat
  bg : Nat
  bank : Nat
  row : Nat
  col : Nat
deriving DecidableEq, Repr

/-- Map of R319. -/
def mapPa (pa : Nat) : Place :=
  let g := pa / 256
  let st := g / 15
  let sl := g % 15
  let n (k : Nat) : Nat := st / 2 ^ k % 16
  let grp := n 0 ^^^ n 4 ^^^ n 8 ^^^ n 12 ^^^ n 16 ^^^ n 20 ^^^ (st / 2 ^ 24 % 8)
  let u := st / 16
  let par := u % 16
  let ch := (par + 1 + sl) % 16
  { group := grp, stack := grp / 2, channel := 16 * (grp % 2) + ch, parityChannel := 16 * (grp % 2) + par
    pc := u / 4 % 2
    bg := (u / 8 % 4) ^^^ (u / 128 % 4)
    bank := (u / 32 % 4) ^^^ (u / 512 % 4)
    row := u / 128 % 2 ^ 16
    col := u % 4 }

/-- Home die of a physical address (R317). -/
def homeDie (pa : Nat) : Nat :=
  match regionOf pa with
  | .device => (mapPa pa).stack / 4
  | .host => pa / 4096 % 4 / 2
  | .peer _ => 0
  | .registers => 0
  | .none => 0

/-! ### Failed channels (R322) -/

/-- The 16 channels of a channel's parity group. -/
def groupMask (ch : Nat) : BitVec 32 := if ch < 16 then 0xFFFF else 0xFFFF0000

/-- A channel is declared failed; a second failed channel in its group of 16 makes the group lost for every failed one
(R322). -/
def Stack.failChannel (k : Stack) (ch : Nat) : Stack :=
  if 32 ≤ ch then k
  else
    let f := k.chfail ||| BitVec.ofNat 32 (2 ^ ch)
    let g := f &&& groupMask ch
    { k with chfail := f, chlost := if 2 ≤ popBits 32 g.toNat then k.chlost ||| g else k.chlost }

/-- A counter of 32 bits that saturates (log 90). -/
def bump (n : Nat) : Nat := Nat.min (2 ^ 32 - 1) (n + 1)

/-- Whether the granule of an address lies on a channel lost by a second failure in its group (R322). -/
def State.granuleLost (s : State) (pa : Nat) : Bool :=
  match s.baseDies with
  | [] => false
  | _ => let pl := mapPa pa; (s.stack pl.stack).chlost.getLsbD pl.channel

/-- Whether the die-to-die link is lost (R292). -/
def State.d2dLost (s : State) : Bool := (s.die 0).linkLost || (s.die 1).linkLost

/-! ### Parity (R320 to R322) -/

/-- The other data sectors that the parity sector of sector `k` covers: those at its offset in the granules of its stripe. -/
def mates (k : Nat) : List Nat := ((List.range 15).map fun i => (k / 120 * 15 + i) * 8 + k % 8).filter fun j => j != k

/-- The key of the parity sector that covers sector `k`: stripe × 8 + place in the granule. -/
def parityKey (k : Nat) : Nat := k / 120 * 8 + k % 8

/-- Whether a sector lies on a failed channel. -/
def State.onFailed (s : State) (k : Nat) : Bool :=
  match s.baseDies with
  | [] => false
  | _ => let pl := mapPa (32 * k); (s.stack pl.stack).chfail.getLsbD pl.channel

/-- Whether the base die can rebuild a sector: no other channel of its group has failed, and the sectors it must read are sound
(R322). -/
def State.rebuildable (s : State) (k : Nat) : Bool :=
  let pl := mapPa (32 * k)
  (s.stack pl.stack).chfail &&& groupMask pl.channel &&& ~~~ BitVec.ofNat 32 (2 ^ pl.channel) == 0
    && !((mates k).any fun j => FMap.get false s.dramBad j) && !FMap.get false s.parityBad (parityKey k)

/-- Whether a base die's read of a sector returns poison because neither the stack nor the parity yields it (R322). -/
def State.readFails (s : State) (k : Nat) : Bool :=
  match s.dramBad, s.baseDies with
  | [], [] => false
  | _, _ => (FMap.get false s.dramBad k || s.onFailed k) && !s.rebuildable k

/-- Whether a die cache holds a sector (R289). -/
def State.inCache (s : State) (k : Nat) : Bool := (FMap.get ({} : LineState) s.lines (k / 4)).valid.getLsbD (k % 4)

/-! ### The row-remap tables (R331, R332) -/

/-- The place in another channel of a place's stripe: the same cell there (R319). -/
def Place.within (pl : Place) (ch : Nat) : Place := { pl with channel := ch }

/-- Whether an entry remaps the row of a place. -/
def Remap.isAt (e : Remap) (pl : Place) : Bool := e.pc == pl.pc && e.bg == pl.bg && e.bank == pl.bank && e.row == pl.row

/-- The entry that remaps the row of a place, where its channel serves (R332). -/
def State.remapOf (s : State) (pl : Place) : Option Remap :=
  match s.baseDies with
  | [] => none
  | _ =>
    let k := s.stack pl.stack
    if k.chfail.getLsbD pl.channel then none else (FMap.get [] k.remap pl.channel).find? fun e => e.isAt pl

/-- Every access of a base die consults the table: a copy that cannot be corrected is repaired from the other; when both are lost
the channel fails, which is counted and reported (R332). -/
def State.consult (s : State) (pl : Place) : State :=
  match s.remapOf pl with
  | none => s
  | some e =>
    if e.bad0 && e.bad1 then
      let s1 := s.modStack pl.stack fun k => { (k.failChannel pl.channel) with remapfail := bump k.remapfail }
      { s1 with reports := s1.reports ++ [.remapLost pl.stack pl.channel] }
    else if e.bad0 || e.bad1 then
      s.modStack pl.stack fun k =>
        { k with remap := FMap.put k.remap pl.channel ((FMap.get [] k.remap pl.channel).map fun (r : Remap) =>
            if r.isAt pl then { r with bad0 := false, bad1 := false } else r) }
    else s

/-- A rebuild reads the sector in every channel of the group, and each of these accesses consults its table (R322, R332). -/
def State.consultGroup (s : State) (pl : Place) : State :=
  match s.baseDies with
  | [] => s
  | _ => (List.range 16).foldl (fun (s : State) i => s.consult (pl.within (pl.channel / 16 * 16 + i))) s

/-- Whether a base die must rebuild a sector of the line of an address: one is uncorrectable, or its channel has failed (R322). -/
def State.rebuilds (s : State) (pa : Nat) : Bool := s.onFailed (pa / 32) || (firstBit s.dramBad (pa / 128 * 4) 4).isSome

/-- Whether a row is being copied to its spare that holds the cell of an address in one of some channels (R331). -/
def State.heldIn (s : State) (pa : Nat) (meets : Place → Nat → Bool) : Bool :=
  match s.baseDies with
  | [] => false
  | _ =>
    let pl := mapPa pa
    let k := s.stack pl.stack
    k.rmBusy && meets pl (fld k.rmTarget 0 5) && fld k.rmTarget 5 1 == pl.pc && fld k.rmTarget 6 2 == pl.bg
      && fld k.rmTarget 8 2 == pl.bank && fld k.rmTarget 10 16 == pl.row

/-- Whether a read of the line of an address is held while a row it needs is copied: its own, and where a sector must be rebuilt that
of any channel of its group (R331). -/
def State.rowHeld (s : State) (pa : Nat) : Bool :=
  s.heldIn pa fun pl ch => ch == pl.channel || (s.rebuilds pa && ch / 16 == pl.channel / 16)

/-- Whether a write to the line of an address is held: it also reads and writes the parity granule (R321, R331). -/
def State.writeHeld (s : State) (pa : Nat) : Bool :=
  s.heldIn pa fun pl ch => ch == pl.channel || ch == pl.parityChannel || (s.rebuilds pa && ch / 16 == pl.channel / 16)

/-! ### Reading and writing a sector (R321, R322, R333) -/

/-- Counts poison returned or stored by the stack of a sector. -/
def State.countPoison (s : State) (k : Nat) : State :=
  s.modStack (mapPa (32 * k)).stack fun x => { x with poisoned := bump x.poisoned }

/-- Poisons `n` sectors from `k` on. -/
def State.poisonSectors (s : State) (k n : Nat) : State := { s with memPoison := setBits s.memPoison k true n }

/-- Poisons `n` sectors from `k` on, counted at the stack (R328, R333). -/
def State.storePoison (s : State) (k n : Nat) : State := (s.poisonSectors k n).countPoison k

/-- A base die reads a sector: an uncorrectable one, or one of a failed channel, is rebuilt, written back in place and counted; the
answer says whether it cannot be and is poison (R322, R332). -/
def State.dieRead (s : State) (k : Nat) : State × Bool :=
  let s := s.consult (mapPa (32 * k))
  if FMap.get false s.dramBad k || s.onFailed k then
    let s := s.consultGroup (mapPa (32 * k))
    let t := { s with dramBad := FMap.set false s.dramBad k false }
    if s.rebuildable k then (t.modStack (mapPa (32 * k)).stack fun x => { x with rebuilt := bump x.rebuilt }, false)
    else (t.countPoison k, true)
  else (s, false)

/-- A base die reads a sector that is stored raw; one that it cannot rebuild is stored as poison (R322). -/
def State.readRaw (s : State) (k : Nat) : State :=
  match s.dieRead k with
  | (t, true) => t.poisonSectors k 1
  | (t, false) => if FMap.get false t.memPoison k then t.countPoison k else t

/-- The 15 data sectors that one parity sector covers. -/
def covered (k : Nat) : List Nat := (List.range 15).map fun i => (k / 120 * 15 + i) * 8 + k % 8

/-- The parity sector that covers sector `k` is read: an uncorrectable one is rebuilt from the 15 that it covers, where they are sound
and every channel of the group serves (R320, R322). -/
def State.scrubParity (s : State) (k : Nat) : State :=
  let pl := mapPa (32 * k)
  let s := s.consult (pl.within pl.parityChannel)
  if FMap.get false s.parityBad (parityKey k) then
    let s := s.consultGroup pl
    let x := s.stack pl.stack
    if x.chfail &&& groupMask pl.channel == 0 && !((covered k).any fun j => FMap.get false s.dramBad j) then
      { s with parityBad := FMap.set false s.parityBad (parityKey k) false }.modStack pl.stack fun x => { x with rebuilt := bump x.rebuilt }
    else s
  else s

/-- A base die writes a whole sector (R321, R322). The old data and the old parity are read and the sector is sound. On a failed
channel only the parity takes the data, as the XOR of the new data and the other 14, which makes it sound again where these can be
read. With the parity's channel failed, or the group lost, only the data is written. -/
def State.dieWrite (s : State) (k : Nat) : State :=
  let pl := mapPa (32 * k)
  let s := s.consult pl
  let x := s.stack pl.stack
  let sound (s : State) : State := { s with dramBad := FMap.set false s.dramBad k false }
  if s.onFailed k then
    if x.chfail.getLsbD pl.parityChannel || x.chlost &&& groupMask pl.channel != 0 then s
    else
      let s := s.consultGroup pl
      if (mates k).any fun j => FMap.get false s.dramBad j || s.onFailed j then s
      else { s with parityBad := FMap.set false s.parityBad (parityKey k) false }
  else if x.chfail.getLsbD pl.parityChannel || x.chlost &&& groupMask pl.channel != 0 then sound s
  else sound ((if FMap.get false s.dramBad k then (s.dieRead k).1 else s).scrubParity k)

/-- Counts a sector that is written as poison (R333). -/
def State.countStored (s : State) (k : Nat) : State := if FMap.get false s.memPoison k then s.countPoison k else s

/-! ### Compressed lines (R327 to R329) -/

/-- Width in bits of a width code (R320). -/
def widthBits : Nat → Option Nat
  | 0 => some 0 | 1 => some 2 | 2 => some 4 | 3 => some 8 | 4 => some 16 | _ => none

/-- The highest width code that a form and element size allow (R328). -/
def maxWidth (form esz : Nat) : Nat := if form = 1 then (if esz = 0 then 2 else 3) else (if esz = 0 then 3 else 4)

/-- Bytes of an element. -/
def esBytes (esz : Nat) : Nat := if esz = 0 then 4 else 8
/-- Bytes that a stored sector of form 1 or 2 covers. -/
def coverBytes (form : Nat) : Nat := if form = 1 then 128 else 64

/-- Decode of R328: the bytes that a stored sector covers; none when it is malformed. -/
def decodeSector (form : Nat) (st : StoredSector) : Option (List Byte) :=
  match widthBits st.width with
  | none => none
  | some d =>
    if maxWidth form st.esz < st.width then none
    else
      let e := esBytes st.esz
      let m := coverBytes form / e
      let v := ofBytes (padTo 32 st.bytes)
      let b := v % 2 ^ (8 * e)
      let t (j : Nat) : Nat :=
        let x := v / 2 ^ (8 * e + d * (j - 1)) % 2 ^ d
        if d ≠ 0 ∧ 2 ^ (d - 1) ≤ x then x + 2 ^ (8 * e) - 2 ^ d else x
      if v / 2 ^ (8 * e + d * (m - 1)) ≠ 0 then none
      else
        some ((List.range m).map fun j => toBytes e (if j = 0 then b else (b + t j) % 2 ^ (8 * e))).flatten

/-- The stored sector of one element size and width that represents bytes exactly, if there is one. -/
def encodeWith (form esz width : Nat) (b : List Byte) : Option StoredSector :=
  match widthBits width with
  | none => none
  | some d =>
    let e := esBytes esz
    let m := coverBytes form / e
    let x (j : Nat) : Nat := ofBytes ((b.drop (e * j)).take e)
    let body := (List.range m).foldl (fun a j =>
      if j = 0 then a else a + ((x j + 2 ^ (8 * e) - x 0) % 2 ^ d) * 2 ^ (8 * e + d * (j - 1))) (x 0)
    let st : StoredSector := { width := width, esz := esz, bytes := toBytes 32 body }
    if decodeSector form st = some (b.take (coverBytes form)) then some st else none

/-- The stored sector of a form: four-byte elements first, then the smallest width (R329). -/
def encodeSector (form : Nat) (b : List Byte) : Option StoredSector :=
  match (List.range (maxWidth form 0 + 1)).findSome? fun w => encodeWith form 0 w b with
  | some st => some st
  | none => (List.range (maxWidth form 1 + 1)).findSome? fun w => encodeWith form 1 w b

/-- A line stored raw, form 3, with the poison of each sector. -/
def rawLine (b : List Byte) (bad : Nat → Bool) : StoredLine :=
  { form := 3, sectors := (List.range 4).map fun j => { bytes := (b.drop (32 * j)).take 32, pois := bad j } }

/-- The stored form of a line with some of its sectors poisoned (R329). -/
def encodeLine (b : List Byte) (bad : Nat → Bool) : StoredLine :=
  if (List.range 4).any bad then rawLine b bad
  else if b.all (· == 0) then { form := 0 }
  else
    match encodeSector 1 b with
    | some st => { form := 1, sectors := [st] }
    | none =>
      match encodeSector 2 (b.take 64), encodeSector 2 (b.drop 64) with
      | some x, some y => { form := 2, sectors := [x, y] }
      | _, _ => rawLine b bad

/-- What a fill of sector `k` reads: the original bytes of the sectors that the stored sector covers, from the first of them
on; none when it is malformed. -/
def StoredLine.fill (l : StoredLine) (k : Nat) : Nat × Option (List Byte) :=
  match l.form with
  | 0 => (0, some (List.replicate 128 0))
  | 1 => (0, decodeSector 1 (l.sectors.getD 0 {}))
  | 2 => (2 * (k / 2), decodeSector 2 (l.sectors.getD (k / 2) {}))
  | _ => (k, some (padTo 32 (l.sectors.getD k {}).bytes))

/-- Sectors that a stored sector covers. -/
def StoredLine.cover (l : StoredLine) : Nat := match l.form with | 0 => 4 | 1 => 4 | 2 => 2 | _ => 1

/-- Which stored sector a fill of sector `k` needs. -/
def StoredLine.holds (l : StoredLine) (k : Nat) : Nat := match l.form with | 0 => 0 | 1 => 0 | 2 => k / 2 | _ => k

/-- Metadata of a stored sector: form in sector 0, width, element size and poison (R320). A line that no write back of a compressed
page has stored has form 0 while it is all zero and form 3, raw, else (log 67). -/
def State.metaOf (s : State) (k : Nat) : Byte :=
  BitVec.ofNat 8 (match FMap.find? s.stored (k / 4) with
    | none =>
      (if k % 4 = 0 ∧ !(readBytes s.mem (32 * k) 128).all (· == 0) then 3 else 0) + (if FMap.get false s.memPoison k then 128 else 0)
    | some l =>
      let x := l.sectors.getD (k % 4) {}
      if k % 4 = 0 ∧ l.lost then 128
      else (if k % 4 = 0 then l.form % 4 else 0) + 4 * (x.width % 8) + 32 * (x.esz % 2) + if x.pois then 128 else 0)

/-- The 32 bytes that a stack holds of a sector; those of a compressed line beyond its stored sectors are never read (R329, log 67). -/
def State.stackBytes (s : State) (k : Nat) : List Byte :=
  match FMap.find? s.stored (k / 4) with
  | none => readBytes s.mem (32 * k) 32
  | some l => padTo 32 (l.sectors.getD (k % 4) {}).bytes

/-- Byte-wise XOR of two runs of bytes. -/
def xorBytes (a b : List Byte) : List Byte := List.zipWith (· ^^^ ·) a b

/-- The parity sector that covers sector `k`: the XOR of the stripe's 15 data sectors, with their metadata as byte 32 (R320). -/
def State.parityOf (s : State) (k : Nat) : List Byte :=
  ((covered k).map fun j => s.stackBytes j ++ [s.metaOf j]).foldl xorBytes (List.replicate 33 0)

/-! ### Filling and writing back a line (R329) -/

/-- The 128 bytes that a line without a stored form holds raw, as the form a stack keeps of them. -/
def State.rawForm (s : State) (line : Nat) : StoredLine :=
  rawLine (readBytes s.mem (128 * line) 128) fun j => FMap.get false s.memPoison (4 * line + j)

/-- A sector of a line's home that could not be rebuilt is stored as poison; with sector 0 of a line that a compressed page reads the
form is lost (R322, log 67). -/
def State.loseStored (s : State) (line j : Nat) : State :=
  let l := (FMap.find? s.stored line).getD (s.rawForm line)
  { s with stored := FMap.put s.stored line (if j = 0 then { l with lost := true } else { l with
      sectors := l.sectors.set j { l.sectors.getD j {} with pois := true } }) }

/-- Poisons those of `n` sectors from `k` on that no die cache holds. -/
def State.poisonAbsent (s : State) (k n : Nat) : State :=
  (List.range n).foldl (fun (t : State) i => if s.inCache (k + i) then t else t.poisonSectors (k + i) 1) s

/-- What a fill of sector `k` of a line gets that its home stores in a form: the stored sector that covers it is read and decoded. One
that cannot be read is stored as poison, and poison goes to what it covers and the die cache does not hold (R322, R328, R329). -/
def State.fillStored (s : State) (line k : Nat) (l : StoredLine) : State :=
  let j := l.holds k
  let r := if j = 0 then (s, false) else s.dieRead (4 * line + j)
  let bad (s : State) (f : Nat) : State := (s.poisonSectors (4 * line + k) 1).poisonAbsent (4 * line + f) l.cover
  match l.fill k, r.2 with
  | (f, _), true => bad (r.1.loseStored line j) f
  | (f, none), false => (bad r.1 f).countPoison (4 * line + k)
  | (f, some b), false =>
    let s := { r.1 with mem := writeBytes r.1.mem (128 * line + 32 * k) ((b.drop (32 * (k - f))).take 32) }
    if (l.sectors.getD j {}).pois then (s.poisonSectors (4 * line + k) 1).countPoison (4 * line + k)
    else s.countStored (4 * line + k)

/-- Fills one sector of a line into its die cache. A line of a compressed page reads sector 0 first, which yields the form, then the
stored sector that covers the one wanted (R329). -/
def State.fillSector (s : State) (line k : Nat) (comp : Bool := false) : State :=
  let o := FMap.get ({} : LineState) s.lines line
  if o.valid.getLsbD k then s
  else
    let s := { s with lines := FMap.set {} s.lines line { o with valid := o.valid ||| BitVec.ofNat 4 (2 ^ k) } }
    match FMap.find? s.stored line, comp with
    | none, false => s.readRaw (4 * line + k)
    | o, _ =>
      match s.dieRead (4 * line) with
      | (s, true) => (s.loseStored line 0).poisonSectors (4 * line + k) 1
      | (s, false) =>
        match o with
        | none => if k = 0 then s.countStored (4 * line) else s.readRaw (4 * line + k)
        | some l => if l.lost then s.storePoison (4 * line + k) 1 else s.fillStored line k l

/-- Writes a line back: a line of a compressed page whole and encoded; of another the dirty sectors (R321, R329). What a lost granule
is sent is discarded: its next read returns poison (R322). -/
def State.writeBack (s : State) (line : Nat) : State :=
  let o := FMap.get ({} : LineState) s.lines line
  if o.dirty = 0 then s
  else if o.comp then
    let s1 := (List.range 4).foldl (fun (s : State) k => s.fillSector line k true) s
    let e := encodeLine (readBytes s1.mem (128 * line) 128) fun j => FMap.get false s1.memPoison (4 * line + j)
    let s2 := (List.range (Nat.max 1 e.sectors.length)).foldl (fun (s : State) j => (s.dieWrite (4 * line + j)).countStored (4 * line + j)) s1
    { s2 with
      stored := FMap.put s2.stored line e
      lines := FMap.set {} s2.lines line { valid := 0xF, dirty := 0, comp := true } }
  else
    let s1 := (bitsSet 0 4 o.dirty.toNat).foldl (fun (s : State) k => (s.dieWrite (4 * line + k)).countStored (4 * line + k)) s
    { s1 with lines := FMap.set {} s1.lines line { o with dirty := 0 } }

/-- Drops a line from its die cache with its link tag. -/
def State.dropLine (s : State) (line : Nat) : State :=
  { s with lines := FMap.erase s.lines line, lineTags := FMap.erase s.lineTags line }

/-- Whether a stack is in order: no channel has failed, no row is being remapped, and no entry of a remap table has a bad copy. -/
def Stack.calm (k : Stack) : Bool :=
  k.chfail == 0 && k.chlost == 0 && !k.rmBusy && k.remap.all fun e => e.2.all fun r => !r.bad0 && !r.bad1

/-- Whether no sector of device memory is out of order: none uncorrectable, poisoned or stored in a form, and every stack in order. -/
def State.calm (s : State) : Bool :=
  s.dramBad.isEmpty && s.stored.isEmpty && s.memPoison.isEmpty && s.baseDies.all fun e => e.2.calm

/-- Whether a copy of the entry that remaps the row of an address is bad (R332). -/
def State.remapBad (s : State) (pa : Nat) : Bool :=
  match s.remapOf (mapPa pa) with | none => false | some e => e.bad0 || e.bad1

/-- Whether a read of a sector must first fill it into the die cache, because the fill does more than deliver the bytes: the
sector must be rebuilt or decoded, poison is counted, a remap entry repaired, or its row is held (R322, R329, R331 to R333). On a
compressed page it needs sector 0 as well. -/
def State.mustFill (s : State) (k : Nat) (comp : Bool := false) : Bool :=
  !s.calm && !s.inCache k
    && ((FMap.find? s.stored (k / 4)).isSome || FMap.get false s.memPoison k || FMap.get false s.dramBad k || s.onFailed k
      || (comp && FMap.get false s.dramBad (k / 4 * 4)) || s.rowHeld (32 * k) || s.remapBad (32 * k))

/-- Whether a read of one sector by an agent of die `d` returns poison (R292, R320, R322): one that the die cache lacks may be
unreadable, and of a stored form the sector that covers it lost, malformed or poisoned. -/
def State.sectorBad (s : State) (d k : Nat) : Bool :=
  FMap.get false s.memPoison k || (s.d2dLost && homeDie (32 * k) != d)
    || (!s.inCache k && match FMap.find? s.stored (k / 4) with
      | none => s.readFails k
      | some l =>
        let j := l.holds (k % 4)
        l.lost || s.readFails (k / 4 * 4) || s.readFails (k / 4 * 4 + j) || (l.sectors.getD j {}).pois || (l.fill (k % 4)).2.isNone)

/-- The first poisoned sector that a read of `n` bytes by an agent of die `d` meets, as its address. -/
def State.badSector (s : State) (d pa n : Nat) : Option Nat :=
  (firstFrom (fun k => s.sectorBad d k) (pa / 32) ((pa + n - 1) / 32 + 1 - pa / 32)).map (32 * ·)

/-- A base die reads one of its sectors on its own: an uncorrectable one is rebuilt in place, or becomes poison. A raw sector that the
die cache holds stays uncorrectable until it is written back (R322, R333). -/
def State.scrubSector (s : State) (k : Nat) : State :=
  match s.dieRead k with
  | (t, false) => t
  | (t, true) =>
    match FMap.find? s.stored (k / 4) with
    | none => if s.inCache k then { t with dramBad := FMap.set false t.dramBad k true } else t.poisonSectors k 1
    | some l =>
      if k % 4 < Nat.max 1 l.sectors.length then (t.loseStored (k / 4) (k % 4)).poisonAbsent (k / 4 * 4 + k % 4 * l.cover) l.cover else t

/-- A base die reads a sector for a packet: nothing stays in the die cache that was not there (R325). -/
def State.packetSector (s : State) (comp : Bool) (k : Nat) : State :=
  if s.inCache k then s.scrubSector k else { (s.fillSector (k / 4) (k % 4) comp) with lines := s.lines }

/-- A read packet of elements at some addresses: each line touched writes its dirty sectors back, then the base dies read (R325). -/
def State.packetRead (s : State) (l : List Nat) (comp : Bool) : State :=
  match l with
  | [] => s
  | _ =>
    let s := ((l.map fun a => a / 128).eraseDups).foldl (fun (s : State) n => s.writeBack n) s
    if s.calm then s else ((l.map fun a => a / 32).eraseDups).foldl (fun (s : State) k => s.packetSector comp k) s

/-- Fills the sectors that [pa, pa + n) meets and that need it; a held row keeps the access waiting (R331). -/
def State.fillFor (s : State) (pa n : Nat) (comp : Bool := false) : State :=
  (List.range ((pa + n - 1) / 32 + 1 - pa / 32)).foldl (fun (s : State) i =>
    let k := pa / 32 + i
    if s.mustFill k comp && !s.rowHeld (32 * k) then s.fillSector (k / 4) (k % 4) comp else s) s

/-- Whether a sector that [pa, pa + n) meets must first be filled. -/
def State.needsFill (s : State) (pa n : Nat) (comp : Bool := false) : Bool :=
  !s.calm && (firstFrom (fun k => s.mustFill k comp) (pa / 32) ((pa + n - 1) / 32 + 1 - pa / 32)).isSome

end Sys2Proof.Machine
end

