-- ==== Sys2Proof/Machine/Storage.lean ====
section
/-!
DEFINITION. Sys2Proof/Machine/Storage.lean: the home's admission of a write (14_die.md R289 to R291; 15_package_memory.md R334;
16_ordering.md R341) and the scratchpad's storage (12_cluster.md R263, R264).
-/

namespace Sys2Proof.Machine

open Sys2Proof

/-- Where the bytes of a moved frame are now (R334, R335). -/
def State.redirect (s : State) (pa : Nat) : Nat :=
  match FMap.find? s.moved (pa / 4096) with
  | some m => if m.phase = 3 then m.dst + pa % 4096 else pa
  | none => pa

/-- The place that an address of a migrating frame names once and for all: from the freeze on its destination, for the writes that the
freeze holds are performed there (R334, R335). -/
def State.canon (s : State) (pa : Nat) : Nat :=
  match FMap.find? s.moved (pa / 4096) with
  | some m => if 2 ≤ m.phase then m.dst + pa % 4096 else pa
  | none => pa

/-- Whether the frame of an address is marked moved (R334). -/
def State.isMoved (s : State) (pa : Nat) : Bool :=
  match FMap.find? s.moved (pa / 4096) with
  | some m => m.phase == 3
  | none => false

/-- Whether writes to the frame of an address wait for its migration (R334). -/
def State.isFrozen (s : State) (pa : Nat) : Bool :=
  match FMap.find? s.moved (pa / 4096) with
  | some m => m.phase == 2
  | none => false

/-- Whether a write to an address must wait at its home: its frame is frozen, or a row is being copied (R331, R334). -/
def State.homeWaits (s : State) (pa : Nat) : Bool := s.isFrozen pa || s.writeHeld (s.redirect pa)

/-- The sectors of a line that `n` bytes from `pa` touch, as four bits. -/
def sectorBits (pa n : Nat) : BitVec 4 :=
  let f := pa % 128 / 32
  let l := (pa % 128 + n - 1) / 32
  BitVec.ofNat 4 ((2 ^ (l + 1) - 1) - (2 ^ f - 1))

/-- Marks written sectors of a line valid and dirty in its die cache (R290). -/
def markDirty (m : FMap LineState) (pa n : Nat) (comp : Bool) : FMap LineState :=
  let o := FMap.get ({} : LineState) m (pa / 128)
  let b := sectorBits pa n
  FMap.set {} m (pa / 128) { valid := o.valid ||| b, dirty := o.dirty ||| b, comp := o.comp || comp }

/-- Poison cleared by a write of whole sectors (R333): sectors of [pa, pa + n) covered whole. -/
def clearWhole (m : FMap Bool) (pa n : Nat) : FMap Bool :=
  let f := (pa + 31) / 32
  setBits m f false ((pa + n) / 32 - f)

/-- Notes a written line of a migrating frame in its dirty-line map (R334). -/
def State.noteMigration (s : State) (pa : Nat) : State :=
  match FMap.find? s.moved (pa / 4096) with
  | none => s
  | some m =>
    if m.phase = 1 then
      s.modStack m.stack fun k => { k with mgDirty := FMap.set false k.mgDirty (pa / 128) true }
    else s

/-- The die cache fills the sectors that a write covers only in part (R290). -/
def State.fillEnds (s : State) (pa n : Nat) (comp : Bool) : State :=
  if s.calm then s
  else
    let f := pa / 32
    let l := (pa + n - 1) / 32
    let s := if pa % 32 = 0 ∧ 32 ≤ n then s else s.fillSector (f / 4) (f % 4) comp
    if (pa + n) % 32 = 0 ∨ l = f then s else s.fillSector (l / 4) (l % 4) comp

/-- A write within one 128-byte line of device memory is performed at its home: a copy that the host holds is invalidated (R389), the
bytes change, the link tag clears (R291), poison of sectors written whole clears (R333). A line that is stored in a form stays one of a
compressed page, whoever writes it (R329). -/
def State.homeLine (s : State) (pa : Nat) (bytes : List Byte) (comp : Bool) : State :=
  let s := s.fillEnds pa bytes.length comp
  ({ s with
      lineTags := FMap.erase s.lineTags (pa / 128)
      hostLines := FMap.erase s.hostLines (pa / 128)
      backInval := FMap.erase s.backInval (pa / 128)
      mem := writeBytes s.mem pa bytes
      memPoison := clearWhole s.memPoison pa bytes.length
      lines := markDirty s.lines pa bytes.length (comp || (FMap.find? s.stored (pa / 128)).isSome) }).noteMigration pa

/-- The home admits a write within one 128-byte line. A frame that has moved to a peer or to the host is written there; a frozen one
keeps the write waiting until it has moved, and a row that is being copied until it has been (R331, R334, R335). -/
def State.admitBy (s : State) (o : Owner) (pa0 : Nat) (bytes : List Byte) (comp : Bool) : State :=
  let pa := s.redirect pa0
  if isRemote pa then s.sendWrite o pa bytes 0 0
  else if s.isFrozen pa || s.writeHeld pa then { s with held := s.held ++ [{ owner := o, pa := pa, bytes := bytes, comp := comp }] }
  else s.homeLine pa bytes comp

/-- The home admits a write within one line by an agent that does not wait for it. -/
def State.admitLine (s : State) (pa : Nat) (bytes : List Byte) (comp : Bool) : State := s.admitBy .other pa bytes comp

/-- The home admits a write of any bytes, line by line. The fuel is the number of bytes. -/
def State.admitFuel : Nat → State → Nat → List Byte → Bool → State
  | 0, s, _, _, _ => s
  | n + 1, s, pa, bytes, comp =>
    match bytes with
    | [] => s
    | _ =>
      let k := 128 - pa % 128
      State.admitFuel n (s.admitLine pa (bytes.take k) comp) (pa + k) (bytes.drop k) comp

/-- The writes that homes hold are tried again, in order: what still has to wait is held again (R331, R334). -/
def State.releaseHeld (s : State) : State :=
  s.held.foldl (fun (s : State) h => s.admitBy h.owner h.pa h.bytes h.comp) { s with held := [] }

/-- Whether writes of an undo of a partition's launch are still to be performed (R335, R403). -/
def State.undoOpen (s : State) (p : Nat) : Bool := s.writesOpen (.undo p) || s.held.any fun h => h.owner == .undo p

/-- The home admits a write of any bytes. -/
def State.admitWrite (s : State) (pa : Nat) (bytes : List Byte) (comp : Bool := false) : State :=
  State.admitFuel bytes.length s pa bytes comp

/-- Reads device memory through its home, following a moved frame. -/
def State.readPhys (s : State) (pa n : Nat) : List Byte := readBytes s.mem (s.redirect pa) n

/-- A little-endian number of device memory. -/
def State.readPhysNat (s : State) (pa n : Nat) : Nat := ofBytes (s.readPhys pa n)

/-! ### Scratchpad storage -/

/-- P(o) of R264 for one byte. -/
def rotate (rot r o : Nat) : Nat :=
  let bank := (o / 32 % 64 + rot * r) % 64
  o / 2048 * 2048 + bank * 32 + o % 32

/-- Reads `n` scratchpad bytes of a row under its rotation. -/
def Pad.read (p : Pad) (rot r o : Nat) : Nat → List Byte
  | 0 => []
  | n + 1 => FMap.get 0 p.sp (rotate rot r o) :: Pad.read p rot r (o + 1) n

/-- Writes scratchpad bytes of a row under its rotation. -/
def Pad.write (p : Pad) (rot r o : Nat) : List Byte → Pad
  | [] => p
  | b :: rest => Pad.write { p with sp := FMap.set 0 p.sp (rotate rot r o) b } rot r (o + 1) rest

/-- The first poisoned 32-byte unit that `n` bytes of a row meet, as the byte offset at which it is met. -/
def Pad.bad (p : Pad) (rot r o n : Nat) : Option Nat :=
  firstFrom (fun x => FMap.get false p.spPois (rotate rot r x / 32)) o n

/-- Clears the poison of every 32-byte unit that [o, o + n) of a row covers whole (R275, R286). -/
def Pad.clear (p : Pad) (rot r o : Nat) : Nat → Pad
  | 0 => p
  | n + 1 =>
    if o % 32 = 0 ∧ 31 ≤ n then
      Pad.clear { p with spPois := FMap.set false p.spPois (rotate rot r o / 32) false } rot r (o + 1) n
    else Pad.clear p rot r (o + 1) n

/-- Region words of a scratchpad (R266): base line, lines, format, geometry, scale kind, delta. -/
def Pad.regionWord (p : Pad) (k : Nat) : Word := FMap.get 0 p.region k

/-- Whether a region word covers a line (R266). -/
def regionCovers (w : Word) (line : Nat) : Bool :=
  decide (fld w 11 12 ≠ 0 ∧ fld w 0 11 ≤ line ∧ line < fld w 0 11 + fld w 11 12)

/-- The lowest-numbered valid region that covers a line (R266); none in an implicit raw region. -/
def Pad.regionOfLine (p : Pad) (line : Nat) : Option Nat :=
  match p.region with
  | [] => none
  | _ => firstFrom (fun k => regionCovers (p.regionWord k) line) 0 16

/-- Whether two lines and every line between them lie in one region, explicit or implicit (R266). -/
def Pad.sameRegion (p : Pad) (l1 l2 : Nat) : Bool :=
  match p.region with
  | [] => true
  | _ => (firstFrom (fun l => p.regionOfLine l != p.regionOfLine l1) l1 (l2 + 1 - l1)).isNone

end Sys2Proof.Machine
end

