-- ==== Sys2Proof/Machine/Translate.lean ====
section
/-!
DEFINITION. Sys2Proof/Machine/Translate.lean: the generic address map and Translate (14_die.md R293 to R299;
06_sequencer_instructions.md R143; 19_launch_tenancy.md R387; 21_fabric.md R409, R410).
-/

namespace Sys2Proof.Machine

open Sys2Proof

/-! ### Attribute words (R294) -/

/-- perm of an entry. -/
def aPerm (w : Word) : Nat := fld w 0 2
/-- contig of an entry. -/
def aContig (w : Word) : Bool := w.getLsbD 2
/-- Element format code of an entry. -/
def aFmt (w : Word) : Byte := w.extractLsb' 3 8
/-- Scale kind of an entry: 1 is binary16. -/
def aSkind (w : Word) : Bool := w.getLsbD 11
/-- Address of the frame of an entry. -/
def aFrame (w : Word) : Nat := fld w 12 39 * 4096
/-- Block geometry of an entry. -/
def aGeom (w : Word) : Nat := fld w 51 2
/-- scale_delta of an entry. -/
def aDelta (w : Word) : Nat := fld w 53 5
/-- Ordering kind of an entry: 0 RC, 1 SO, 2 UO. -/
def aOrd (w : Word) : Nat := fld w 58 2
/-- Store kind of an entry: 0 plain, 1 compressed, 2 coded, 3 stream. -/
def aStore (w : Word) : Nat := fld w 60 2
/-- Escape class of an entry: 1 host-visible, 2 peer-visible, 3 sealed. -/
def aEsc (w : Word) : Nat := fld w 62 2

/-- The kind of an access as Translate sees it (R296). -/
inductive Acc | read | write | fetch
deriving DecidableEq, Repr

/-- A translation: physical address, attributes, and the run of virtual addresses [base, limit) that the entry
maps, whose base block scales count from (R105). -/
structure Xlat where
  pa : Nat
  attr : Word
  base : Nat
  limit : Nat
  /-- The address that was translated. -/
  va : Nat := 0
deriving DecidableEq, Repr

/-- An ASID entry (R293): its four words. -/
structure AsidEntry where
  w0 : Word
  ranges : Nat
deriving DecidableEq, Repr

/-- The ASID entry of an ASID, as it lies in memory (R293). -/
def State.asidEntry (s : State) (asid : Nat) : AsidEntry where
  w0 := BitVec.ofNat 64 (s.readPhysNat (s.asidTable + 32 * asid) 8)
  ranges := s.readPhysNat (s.asidTable + 32 * asid + 8) 8

/-- Whether an ASID may be used. -/
def AsidEntry.valid (e : AsidEntry) : Bool := e.w0.getLsbD 0
/-- Whether an ASID is sealed. -/
def AsidEntry.sealed (e : AsidEntry) : Bool := e.w0.getLsbD 1
/-- Range entries in use. -/
def AsidEntry.nranges (e : AsidEntry) : Nat := fld e.w0 7 5
/-- Physical address of the top-level table. -/
def AsidEntry.root (e : AsidEntry) : Nat := fld e.w0 12 39 * 4096

/-- Reads one 8-byte entry of a table through the die cache: cause 5 outside device memory, 19 from a poisoned
sector (R296). -/
def State.readEntry (s : State) (d pa : Nat) : Except Nat Word :=
  if deviceTop ≤ pa then .error 5
  else if (s.badSector d pa 8).isSome then .error 19
  else .ok (BitVec.ofNat 64 (s.readPhysNat pa 8))

/-- The lowest-numbered range entry that holds `va`, searched from entry `r` on (R295, R296). -/
def State.findRange (s : State) (d : Nat) (e : AsidEntry) (va r : Nat) : Nat → Except Nat (Option Xlat)
  | 0 => .ok none
  | n + 1 =>
    let at_ := e.ranges + 32 * r
    match s.readEntry d at_, s.readEntry d (at_ + 8), s.readEntry d (at_ + 16), s.readEntry d (at_ + 24) with
    | .ok b, .ok l, .ok o, .ok a =>
      if b.toNat ≤ va ∧ va < l.toNat then
        .ok (some { pa := (va + o.toNat) % 2 ^ 64, attr := a, base := b.toNat, limit := l.toNat, va := va })
      else State.findRange s d e va (r + 1) n
    | .error c, _, _, _ => .error c
    | _, .error c, _, _ => .error c
    | _, _, .error c, _ => .error c
    | _, _, _, .error c => .error c

/-- A leaf entry of a level as a translation (R294, R296). -/
def leafOf (p : Word) (level va : Nat) : Except Nat Xlat :=
  if level = 0 && aContig p then
    if aFrame p / 4096 % 16 ≠ va / 4096 % 16 then .error 5
    else .ok { pa := aFrame p + va % 4096, attr := p, base := va / 65536 * 65536, limit := va / 65536 * 65536 + 65536, va := va }
  else
    let size := 2 ^ (12 + 9 * level)
    if aFrame p % size ≠ 0 then .error 5
    else .ok { pa := aFrame p + va % size, attr := p, base := va / size * size, limit := va / size * size + size, va := va }

/-- Whether the 16 entries of a 64 KiB page disagree in a field other than PA[15:12] of the frame (R294); `t` is their table. -/
def State.mixedPage (s : State) (t va : Nat) : Bool :=
  let e (j : Nat) : Word := BitVec.ofNat 64 (s.readPhysNat (t + 8 * (va / 65536 % 32 * 16 + j)) 8) &&& ~~~ 0xF000
  (List.range 16).any fun j => e j != e 0

/-- What a leaf gives. The translation of a 64 KiB page whose entries disagree is open: a free frame of device memory, which the
partition's ranges then confine, and free attributes (R6, R294, log 24). -/
def State.leaf (s : State) (p : Word) (t level va : Nat) : Except Nat Xlat :=
  match leafOf p level va with
  | .error c => .error c
  | .ok x =>
    if level = 0 && aContig p && s.mixedPage t va then
      let w : Word := BitVec.ofNat 64 (ofBytes (s.freeBytes (8 * va) 8))
      .ok { x with pa := aFrame w % deviceTop + va % 4096, attr := w }
    else .ok x

/-- The walk of R296 from a table of level `level`. -/
def State.walk (s : State) (d va : Nat) : Nat → Nat → Except Nat Xlat
  | level, t =>
    match s.readEntry d (t + 8 * (if level = 3 then va / 2 ^ 39 % 2 ^ 17 else va / 2 ^ (12 + 9 * level) % 512)) with
    | .error c => .error c
    | .ok p =>
      if aPerm p = 0 then .error 4
      else if aPerm p = 2 then
        if p.toNat / 4 % 2 ^ 10 ≠ 0 ∨ p.toNat / 2 ^ 51 ≠ 0 then .error 5
        else match level with
          | 0 => .error 5
          | l + 1 => State.walk s d va l (aFrame p)
      else if level = 3 then .error 5
      else s.leaf p t level va

/-- Whether a PA of device memory lies in one of the partition's physical ranges (R386, R387). Partition 0
covers all device memory. -/
def State.inRanges (s : State) (p pa : Nat) : Bool :=
  p == 0 || (List.range 8).any fun k =>
    let b := (FMap.get 0 (s.part p).cfg.words (8 + 2 * k)).toNat
    let l := (FMap.get 0 (s.part p).cfg.words (9 + 2 * k)).toNat
    decide (b ≤ pa ∧ pa < l)

/-- Whether every byte of [pa, pa + n) lies in the partition's physical ranges: its first does, and each byte at which one of the ranges
ends within it (R387). -/
def State.runInRanges (s : State) (p pa n : Nat) : Bool :=
  p == 0 || (s.inRanges p pa && (List.range 8).all fun k =>
    let l := (FMap.get 0 (s.part p).cfg.words (9 + 2 * k)).toNat
    !(decide (pa < l ∧ l < pa + n)) || s.inRanges p l)

/-- The first byte of [pa, pa + n) that lies in none of the partition's physical ranges (R387). -/
def State.outsideRanges (s : State) (p pa n : Nat) : Option Nat :=
  (pa :: (List.range 8).map fun k => (FMap.get 0 (s.part p).cfg.words (9 + 2 * k)).toNat).foldl (fun m a =>
    if pa ≤ a ∧ a < pa + n ∧ !s.inRanges p a then some (match m with | some b => Nat.min a b | none => a) else m) none

/-- SealCheck of R298. -/
def sealBad (sealed : Bool) (attr : Word) (pa : Nat) : Bool :=
  (aEsc attr == 3 && !sealed) ||
  (sealed && (aEsc attr == 1 || aEsc attr == 2 ||
    (match regionOf pa with | .host => true | .peer _ => true | .device => false | .registers => false | .none => false)))

/-- The checks that follow a translation: those of R296, the peer rules of R410 and the partition's physical
ranges (R387). `n` is the access's length. -/
def State.checkXlat (s : State) (sealed : Bool) (part n : Nat) (k : Acc) (x : Xlat) : Except Nat Xlat :=
  if aPerm x.attr = 0 then .error 4
  else if aPerm x.attr = 2 ∨ aOrd x.attr = 3 then .error 5
  else if k = .write ∧ aPerm x.attr ≠ 3 then .error 5
  else if k = .fetch ∧ (aFmt x.attr ≠ 0xFF ∨ aStore x.attr ≠ 0) then .error 5
  else
    match regionOf x.pa with
    | .none => .error 5
    | .registers => .error 5
    | r =>
      if regionOf (x.pa + n - 1) ≠ r then .error 5
      else if sealBad sealed x.attr x.pa then .error 22
      else
        match r with
        | .peer p =>
          let e := s.peerEntry p
          if aEsc x.attr ≠ 2 ∨ !e.getLsbD 0 ∨ e.getLsbD 34 ∨ deviceTop ≤ (x.pa - peerBase) % 2 ^ 40 then .error 5
          else .ok x
        | .device => if s.inRanges part x.pa && s.inRanges part (x.pa + n - 1) then .ok x else .error 5
        | _ => .ok x

/-- Translate by the tables as they stand (R296). `d` is the die whose walker reads them. -/
def State.translateFresh (s : State) (d asid part va n : Nat) (k : Acc) : Except Nat Xlat :=
  let e := s.asidEntry asid
  if (s.badSector d (s.asidTable + 32 * asid) 16).isSome then .error 19
  else if !e.valid then .error 5
  else
    match s.findRange d e va 0 (Nat.min 16 e.nranges) with
    | .error c => .error c
    | .ok (some x) => s.checkXlat e.sealed part n k x
    | .ok none =>
      match s.walk d va 3 e.root with
      | .error c => .error c
      | .ok x => s.checkXlat e.sealed part n k x

/-- Key of a cluster's buffer beside those of the cores. -/
def clusterTlb (c : Nat) : Nat := 512 + c

/-- A cached translation that a core meets: in its own buffer, else in its cluster's (R299). -/
def State.cached (s : State) (core asid va : Nat) : Option TlbEntry :=
  let hit (t : TlbEntry) : Bool := t.asid == asid && decide (t.lo ≤ va ∧ va < t.hi)
  match s.tlb with
  | [] => none
  | _ =>
    match (FMap.get [] s.tlb core).find? hit with
    | some t => some t
    | none => (FMap.get [] s.tlb (clusterTlb (core / 16))).find? hit

/-- The part of [lo, hi) around an address that the ranges from entry `r` on leave to a translation which they do not give: up to the
range that holds the address, for the lowest-numbered range wins (R296). -/
def State.extent (s : State) (e : AsidEntry) (va r lo hi : Nat) : Nat → Nat × Nat
  | 0 => (lo, hi)
  | n + 1 =>
    let b := s.readPhysNat (e.ranges + 32 * r) 8
    let l := s.readPhysNat (e.ranges + 32 * r + 8) 8
    if b ≤ va ∧ va < l then (lo, hi)
    else if l ≤ b then State.extent s e va (r + 1) lo hi n
    else State.extent s e va (r + 1) (if l ≤ va then Nat.max lo l else lo) (if va < b then Nat.min hi b else hi) n

/-- The words of the range table that a translation reads, from entry `r` on, and whether one of the entries holds the address. -/
def State.rangeWords (s : State) (e : AsidEntry) (va r : Nat) : Nat → List Nat × Bool
  | 0 => ([], false)
  | n + 1 =>
    let at_ := e.ranges + 32 * r
    if s.readPhysNat at_ 8 ≤ va ∧ va < s.readPhysNat (at_ + 8) 8 then ([at_], true)
    else
      let rest := State.rangeWords s e va (r + 1) n
      (at_ :: rest.1, rest.2)

/-- The words of page tables that a walk reads from a table of level `level` on (R296). -/
def State.tableWords (s : State) (va : Nat) : Nat → Nat → List Nat
  | level, t =>
    let a := t + 8 * (if level = 3 then va / 2 ^ 39 % 2 ^ 17 else va / 2 ^ (12 + 9 * level) % 512)
    let p : Word := BitVec.ofNat 64 (s.readPhysNat a 8)
    a :: (if aPerm p = 2 then match level with | 0 => [] | l + 1 => State.tableWords s va l (aFrame p) else [])

/-- The addresses of the ASID entry, the range entries and the table entries that the translation of an address reads through the die
cache; none where a buffer serves it (R296, R299). -/
def State.walkAt (s : State) (core asid va : Nat) : List Nat :=
  match s.cached core asid va with
  | some t => if s.isMoved ((va + t.delta) % 2 ^ 64) then fresh else []
  | none => fresh
where
  /-- What a walk of the tables reads. -/
  fresh : List Nat :=
    let e := s.asidEntry asid
    let r := s.rangeWords e va 0 (Nat.min 16 e.nranges)
    (s.asidTable + 32 * asid) :: (r.1 ++ (if r.2 then [] else s.tableWords va 3 e.root)).filter fun a => decide (a < deviceTop)

/-- Whether a translation must wait until the table words it reads have been filled into a die cache (R322, R331 to R333). -/
def State.walkWaits (s : State) (core asid va : Nat) : Bool := !s.calm && (s.walkAt core asid va).any fun a => s.needsFill a 8

/-- Fills the table words that a translation reads. -/
def State.fillWalk (s : State) (core asid va : Nat) : State :=
  (s.walkAt core asid va).foldl (fun (s : State) a => s.fillFor a 8) s

/-- A write to a home that the lost die-to-die link cuts off raises cause 19, as a read of it does (R292, log 29). -/
def State.linkCut (s : State) (d : Nat) (k : Acc) (x : Xlat) : Except Nat Xlat :=
  if k = .write ∧ s.d2dLost ∧ regionOf x.pa = .device ∧ homeDie x.pa ≠ d then .error 19 else .ok x

/-- Translate for a core: a cached translation serves while it stays (R299, R300); a frame that answers moved is
walked again once (R334). -/
def State.translate (s : State) (core asid part va n : Nat) (k : Acc) : Except Nat Xlat :=
  let d := core / 256
  let r := match s.cached core asid va with
    | some t =>
      s.checkXlat t.sealed part n k { pa := (va + t.delta) % 2 ^ 64, attr := t.attr, base := t.base, limit := t.limit, va := va }
    | none => s.translateFresh d asid part va n k
  match r with
  | .error c => .error c
  | .ok x =>
    if s.isMoved x.pa then
      match s.translateFresh d asid part va n k with
      | .error c => .error c
      | .ok y => if s.isMoved y.pa then .error 5 else s.linkCut d k y
    else s.linkCut d k x

/-- The windows of the generic address map (R125, R143, R263, R296). -/
inductive Window
  | global
  | outside
  | pad
  | padBeyond
  | lane
deriving DecidableEq, Repr

/-- First generic address of the scratchpad window. -/
def padBase : Nat := 0xFFFFFF0000000000
/-- First generic address of the lane-private window. -/
def laneBase : Nat := 0xFFFFFF8000000000
/-- Bytes of the scratchpad (R263). -/
def padSize : Nat := 0x400000

/-- The window of a generic address. -/
def windowOf (ea : Nat) : Window :=
  if laneBase ≤ ea then .lane
  else if padBase + padSize ≤ ea then .padBeyond
  else if padBase ≤ ea then .pad
  else if 2 ^ 56 ≤ ea then .outside
  else .global

end Sys2Proof.Machine
end

