-- ==== Sys2Proof/Machine/Fetch.lean ====
section
/-!
DEFINITION. Sys2Proof/Machine/Fetch.lean: fetching the words of a unit (02_words_and_opcode_map.md R34,
14_die.md R297) and the program counter queue (05_sequencer.md R123, R124).
-/

namespace Sys2Proof.Machine

open Sys2Proof

/-- One word at a virtual address, or the cause of the fetch fault (R296, R297). A word whose sector is
poisoned faults with cause 19 (log 14). Bytes of the host and peer windows are the model's copy (log 5). -/
def State.fetchWord (s : State) (q : Nat) (va : Word) : Except Nat IWord :=
  if 2 ^ 56 ≤ va.toNat then .error 5
  else
    let x := s.seq q
    match s.translate (coreOf q) x.cur.asid x.cur.partition va.toNat 4 .fetch with
    | .error c => .error c
    | .ok t =>
      if (s.badSector (dieOf q) t.pa 4).isSome then .error 19
      else .ok (BitVec.ofNat 32 (s.readPhysNat t.pa 4))

/-- The words of the unit at `va`, at most `n` more, and the fault that stops them: its cause and address. -/
def State.fetchWords (s : State) (q : Nat) : Word → Nat → List IWord × Option (Nat × Word)
  | _, 0 => ([], none)
  | va, n + 1 =>
    match s.fetchWord q va with
    | .error c => ([], some (c, va))
    | .ok w =>
      if linkedWord w then
        let (ws, f) := State.fetchWords s q (va + 4) n
        (w :: ws, f)
      else ([w], none)

/-- The words of the unit at `va`: four at the most. A run whose fourth word is linked too is a bad convoy; where its extent counts,
for succ and for an annulled unit, the model ends it there, and its fifth word is never fetched (R34; log 106). -/
def State.fetchUnit (s : State) (q : Nat) (va : Word) : List IWord × Option (Nat × Word) := s.fetchWords q va 4

/-- succ of R123 for a unit that may be provisional: the next address, and whether it is provisional. -/
def State.succ (s : State) (q : Nat) (va : Word) (prov : Bool) : Word × Bool :=
  let (ws, f) := s.fetchUnit q va
  (va + BitVec.ofNat 64 (4 * Nat.max 1 ws.length), prov || f.isSome)

/-- How the queue moves when the unit at Q0 finishes (R123). -/
inductive Move
  /-- Not a branch. -/
  | on
  /-- A branch not taken that annuls nothing. -/
  | fall
  /-- A taken branch or jump; `annul` for nul 10. -/
  | taken (target : Word) (annul : Bool)
  /-- A branch not taken with nul 01. -/
  | annulBoth
  /-- The sequencer's queue has been set by the unit itself (k.eret, k.end). -/
  | set
deriving DecidableEq, Repr

/-- The queue after the unit at Q0, where `n` and `p` are succ(Q2) and whether it is provisional (R123). -/
def PcQueue.move (c : PcQueue) (n : Word) (p : Bool) : Move → PcQueue
  | .on =>
    { q0 := c.q1, q1 := c.q2, q2 := n, n0 := c.n1, n1 := false, prov1 := c.prov2, prov2 := p, d0 := c.d1, d1 := false }
  | .fall =>
    { q0 := c.q1, q1 := c.q2, q2 := n, n0 := c.n1, n1 := false, prov1 := c.prov2, prov2 := p, d0 := true, d1 := true }
  | .taken t a =>
    { q0 := c.q1, q1 := c.q2, q2 := t, n0 := a || c.n1, n1 := a, prov1 := c.prov2, prov2 := false
      d0 := true, d1 := true }
  | .annulBoth =>
    { q0 := c.q1, q1 := c.q2, q2 := n, n0 := true, n1 := true, prov1 := c.prov2, prov2 := p, d0 := true, d1 := true }
  | .set => c

/-- Moves the queue of a sequencer (R123). -/
def State.movePc (s : State) (q : Nat) (m : Move) : State :=
  let c := (s.seq q).pc
  let (n, p) := s.succ q c.q2 c.prov2
  s.modSeq q fun x => { x with pc := c.move n p m }

/-- A queue that begins at `e`: the unit and its two successors, nothing annulled (R14, R127). -/
def State.queueAt (s : State) (q : Nat) (e : Word) : PcQueue :=
  let (a, pa) := s.succ q e false
  let (b, pb) := s.succ q a pa
  { q0 := e, q1 := a, q2 := b, n0 := false, n1 := false, prov1 := pa, prov2 := pb }

/-- The link value of a jump at Q0: succ(succ(succ(Q0))), or the fetch fault of a delay-slot unit whose extent it
needs (R124): cause and address. -/
def State.linkValue (s : State) (q : Nat) : Except (Nat × Word) Word :=
  let u := (s.seq q).pc.q0
  let a := u + 4
  let (w1, f1) := s.fetchUnit q a
  match f1 with
  | some f => .error f
  | none =>
    let b := a + BitVec.ofNat 64 (4 * Nat.max 1 w1.length)
    let (w2, f2) := s.fetchUnit q b
    match f2 with
    | some f => .error f
    | none => .ok (b + BitVec.ofNat 64 (4 * Nat.max 1 w2.length))

/-- Where the code words at `pc` and after it lie, for those that translate, with the table words that their translations read. -/
def State.codeAt (s : State) (q : Nat) (pc : Word) : List Nat :=
  let x := s.seq q
  ((List.range 4).map fun i =>
    s.walkAt (coreOf q) x.cur.asid (pc.toNat + 4 * i) ++
      match s.translate (coreOf q) x.cur.asid x.cur.partition (pc.toNat + 4 * i) 4 .fetch with
      | .ok t => [t.pa]
      | .error _ => []).flatten

/-- Whether the unit at `pc` must wait until its words and the table words of its translation have been filled into a die cache
(R322, R331 to R333). -/
def State.codeWaits (s : State) (q : Nat) (pc : Word) : Bool := !s.calm && (s.codeAt q pc).any fun a => s.needsFill a 4

/-- Fills the words of the unit at `pc` and the table words it is translated by. -/
def State.fillCode (s : State) (q : Nat) (pc : Word) : State := (s.codeAt q pc).foldl (fun (s : State) a => s.fillFor a 4) s

end Sys2Proof.Machine
end

