-- ==== Sys2Proof/Machine/Log.lean ====
section
/-!
DEFINITION. Sys2Proof/Machine/Log.lean: the rewind log: rings, records, escapes, retiring windows and undo
(14_die.md R305 to R309; 19_launch_tenancy.md R388).
-/

namespace Sys2Proof.Machine

open Sys2Proof

/-- Word `k` of a launch packet (R371). -/
def Launch.word (l : Launch) (k : Nat) : Word := l.packet.getD k 0
/-- Entry address. -/
def Launch.entry (l : Launch) : Word := BitVec.ofNat 64 (fld (l.word 0) 0 56)
/-- Whether the launch raises the completion vector. -/
def Launch.irq (l : Launch) : Bool := (l.word 0).getLsbD 63
/-- Virtual address of the completion word. -/
def Launch.cwordVa (l : Launch) : Nat := fld (l.word 1) 0 56
/-- Rewind-log mode: 0 off, 1 debug, 2 recover. -/
def Launch.log (l : Launch) : Nat := fld (l.word 1) 56 2
/-- Deterministic flag. -/
def Launch.det (l : Launch) : Bool := (l.word 1).getLsbD 58
/-- Gang flag. -/
def Launch.gang (l : Launch) : Bool := (l.word 1).getLsbD 59
/-- Element count N. -/
def Launch.n (l : Launch) : Nat := fld (l.word 2) 0 40
/-- Budget in units of 65,536 cycles; 0 selects the partition's. -/
def Launch.budget (l : Launch) : Nat := fld (l.word 2) 40 24
/-- Prerequisite sequence numbers. -/
def Launch.prereq0 (l : Launch) : Nat := fld (l.word 3) 0 32
/-- Prerequisite sequence numbers. -/
def Launch.prereq1 (l : Launch) : Nat := fld (l.word 3) 32 32
/-- Argument `i`, sign-extended (R371). -/
def Launch.arg (l : Launch) (i : Nat) : Word :=
  ((BitVec.ofNat 32 (fld (l.word (4 + i / 2)) (32 * (i % 2)) 32)).signExtend 64)

/-- Word of a partition's configuration, by offset / 8 from 0x200 (R386). -/
def Part.cfgWord (p : Part) (k : Nat) : Word := FMap.get 0 p.cfg.words k

/-- Bytes of each of the two rings of a pair: an eighth of the Undercroft, halved (R388). -/
def State.ringCap (s : State) (p : Nat) : Nat := fld ((s.part p).cfgWord 4) 0 32 * 2 ^ 20 / 16

/-- First byte of the ring of die `d` in a ring pair of a partition (R388). -/
def State.ringBase (s : State) (p pair d : Nat) : Nat :=
  fld ((s.part p).cfgWord 3) 20 32 * 2 ^ 20 + (2 * pair + d) * s.ringCap p

/-- Writes bytes into a ring of a pair from an offset on, around its end: the log engine writes its storage at its home, as any agent
does (R291, R305, R389, log 86). -/
def State.ringPut (s : State) (p d : Nat) (pair : Option Nat) (pos : Nat) (b : List Byte) : State :=
  match pair with
  | none => s
  | some k =>
    let cap := s.ringCap p
    if cap = 0 then s
    else
      let base := s.ringBase p k d
      let o := pos % cap
      (s.admitWrite (base + o) (b.take (cap - o))).admitWrite base ((b.drop (cap - o)).take o)

/-- Whether a run of a ring cannot be read (R313, R315). -/
def State.ringBad (s : State) (p d : Nat) (pair : Option Nat) (pos n : Nat) : Bool :=
  match pair with
  | none => false
  | some k =>
    let cap := s.ringCap p
    if cap = 0 ∨ n = 0 then false
    else
      let base := s.ringBase p k d
      let o := pos % cap
      (s.badSector d (base + o) (Nat.min n (cap - o))).isSome
        || (decide (cap - o < n) && (s.badSector d base (n - (cap - o))).isSome)

/-- Records of a launch in the ring of a die, newest first. -/
def Launch.ring (l : Launch) (d : Nat) : List LogRec := if d = 0 then l.ring0 else l.ring1

/-- Bytes that the ring of a die holds or has promised (R305, R308). -/
def Launch.used (l : Launch) (d : Nat) : Nat :=
  ((l.ring d).map LogRec.size).sum + ((l.snaps.filter fun b => b.die == d).map fun b => b.size + b.beside).sum
    + (if d = 0 then l.reserved0 else l.reserved1)

/-- Retires every window below `w` (R308). -/
def Launch.retireBelow (l : Launch) (w : Nat) : Launch :=
  { l with
    ring0 := l.ring0.filter fun r => decide (w ≤ r.window)
    ring1 := l.ring1.filter fun r => decide (w ≤ r.window)
    snaps := l.snaps.filter fun b => decide (w ≤ b.window)
    oldest := Nat.max l.oldest w }

/-- Retires windows one by one, oldest first and never the current one, until `size` more bytes fit (R308). The
fuel is the number of windows that may go. -/
def Launch.retireFor (l : Launch) (cap d size : Nat) : Nat → Option Launch
  | 0 => if l.used d + size ≤ cap then some l else none
  | k + 1 => if l.used d + size ≤ cap then some l else Launch.retireFor (l.retireBelow (l.oldest + 1)) cap d size k

/-- The launch with room for `size` bytes in the ring of die `d`, or none: cause 13 (R308). -/
def Launch.room (l : Launch) (cap d size : Nat) : Option Launch :=
  if l.log = 2 then l.retireFor cap d size (l.winno - l.oldest)
  else if l.used d + size ≤ cap then some l else none

/-- Makes room in a launch's ring; a launch the model does not hold has no ring to fill. -/
def State.makeRoom (s : State) (p n d size : Nat) : Option State :=
  match s.launch? p n with
  | none => some s
  | some l =>
    match l.room (s.ringCap p) d size with
    | none => none
    | some l' => some { s with launches := FMap.put s.launches (launchKey p n) l' }

/-- Promises bytes of a ring to a store that has retired (R305, R308). -/
def State.reserve (s : State) (p n d size : Nat) : Option State :=
  (s.makeRoom p n d size).map fun s => s.modLaunch p n fun l =>
    if d = 0 then { l with reserved0 := l.reserved0 + size } else { l with reserved1 := l.reserved1 + size }

/-- Takes a promise back. -/
def State.unreserve (s : State) (p n d size : Nat) : State :=
  s.modLaunch p n fun l =>
    if d = 0 then { l with reserved0 := l.reserved0 - size } else { l with reserved1 := l.reserved1 - size }

/-- A location as a record's words name it: the die is that of the ring, so a scratchpad or lane-private location names the cluster
within it (R306). -/
def placeOf (space a : Nat) : Nat := match space with | 1 => a % 2 ^ 26 | 2 => a % 2 ^ 25 | _ => a

/-- The second header word of a record (R306): the address, as its space gives it. -/
def LogRec.place (r : LogRec) : Nat := if r.kind = 5 then r.addr % 16 + r.addr / 16 % 16 * 2 ^ 22 else placeOf r.space r.addr

/-- A record as its bytes stand in the ring (R306). -/
def LogRec.bytes (r : LogRec) : List Byte :=
  let counted := r.kind = 1 ∨ r.kind = 2 ∨ r.kind = 5 ∨ r.kind = 6
  let es := 2 ^ (r.extra / 2 ^ 16 % 4)
  padTo r.size
    (toBytes 8 (r.kind + 2 ^ 4 * r.space + 2 ^ 8 * r.writer + 2 ^ 19 * (if counted then r.old.length % 2 ^ 13 else 0) + 2 ^ 32 * r.window)
      ++ toBytes 8 r.place ++ toBytes 8 r.extra
      ++ (if r.kind = 4 then ((List.range (r.extra % 2 ^ 16)).map fun i => toBytes 8 (placeOf r.space (r.locs.getD (i * es) 0))).flatten else [])
      ++ r.old)

/-- Offset of the next byte of the ring of a die. -/
def Launch.pos (l : Launch) (d : Nat) : Nat := if d = 0 then l.pos0 else l.pos1

/-- The head of the ring of a die moves on. -/
def Launch.advance (l : Launch) (d n cap : Nat) : Launch :=
  if d = 0 then { l with pos0 := (l.pos0 + n) % cap } else { l with pos1 := (l.pos1 + n) % cap }

/-- Appends a record to the ring of a die, its bytes to the Undercroft (R305, R306). -/
def State.pushRec (s : State) (p n d : Nat) (r : LogRec) : State :=
  match s.launch? p n with
  | none => s
  | some l =>
    let r := { r with no := l.nextRec, pos := l.pos d }
    let l' := l.advance d r.size (s.ringCap p)
    (s.ringPut p d l.ringPair r.pos r.bytes).modLaunch p n fun _ =>
      if d = 0 then { l' with ring0 := r :: l.ring0, nextRec := l.nextRec + 1 } else { l' with ring1 := r :: l.ring1, nextRec := l.nextRec + 1 }

/-- Makes room and appends, or none: cause 13 (R308). -/
def State.appendRec (s : State) (p n d : Nat) (r : LogRec) : Option State :=
  (s.makeRoom p n d r.size).map fun s => s.pushRec p n d r

/-- Size of a record with `k` old bytes: 24 bytes and the data padded to 8 (R306). -/
def recSize (k : Nat) : Nat := 24 + (k + 7) / 8 * 8

/-- The third header word of a run: elements, log2 of their size, and the byte stride between them (R306). -/
def runExtra (count lg stride : Nat) : Nat := count % 2 ^ 16 + lg % 4 * 2 ^ 16 + stride % 2 ^ 32 * 2 ^ 32

/-- log2 of the largest element that a run of `n` bytes is made of. -/
def runLg (n : Nat) : Nat := if n % 8 = 0 then 3 else if n % 4 = 0 then 2 else if n % 2 = 0 then 1 else 0

/-- The third header word of a run of `n` consecutive bytes. -/
def flatExtra (n : Nat) : Nat := runExtra (n / 2 ^ runLg n) (runLg n) (2 ^ runLg n)

/-- The kind of a record of `n` consecutive bytes: a run where its length field cannot say so many (R306). -/
def runKind (kind n : Nat) : Nat := if kind = 1 ∧ 8192 ≤ n then 3 else kind

/-- The third header word of a record of `n` consecutive bytes. -/
def kindExtra (kind n : Nat) : Nat := if kind = 3 ∨ kind = 4 then flatExtra n else 0

/-- Size of a record of a kind: a scattered run lists its addresses (R306). -/
def kindSize (kind extra k : Nat) : Nat := recSize k + if kind = 4 then 8 * (extra % 2 ^ 16) else 0

/-- An escape record (R307): subkind, address and size. -/
def escapeRec (writer window sub addr size : Nat) : LogRec :=
  { kind := 7, space := 0, writer := writer, window := window, addr := addr, extra := sub + size * 2 ^ 32, size := 24 }

/-- A sequencer's launch keys: partition and sequence number. -/
def Seq.key (x : Seq) : Nat × Nat := (x.cur.partition, x.cur.seq)
/-- Whether a sequencer's launch logs. -/
def Seq.logs (x : Seq) : Bool := x.cur.log != 0

/-- Appends an escape record of a sequencer's launch before the escape takes effect, or none: cause 13 (R307,
R308). The record goes to the ring of the home die of `addr`. -/
def State.escape (s : State) (q d sub addr size : Nat) : Option State :=
  let x := s.seq q
  if x.logs then s.appendRec x.cur.partition x.cur.seq d (escapeRec q x.csr.winno.toNat sub addr size) else some s

/-- Location number of a lane-private byte: core, lane 0 to 31 and offset. -/
def laneLoc (c lane off : Nat) : Nat := c * 131072 + lane * 4096 + off
/-- Location number of a scratchpad byte: cluster and P(o). -/
def padLoc (c o : Nat) : Nat := c * 2 ^ 22 + o

/-- Whether a scratchpad byte of a cluster was live at the launch's last mark (R303, R304, R306): implicit regions
always are; a region 0 to 15 is when a snapshot of the current window on that cluster flags it. -/
def State.padLive (s : State) (p n c o : Nat) : Bool :=
  match (s.pad c).regionOfLine (o / 2048) with
  | none => true
  | some k =>
    match s.launch? p n with
    | none => true
    | some l => l.snaps.any fun b => b.window == l.winno && clusterOf b.q == c && b.flags.getLsbD k

/-- The bytes that locations of a space hold now. -/
def State.oldBytes (s : State) (space : Nat) (locs : List Nat) : List Byte :=
  match space with
  | 0 => locs.map fun a => FMap.get 0 s.mem (s.redirect a)
  | 1 => locs.map fun a => FMap.get 0 (s.pad (a / 2 ^ 22)).sp (a % 2 ^ 22)
  | _ => locs.map fun a => FMap.get 0 (s.core (a / 131072)).sram (a % 131072)

/-- The bytes at physical locations as their homes hold them: what reads of an owner have returned, else the model's own copy
(R305). -/
def State.homeBytes (s : State) (o : Owner) (locs : List Nat) : List Byte :=
  locs.map fun a =>
    let at_ := s.redirect a
    (s.requests.findSome? fun r =>
      match r.answer with
      | some (.data b) => if r.owner = o ∧ !r.write ∧ r.pa ≤ at_ ∧ at_ < r.pa + r.len then b[at_ - r.pa]? else none
      | some .done => none
      | some .refused => none
      | some .poison => none
      | some (.lost _) => none
      | none => none).getD (FMap.get 0 s.mem at_)

/-- Whether a sequencer that runs another range holds the lane group of a lane-private location now, one of the same launch too: what
the group holds is that one's own (R8). -/
def State.laneForeign (s : State) (p n range a : Nat) : Bool :=
  s.seqs.any fun e => e.2.live && e.1 / 4 == a / 131072 && e.2.grant.getLsbD (a % 131072 / 32768)
    && !(e.2.cur.partition == p && e.2.cur.seq == n && e.2.cur.start == range)

/-- Puts one old byte of a scratchpad or of lane-private SRAM back (R311, R313). -/
def State.undoByte (s : State) (p n space range a : Nat) (b : Byte) : State :=
  match space with
  | 1 => s.modPad (a / 2 ^ 22) fun d => { d with sp := FMap.set 0 d.sp (a % 2 ^ 22) b }
  | _ => if s.laneForeign p n range a then s else s.modCore (a / 131072) fun k => { k with sram := FMap.set 0 k.sram (a % 131072) b }

/-- Bytes at consecutive locations as runs. -/
def byteRuns : List (Nat × Byte) → List (Nat × List Byte)
  | [] => []
  | e :: rest =>
    match byteRuns rest with
    | [] => [(e.1, [e.2])]
    | r :: rs => if e.1 + 1 = r.1 then (e.1, e.2 :: r.2) :: rs else (e.1, [e.2]) :: r :: rs

/-- Writes old bytes back at a physical address, line by line; those of the host window, or of a frame that has moved there, go by
requests of the partition's undo (R335, R403). The fuel is the number of bytes. -/
def State.undoLines (p : Nat) : Nat → State → Nat → List Byte → State
  | 0, s, _, _ => s
  | n + 1, s, pa, bytes =>
    match bytes with
    | [] => s
    | _ =>
      let k := 128 - pa % 128
      State.undoLines p n (s.admitBy (.undo p) pa (bytes.take k) false) (pa + k) (bytes.drop k)

/-- Writes old bytes back at a physical address. -/
def State.undoWrite (s : State) (p pa : Nat) (bytes : List Byte) : State := State.undoLines p bytes.length s pa bytes

/-- Undoes one record of a launch: the old bytes return to their locations, those of the host window by requests; a region word
returns whole; escapes, marks and truncations undo nothing (R305 to R307). -/
def State.undoRec (p n : Nat) (s : State) (r : LogRec) : State :=
  if r.kind = 5 then
    s.modPad (r.addr / 16) fun p => { p with region := FMap.set 0 p.region (r.addr % 16) (BitVec.ofNat 64 (ofBytes r.old)) }
  else if r.space = 0 then (byteRuns (r.locs.zip r.old)).foldl (fun (s : State) e => s.undoWrite p e.1 e.2) s
  else (r.locs.zip r.old).foldl (fun (s : State) e => s.undoByte p n r.space r.range e.1 e.2) s

/-- Whether a record stays when windows from `w` on are undone: one of an earlier window, or the mark of `w` itself (R311). -/
def LogRec.stays (r : LogRec) (w : Nat) : Bool := decide (r.window < w) || (r.kind == 8 && r.window == w)

/-- Undoes every record of windows at or above `w` in both rings, newest first (R311). -/
def State.undoFrom (s : State) (p n w : Nat) : State :=
  match s.launch? p n with
  | none => s
  | some l =>
    let rs := (l.ring0.filter fun r => decide (w ≤ r.window)) ++ (l.ring1.filter fun r => decide (w ≤ r.window))
    (rs.foldl (State.undoRec p n) s).modLaunch p n fun l =>
      { l with
        ring0 := l.ring0.filter fun r => r.stays w
        ring1 := l.ring1.filter fun r => r.stays w
        snaps := l.snaps.filter fun b => decide (b.window ≤ w) }

/-- Consecutive locations from `a` on. -/
def locsFrom (a : Nat) : Nat → List Nat
  | 0 => []
  | n + 1 => a :: locsFrom (a + 1) n

/-! ### Snapshot blocks (R303) -/

/-- TSTATUS as it reads (R129). -/
def TrapRegs.tstatus (t : TrapRegs) : Word :=
  BitVec.ofNat 64 ((if t.inTrap then 1 else 0) + (if t.claimed then 2 else 0) + (if t.ie then 4 else 0)
    + (if t.pie then 8 else 0) + 16 * t.qpend.toNat + (if t.dbpend then 64 else 0))

/-- Values as a run of 8-byte entries. -/
def wordsBytes (l : List Word) : List Byte := (l.map fun w => toBytes 8 w.toNat).flatten

/-- The first 0x2C0 bytes of a block: what the sequencer itself holds (R303). -/
def Snap.headBytes (b : Snap) : List Byte :=
  let x := b.x
  let c := x.csr
  let f (v : Bool) (n : Nat) : Nat := if v then n else 0
  toBytes 8 (b.window % 2 ^ 32 + b.q * 2 ^ 32) ++ wordsBytes [b.vmask, b.flags, x.pc.q0, x.pc.q1, x.pc.q2]
    ++ toBytes 8 (f x.pc.n0 1 + f x.pc.n1 2 + f x.pc.prov1 4 + f x.pc.prov2 8 + 2 ^ 4 * x.grant.toNat + f b.holder 256
        + 2 ^ 16 * b.accFmt.toNat + 2 ^ 24 * (b.mvl % 128))
    ++ toBytes 8 c.units.toNat
    ++ wordsBytes ((List.range 32).map fun i => FMap.get 0 x.a i) ++ wordsBytes ((List.range 32).map fun i => FMap.get 0 x.s i)
    ++ wordsBytes [c.fctl, c.fflags.zeroExtend 64, BitVec.ofNat 64 c.vl, c.vtype, c.mskip, c.skipcnt, x.tr.tvec, x.tr.claimbase,
        x.tr.tstatus, x.tr.tcmp, c.sampctl, c.sampbase, c.dwbase, c.dwlen, 0, 0]

/-- The vector, matrix and Larder parts of a block (R303). -/
def Snap.coreBytes (b : Snap) : List Byte :=
  let gs := bitsSet 0 4 b.x.grant.toNat
  let acc (m : FMap (BitVec 32)) : List Byte := ((List.range 16384).map fun i => toBytes 4 (FMap.get 0 m i).toNat).flatten
  let set (m : FMap LarderSet) (i : Nat) : List Byte :=
    let t := FMap.get ({} : LarderSet) m i
    toBytes 8 (if t.valid then 1 else 0) ++ ((List.range 256).map fun j => toBytes 2 (t.freq.getD j 0)).flatten
  padTo 64 ((List.range 32).map fun l => (FMap.get 0 b.laneFlags l).zeroExtend 8)
    ++ ((List.range 32).map fun i => toBytes 16 (FMap.get 0 b.masks (8 * (i % 4) + i / 4)).toNat).flatten
    ++ ((bitsSet 0 32 b.vmask.toNat).map fun k => (gs.map fun g => toBytes 128 (FMap.get 0 b.vregs (32 * g + k)).toNat).flatten).flatten
    ++ (if b.holder && b.flags.getLsbD 17 then acc b.acc0 else []) ++ (if b.holder && b.flags.getLsbD 18 then acc b.acc1 else [])
    ++ (match b.larder with | some m => ((List.range 4).map (set m)).flatten | none => [])

/-- A block as its bytes stand in the ring (R303). -/
def Snap.bytes (b : Snap) : List Byte := padTo b.size (b.headBytes ++ b.coreBytes)

/-- The entries that a window pre-emption writes after a sequencer's block: the numbers of its pyramid and collective handles, then of
each its slot, serial and stream, or its slot, serial, state, reason, port and address (R383, log 40). -/
def Seq.handleBytes (x : Seq) : List Byte :=
  toBytes 8 x.handles.length ++ toBytes 8 x.chandles.length
    ++ (x.handles.map fun e => toBytes 8 (e.1 + 2 ^ 32 * e.2.serial) ++ toBytes 8 e.2.desc ++ toBytes 8 e.2.va.toNat).flatten
    ++ (x.chandles.map fun e => toBytes 8 (e.1 + 2 ^ 8 * e.2.serial + 2 ^ 32 * e.2.state + 2 ^ 40 * e.2.reason + 2 ^ 48 * e.2.port)
        ++ toBytes 8 e.2.addr.toNat).flatten

/-- A saved live region in the ring: its number, its region word, and its lines with their contents (R382, log 40). -/
def SavedRegion.ringBytes (r : SavedRegion) : List Byte :=
  toBytes 8 r.num ++ toBytes 8 r.word.toNat ++ (r.lines.map fun l => toBytes 8 l ++ readBytes r.bytes (2048 * l) 2048).flatten

/-- Bytes that a saved live region takes in the ring. -/
def SavedRegion.ringSize (r : SavedRegion) : Nat := 16 + 2056 * r.lines.length

/-- Whether the ring gets the saved live regions after a block: of a logging launch one block of a cluster stands for all (R382). -/
def Launch.leads (l : Launch) (b : Snap) : Bool :=
  l.log == 0 || !(l.snaps.any fun o => o.window == b.window && o.q != b.q && clusterOf o.q == clusterOf b.q && o.beside != 0)

/-- What a window pre-emption writes after a block (R382, R383). -/
def Snap.besideBytes (b : Snap) (lead : Bool) : List Byte :=
  b.x.handleBytes ++ if lead then (b.regions.map SavedRegion.ringBytes).flatten else []
/-- Bytes that a window pre-emption writes after a block. -/
def Snap.besideSize (b : Snap) (lead : Bool) : Nat :=
  16 + 24 * b.x.handles.length + 16 * b.x.chandles.length + if lead then (b.regions.map SavedRegion.ringSize).sum else 0

/-- Writes to the rings what a window pre-emption saves beside the blocks that some sequencers wrote for a window, or none where a ring
cannot take it (R308, R382, R383, log 40). -/
def State.putBeside (s : State) (p n window : Nat) : List Nat → Option State
  | [] => some s
  | q :: rest =>
    match s.launch? p n with
    | none => some s
    | some l =>
      match l.snaps.find? fun b => b.q == q && b.window == window with
      | none => State.putBeside s p n window rest
      | some b =>
        let size := b.besideSize (l.leads b)
        match s.makeRoom p n b.die size with
        | none => none
        | some s =>
          let pos := l.pos b.die
          let mark (o : Snap) : Snap := if o.q = q ∧ o.window = window then { o with beside := size, besidePos := pos } else o
          State.putBeside ((s.ringPut p b.die l.ringPair pos (b.besideBytes (l.leads b))).modLaunch p n fun l =>
            { l.advance b.die size (s.ringCap p) with snaps := l.snaps.map mark }) p n window rest

/-- Writes a snapshot block to its ring, with the mark's record that names it, or none when the ring cannot take them (R302, R303,
R306, R308). -/
def State.putSnap (s : State) (p n : Nat) (b : Snap) : Option State :=
  (s.makeRoom p n b.die (b.size + 24)).map fun s =>
    match s.launch? p n with
    | none => s
    | some l =>
      let b := { b with pos := l.pos b.die }
      let at_ := match l.ringPair with | some k => s.ringBase p k b.die + b.pos | none => 0
      ((s.ringPut p b.die l.ringPair b.pos b.bytes).modLaunch p n fun l =>
        { l.advance b.die b.size (s.ringCap p) with snaps := l.snaps ++ [b] }).pushRec p n b.die
          { kind := 8, space := 0, writer := b.q, window := b.window, addr := at_, size := 24 }

end Sys2Proof.Machine
end

