-- ==== Sys2Proof/Machine/Ports.lean ====
section
/-!
DEFINITION. Sys2Proof/Machine/Ports.lean: stores on their way out: writes to wherever a physical address lies, and the store buffer
(16_ordering.md R341, R346; 19_launch_tenancy.md R389).
-/

namespace Sys2Proof.Machine

open Sys2Proof

/-- Writes bytes to wherever a physical address lies: the home for device memory, a request for the windows; the
model's copy of window bytes follows (log 5, log 27). `attr` is the request's page kind with its acquire and release
bits. The fuel of the line split is the number of bytes. -/
def State.writeOutFuel : Nat → State → Owner → Nat → List Byte → Nat → Bool → Nat → State
  | 0, s, _, _, _, _, _, _ => s
  | n + 1, s, o, pa, bytes, attr, comp, va =>
    match bytes with
    | [] => s
    | _ =>
      let k := 128 - pa % 128
      let b := bytes.take k
      let at_ := s.redirect pa
      let s := if isRemote at_ then s.sendWrite o at_ b attr va else s.admitLine pa b comp
      State.writeOutFuel n s o (pa + k) (bytes.drop k) attr comp (va + k)

/-- Writes bytes to wherever a physical address lies. -/
def State.writeOut (s : State) (o : Owner) (pa : Nat) (bytes : List Byte) (attr : Nat) (comp : Bool)
    (va : Nat := 0) : State :=
  State.writeOutFuel bytes.length s o pa bytes attr comp va

/-- The lines of a logged store that lie outside the package, by their home address and length: escapes apart, the log engine
reads their old bytes at the home (R305). -/
def State.oldLines (s : State) (st : PStore) : List (Nat × Nat) :=
  match st.entry, st.pad with
  | some r, none =>
    if r.kind = 7 then []
    else
      (st.parts.map fun e =>
        (List.range ((e.1 + e.2.length - 1) / 128 + 1 - e.1 / 128)).map fun i =>
          let a := Nat.max e.1 (128 * (e.1 / 128 + i))
          (s.redirect a, Nat.min (e.1 + e.2.length) (128 * (e.1 / 128 + i + 1)) - a)).flatten.filter fun l => isRemote l.1
  | _, _ => []

/-- The state in which a sequencer's logged store waits while the log engine reads old bytes at their home; none when it need not
wait (R305). -/
def State.readOld (s : State) (q : Nat) (st : PStore) : Option State :=
  (s.oldLines st).findSome? fun l =>
    match s.findReq (.log q) l.1 l.2 with
    | none => some (s.request (.log q) l.1 l.2 false st.ord [])
    | some r => if r.answer.isNone then some s else none

/-- The record of a store whose turn has come goes to its ring, with the old bytes of its locations: those that it names, else
every byte it writes (R305, R306). -/
def State.logStore (s : State) (q : Nat) (st : PStore) : State :=
  let x := s.seq q
  match st.entry with
  | none => s
  | some r =>
    let d := match st.pad with | none => homeDie (st.parts.headD (0, [])).1 | some c => c / 16
    let locs := match st.pad with | none => (st.parts.map fun e => locsFrom e.1 e.2.length).flatten | some _ => r.locs
    (s.unreserve x.cur.partition x.cur.seq d r.size).pushRec x.cur.partition x.cur.seq d
      { r with locs := locs, old := if r.space = 0 then s.homeBytes (.log q) locs else s.oldBytes r.space locs }

/-- The bits of a store's request: its page's kind, with acquire and release for a strong one and release for a releasing one
(R408). -/
def PStore.attr (st : PStore) : Nat := st.ord + (if st.strong then 12 else if st.release then 8 else 0)

/-- A write packet: the lines touched are written back and dropped with their link tags, the base dies write the elements, and
nothing of them stays in the die cache (R325). -/
def State.packetWrite (s : State) (parts : List (Nat × List Byte)) (comp : Bool) : State :=
  let ls := ((parts.map fun e => s.redirect e.1).filter fun a => !isRemote a).map (· / 128) |>.eraseDups
  let away (s : State) : State := ls.foldl (fun (s : State) l => (s.writeBack l).dropLine l) s
  away (parts.foldl (fun (s : State) e => s.admitWrite e.1 e.2 comp) (away s))

/-- A store leaves its sequencer's store buffer: its log record is appended with the old bytes, then its writes
are admitted (R118, R305, R341), or a packet carries them; to a scratchpad they are performed. For a logging launch a read packet
precedes a write packet (R325). -/
def State.commitStore (s : State) (q : Nat) (st : PStore) : State :=
  let s := if st.packet && st.entry.isSome then s.packetRead (st.parts.map Prod.fst) st.comp else s
  let s := s.logStore q st
  match st.pad with
  | some c => st.parts.foldl (fun (s : State) e => s.modPad c fun p => p.write 0 0 e.1 e.2) s
  | none =>
    if st.packet then s.packetWrite st.parts st.comp
    else
    (st.parts.foldl (fun (t : State × Nat) e =>
      (t.1.writeOut (if st.sample then .sample q else .seq q) e.1 e.2 st.attr st.comp (st.vas.getD t.2 0), t.2 + 1)) (s, 0)).1

end Sys2Proof.Machine
end

