-- ==== Sys2Proof/Machine/Streams.lean ====
section
/-!
DEFINITION. Sys2Proof/Machine/Streams.lean: a pyramid stream at its home: the descriptor, the held spans as a function of
the append count, the combiners, slots, merged spans that wait to be written, and the resolution of a time
(17_pyramid.md R349 to R355, R363, R365).
-/

namespace Sys2Proof.Machine

open Sys2Proof

/-! ### The descriptor (R351) -/

/-- Bytes [o, o + n) of a string as a number. -/
def bytesNat (b : List Byte) (o n : Nat) : Nat := ofBytes ((b.drop o).take n)

/-- A stream descriptor, but for its counts. -/
structure PDesc where
  code : Byte
  fmt : Fmt
  elems : Nat
  comb : Nat
  rsv : Nat
  /-- Capacity of each level. -/
  caps : List Nat
  base : Nat
  offs : List Nat
deriving DecidableEq, Repr

/-- Whether a combiner is allowed for a format (R353). -/
def combAllowed (f : Fmt) (c : Nat) : Bool := c != 7 || f == .ieee .h || f == .ieee .f32

/-- The descriptor in 64 bytes; none when it is malformed (R351, R353). -/
def parseDesc (b : List Byte) : Option PDesc :=
  match Fmt.ofCode (b.getD 0 0) with
  | none => none
  | some f =>
    let l := bytesNat b 2 1 % 16
    let c := bytesNat b 2 1 / 16 % 8
    let caps := (List.range 12).map fun j => bytesNat b (4 + j) 1
    let offs := (List.range 12).map fun j => bytesNat b (40 + 2 * j) 2
    if bytesNat b 1 1 < 128 ∧ bytesNat b 2 1 < 128 ∧ bytesNat b 3 1 < 16 ∧ 1 ≤ l ∧ l ≤ 12 ∧ (caps.take l).all (· != 0)
        ∧ (caps.drop l).all (· == 0) ∧ (offs.drop l).all (· == 0) ∧ combAllowed f c then
      some { code := b.getD 0 0, fmt := f, elems := bytesNat b 1 1 + 1, comb := c, rsv := bytesNat b 3 1 % 16
             caps := caps.take l, base := bytesNat b 32 8, offs := offs.take l }
    else none

/-- Levels of a stream. -/
def PDesc.levels (d : PDesc) : Nat := d.caps.length
/-- Slots of a level. -/
def PDesc.slots (d : PDesc) (j : Nat) : Nat := d.caps.getD j 0 + 1 + d.rsv
/-- Bytes of an item. -/
def PDesc.itemBytes (d : PDesc) : Nat := d.elems * d.fmt.bytes
/-- Bytes of a slot. -/
def PDesc.slotBytes (d : PDesc) : Nat := (d.itemBytes + 31) / 32 * 32
/-- Generic address of a level's slots. -/
def PDesc.levelVa (d : PDesc) (j : Nat) : Nat := d.base + 64 * d.offs.getD j 0
/-- Generic address of the slot of span `k` of a level (R363). -/
def PDesc.slotVa (d : PDesc) (j k : Nat) : Nat := d.levelVa j + k % d.slots j * d.slotBytes

/-! ### Held spans (R352) -/

/-- Spans that each level has received and how many of them have left it, by append count. -/
def levelCounts : List Nat → Nat → List (Nat × Nat)
  | [], _ => []
  | [w], n => [(n, n - w)]
  | w :: rest, n =>
    let m := if n ≤ w then 0 else (n - w - 1) / 2 + 1
    (n, 2 * m) :: levelCounts rest m

/-- Merges and drops performed, from the counts. -/
def mergeSeq : List (Nat × Nat) → Nat
  | [] => 0
  | [(_, f)] => f
  | (_, f) :: rest => f / 2 + mergeSeq rest

/-- Spans a level has received. -/
def received (c : List (Nat × Nat)) (j : Nat) : Nat := (c.getD j (0, 0)).1
/-- Spans that have left a level. -/
def freed (c : List (Nat × Nat)) (j : Nat) : Nat := (c.getD j (0, 0)).2
/-- Whether a level holds its span `k`. -/
def holds (c : List (Nat × Nat)) (j k : Nat) : Bool := decide (freed c j ≤ k ∧ k < received c j)

/-! ### Combiners (R353) -/

/-- Sum of two elements as an exact value that a conversion then rounds; `half` halves it. -/
def fpSum (f : Fmt) (sat half : Bool) (x y : Nat) : Nat :=
  match addEx .rne (f.decode x) (f.decode y) with
  | .nan _ => f.nanBits
  | .inf n _ => (f.convert FCtl.rne sat (.inf n)).1
  | .val n m e _ => (f.convert FCtl.rne sat (.fin n m (if half then e - 1 else e))).1

/-- An element of an integer format as a number. -/
def intValue (f : Fmt) (x : Nat) : Int :=
  let w := f.width
  if f.signed && x / 2 ^ (w - 1) % 2 == 1 then (x % 2 ^ w : Nat) - (2 ^ w : Nat) else (x % 2 ^ w : Nat)

/-- Half of an integer, ties to even. -/
def halfEven (s : Int) : Int := if s % 2 = 1 ∧ s / 2 % 2 = 1 then s / 2 + 1 else s / 2

/-- The combiner `c` of a format: `o` the older element, `w` the newer. -/
def combine (f : Fmt) (c o w : Nat) : Nat :=
  let x := intValue f o
  let y := intValue f w
  let vo := f.decode o
  let vw := f.decode w
  match c with
  | 0 => if f.isInt then (if y ≤ x then o else w) else (minMaxBits f true o w vo vw).1
  | 1 => if f.isInt then (if x ≤ y then o else w) else (minMaxBits f false o w vo vw).1
  | 2 =>
    if f.isInt then wrapInt f.width (max (intMin f.signed f.width) (min (intMax f.signed f.width) (x + y)))
    else fpSum f true false o w
  | 3 => if f.isInt then wrapInt f.width (halfEven (x + y)) else fpSum f false true o w
  | 4 => o
  | 5 => w
  | 6 => o ||| w
  | _ => lae2Op f vo vw

/-! ### Slots -/

/-- The stream at a descriptor. -/
def State.stream (s : State) (desc : Nat) : Stream := FMap.get ({ va := 0, asid := 0 } : Stream) s.streams desc
/-- Changes a stream. -/
def State.modStream (s : State) (desc : Nat) (f : Stream → Stream) : State :=
  { s with streams := FMap.put s.streams desc (f (s.stream desc)) }
/-- Append count of a stream, as its descriptor holds it (R351). -/
def State.streamCount (s : State) (desc : Nat) : Nat := s.readPhysNat (desc + 16) 8
/-- Merge sequence of a stream, as its descriptor holds it. -/
def State.streamSeq (s : State) (desc : Nat) : Nat := s.readPhysNat (desc + 24) 8
/-- The descriptor of a stream as memory holds it. -/
def State.streamDesc (s : State) (desc : Nat) : Option PDesc := parseDesc (s.readPhys desc 64)

/-- Physical address of a generic one of a stream (R350: one run holds all). -/
def Stream.pa (t : Stream) (desc va : Nat) : Nat := desc + va - t.va.toNat

/-- Data of a span: its bytes, and the generic address of the first poisoned byte met. -/
structure SpanData where
  bytes : List Byte
  bad : Option Nat := none
deriving DecidableEq, Repr

/-- The physical runs of a stream: its descriptor and its levels' slots. -/
def Stream.runs (t : Stream) (desc : Nat) (d : PDesc) : List (Nat × Nat) :=
  (desc, 64) :: (List.range d.levels).map fun j => (t.pa desc (d.levelVa j), d.slots j * d.slotBytes)

/-- Whether another bound stream's regions or descriptor overlap those of a stream (R362). -/
def State.streamMeets (s : State) (desc : Nat) (d : PDesc) : Bool :=
  s.streams.any fun e =>
    e.1 != desc && !e.2.binds.isEmpty
      && match s.streamDesc e.1 with
        | none => false
        | some o => ((s.stream desc).runs desc d).any fun a => (e.2.runs e.1 o).any fun b => decide (a.1 < b.1 + b.2 ∧ b.1 < a.1 + a.2)

/-- A span that its level holds, or that it held and whose slot still does: what waits to be written, else its slot. The data of a
stream that overlaps another one is open (R362, log 26). -/
def State.slotData (s : State) (desc : Nat) (d : PDesc) (j k : Nat) : SpanData :=
  let t := s.stream desc
  let va := d.slotVa j k
  if s.streamMeets desc d then { bytes := s.freeBytes va d.itemBytes }
  else
  match t.pend.find? fun p => p.level == j && p.num == k with
  | some p => { bytes := p.bytes, bad := if p.bad then some va else none }
  | none =>
    let pa := t.pa desc va
    { bytes := s.readPhys pa d.itemBytes
      bad := (s.badSector (homeDie desc) pa d.slotBytes).map fun b => va + (Nat.max b pa - pa) }

/-- Fills the slots of some spans that stand in memory into their die cache, where they need it (R322, R333). -/
def State.fillSlots (s : State) (desc : Nat) (d : PDesc) (l : List (Nat × Nat)) : State :=
  l.foldl (fun (s : State) e => s.fillFor ((s.stream desc).pa desc (d.slotVa e.1 e.2)) d.slotBytes) s

/-- Whether a slot of some spans must first be filled. -/
def State.slotsWait (s : State) (desc : Nat) (d : PDesc) (l : List (Nat × Nat)) : Bool :=
  !s.calm && l.any fun e => s.needsFill ((s.stream desc).pa desc (d.slotVa e.1 e.2)) d.slotBytes

/-- Elements of an item, combined pairwise. -/
def combineBytes (f : Fmt) (c : Nat) : Nat → List Byte → List Byte → List Byte
  | 0, _, _ => []
  | n + 1, o, w =>
    let es := f.bytes
    toBytes es (combine f c (ofBytes (o.take es)) (ofBytes (w.take es))) ++ combineBytes f c n (o.drop es) (w.drop es)

/-- Comb of two spans; poison of either carries over (R353, R365). -/
def PDesc.comb2 (d : PDesc) (o w : SpanData) : SpanData :=
  { bytes := combineBytes d.fmt d.comb d.elems o.bytes w.bytes
    bad := match o.bad with | some a => some a | none => w.bad }

/-- Span(j, k) of R354. -/
def State.span (s : State) (desc : Nat) (d : PDesc) (c : List (Nat × Nat)) : Nat → Nat → SpanData
  | 0, k => s.slotData desc d 0 k
  | j + 1, k =>
    if holds c (j + 1) k then s.slotData desc d (j + 1) k
    else d.comb2 (State.span s desc d c j (2 * k)) (State.span s desc d c j (2 * k + 1))

/-- The spans, by level and number, whose slots Span(j, k) reads. -/
def spanSlots (c : List (Nat × Nat)) : Nat → Nat → List (Nat × Nat)
  | 0, k => [(0, k)]
  | j + 1, k => if holds c (j + 1) k then [(j + 1, k)] else spanSlots c j (2 * k) ++ spanSlots c j (2 * k + 1)

/-- The span word of R355. -/
def spanWord (start level status mseq : Nat) : Word :=
  BitVec.ofNat 64 (start % 2 ^ 48 + level * 2 ^ 48 + status * 2 ^ 52 + mseq % 256 * 2 ^ 56)

/-- A resolved time: data and span word. -/
structure Resolved where
  data : SpanData
  word : Word
deriving DecidableEq, Repr

/-- Resolves time `t` at requested level `r` against the snapshot of the present (R354). -/
def State.resolveTime (s : State) (desc : Nat) (d : PDesc) (t r : Nat) : Resolved :=
  let a := s.streamCount desc
  let ms := s.streamSeq desc
  let c := levelCounts d.caps a
  let lv := Nat.min r (d.levels - 1)
  let zeros : SpanData := { bytes := List.replicate d.itemBytes 0 }
  if a ≤ t then { data := zeros, word := spanWord t lv 3 ms }
  else
    match (List.range d.levels).find? fun j => holds c j (t / 2 ^ j) with
    | none => { data := zeros, word := spanWord t lv 2 ms }
    | some lh =>
      let k := t / 2 ^ lh
      if lv < lh then { data := s.slotData desc d lh k, word := spanWord (k * 2 ^ lh) lh 1 ms }
      else if a < (t / 2 ^ lv + 1) * 2 ^ lv then { data := s.slotData desc d lh k, word := spanWord (k * 2 ^ lh) lh 4 ms }
      else { data := s.span desc d c lv (t / 2 ^ lv), word := spanWord (t / 2 ^ lv * 2 ^ lv) lv 0 ms }

/-- The spans whose slots the resolution of a time reads (R354). -/
def State.timeSlots (s : State) (desc : Nat) (d : PDesc) (t r : Nat) : List (Nat × Nat) :=
  let a := s.streamCount desc
  let c := levelCounts d.caps a
  let lv := Nat.min r (d.levels - 1)
  if a ≤ t then []
  else
    match (List.range d.levels).find? fun j => holds c j (t / 2 ^ j) with
    | none => []
    | some lh =>
      if lv < lh ∨ a < (t / 2 ^ lv + 1) * 2 ^ lv then [(lh, t / 2 ^ lh)] else spanSlots c lv (t / 2 ^ lv)

/-! ### Writing slots (R363) -/

/-- The oldest window of a launch whose start can be restored; one past the current window when there is none (R308,
R309). -/
def Launch.oldestGood (l : Launch) : Nat := Nat.max l.oldest (l.truncated + 1)

/-- Apin: the count at the opening of the owner's oldest restorable window, or the one that a truncation set (R363). -/
def State.apinOf (s : State) (t : Stream) (p n : Nat) : Nat :=
  match s.launch? p n with
  | none => t.apin
  | some l =>
    if l.winno < l.oldestGood then t.apin
    else match t.apins.firstWhere fun w _ => decide (l.oldestGood ≤ w) with | some e => e.2 | none => t.apin

/-- What stays of a block that is discarded: its window, its sequencer and the flags that say which regions are logged (R306,
R309). -/
def Snap.discarded (b : Snap) : Snap :=
  { window := b.window, q := b.q, die := b.die, vmask := 0, flags := b.flags, x := Seq.idle, size := 0, pos := b.pos }

/-- A launch whose current window is truncated: its start snapshots go (R309). -/
def Launch.truncate (l : Launch) : Launch :=
  { l with truncated := l.winno, snaps := l.snaps.map fun b => if b.window = l.winno then b.discarded else b }

/-- Truncates the current window of a stream's owner: its start snapshots go, a kind-9 record, and Apin for each stream of that owner
(R309, R363, log 50, log 52). -/
def State.truncateWindow (s : State) (p n desc before : Nat) : State :=
  match s.launch? p n with
  | none => s
  | some l =>
    let d := homeDie desc
    let r : LogRec := { kind := 9, space := 0, writer := 0x7FF, window := l.winno, addr := desc, size := 24 }
    let s0 := s.modLaunch p n Launch.truncate
    let s1 := ((s0.makeRoom p n d 24).getD s0).pushRec p n d r
    let pin (k : Nat) (t : Stream) : Stream :=
      if t.owner = some (p, n) then { t with apin := if k = desc then before else s.streamCount k } else t
    { s1 with streams := s1.streams.mapVals pin }

/-- Poisons every sector of [pa, pa + n). -/
def State.poisonRun (s : State) (pa n : Nat) : State :=
  { s with memPoison := setBits s.memPoison (pa / 32) true ((pa + n - 1) / 32 + 1 - pa / 32) }

/-- Writes span `k` of a level into its slot (R363, R365). -/
def State.writeSlot (s : State) (desc : Nat) (d : PDesc) (j k : Nat) (bytes : List Byte) (bad : Bool) (before : Nat) : State :=
  let t := s.stream desc
  let s := match t.owner with
    | none => s
    | some (p, n) =>
      if d.slots j ≤ k ∧ freed (levelCounts d.caps (s.apinOf t p n)) j ≤ k - d.slots j then s.truncateWindow p n desc before
      else s
  let pa := t.pa desc (d.slotVa j k)
  let s := s.admitWrite pa (padTo d.slotBytes bytes)
  if bad then s.poisonRun pa d.slotBytes else s

/-- The spans, by level and number, that the merges of `n` appends from count `a` on combine (R352). -/
def PDesc.mergeSources (d : PDesc) (a n : Nat) : List (Nat × Nat) :=
  ((List.range n).map fun i =>
    let o := levelCounts d.caps (a + i)
    let m := levelCounts d.caps (a + i + 1)
    ((List.range (d.levels - 1)).map fun j =>
      let k := 2 * (received m (j + 1) - 1)
      if received o (j + 1) < received m (j + 1) then [(j, k), (j, k + 1)] else []).flatten).flatten

/-- The merge that an append may bring to level `j + 1`: the new span waits to be written (R352). -/
def State.mergeLevel (s : State) (desc : Nat) (d : PDesc) (before j q : Nat) : State :=
  let s := s.fillSlots desc d [(j, 2 * q), (j, 2 * q + 1)]
  let m := d.comb2 (s.slotData desc d j (2 * q)) (s.slotData desc d j (2 * q + 1))
  s.modStream desc fun t =>
    { t with pend := t.pend ++ [{ level := j + 1, num := q, bytes := m.bytes, bad := m.bad.isSome, before := before }] }

/-- Appends items one by one from count `a` on, with their merges in ascending level (R352). -/
def State.appendItems (desc : Nat) (d : PDesc) (before : Nat) : List (List Byte) → Nat → State → State
  | [], _, s => s
  | it :: rest, a, s =>
    let s := s.writeSlot desc d 0 a it false before
    let o := levelCounts d.caps a
    let n := levelCounts d.caps (a + 1)
    let s := (List.range (d.levels - 1)).foldl (fun (s : State) j =>
      if received o (j + 1) < received n (j + 1) then s.mergeLevel desc d before j (received n (j + 1) - 1) else s) s
    State.appendItems desc d before rest (a + 1) s

/-- Whether a slot already holds a later span than `num`: one that its level has received and that no longer waits. -/
def Stream.passed (t : Stream) (level num slots got : Nat) : Bool :=
  (List.range ((got - num) / slots + 1)).any fun i =>
    i != 0 && decide (num + i * slots < got) && !(t.pend.any fun o => o.level == level && o.num == num + i * slots)

/-- Writes a merged span that waits, unless its slot already holds a later one (R352, R363): a span that a later one still waits to
follow is written first, since a restorable window may hold it. -/
def State.writePending (s : State) (desc : Nat) (d : PDesc) (p : PendSpan) : State :=
  let s := s.modStream desc fun t => { t with pend := t.pend.filter fun o => !(o.level == p.level && o.num == p.num) }
  if (s.stream desc).passed p.level p.num (d.slots p.level) (received (levelCounts d.caps (s.streamCount desc)) p.level) then s
  else s.writeSlot desc d p.level p.num p.bytes p.bad p.before

/-- A stream that no sequencer binds any more writes what waits. -/
def State.flushStream (s : State) (desc : Nat) : State :=
  let t := s.stream desc
  if t.binds.isEmpty && !t.pend.isEmpty then
    match s.streamDesc desc with
    | none => s.modStream desc fun t => { t with pend := [] }
    | some d => t.pend.foldl (fun s p => s.writePending desc d p) s
  else s

/-- Flushes every stream that no sequencer binds any more. -/
def State.flushStreams (s : State) : State := (s.streams.map Prod.fst).foldl (fun (s : State) k => s.flushStream k) s

/-- After an undo a stream forgets the spans of appends that are undone and the openings of windows past the restored
one; one that was bound after that window keeps the count as its opening (R364). -/
def State.streamsAfterUndo (s : State) (p n w : Nat) : State :=
  let fix (k : Nat) (t : Stream) : Stream :=
    let t := if t.owner = some (p, n) then
        (let m := FMap.keep t.apins fun v => decide (v ≤ w)
         { t with apins := if m.isEmpty then [(w, s.streamCount k)] else m })
      else t
    match s.streamDesc k with
    | none => t
    | some d =>
      let c := levelCounts d.caps (s.streamCount k)
      { t with pend := t.pend.filter fun e => decide (e.num < received c e.level) }
  { s with streams := s.streams.mapVals fix }

end Sys2Proof.Machine
end

