-- ==== Sys2Proof/Machine/Launches.lean ====
section
/-!
DEFINITION. Sys2Proof/Machine/Launches.lean: the life of a launch outside its units: journal, interrupt vectors,
completion word, barriers' signals, passing of lane groups, release of slots, entry state, failure and completion
(01_levels_and_work.md R8 to R23; 12_cluster.md R281; 19_launch_tenancy.md R374 to R376, R390).
-/

namespace Sys2Proof.Machine

open Sys2Proof

/-! ### Interrupt vectors and the journal -/

/-- Raises interrupt vector `v` of a partition: its istat bit, and the message when its mask bit is 1, else held
(R390). -/
def State.raiseVector (s : State) (p v : Nat) : State :=
  s.modPart p fun b =>
    let bit : BitVec 4 := BitVec.ofNat 4 (2 ^ v)
    if b.imask.getLsbD v then { b with istat := b.istat ||| bit, delivered := b.delivered ++ [4 * p + v] }
    else { b with istat := b.istat ||| bit, undelivered := b.undelivered ||| bit }

/-- The 64 bytes of a launch packet. -/
def Launch.packetBytes (l : Launch) : List Byte := (l.packet.map fun w => toBytes 8 w.toNat).flatten

/-- The journal entry of a launch (R374). -/
def Launch.entryBytes (l : Launch) (n : Nat) : List Byte :=
  toBytes 4 n ++ toBytes 1 l.lstate ++ toBytes 1 l.cause ++ toBytes 1 l.prio
    ++ toBytes 1 ((if l.byK then 1 else 0) + (if l.lostOnce then 2 else 0) + (if l.held then 4 else 0))
    ++ toBytes 8 l.cword.toNat ++ (shake256 l.packetBytes).take 32
    ++ toBytes 4 l.restored ++ toBytes 2 l.plost ++ toBytes 2 0 ++ toBytes 8 l.time

/-- Writes the journal entry of a launch whole (R10, R374). -/
def State.journal (s : State) (p n : Nat) : State :=
  match s.launch? p n with
  | none => s
  | some l => s.admitWrite ((s.part p).jbase + n % 4096 * 64) (l.entryBytes n)

/-! ### Barriers -/

/-- The test of R281 after an arrival or a signal whose error bit is `err`. -/
def Barrier.test (b : Barrier) (err : Bool) : Barrier :=
  if err || (b.target != 0 && decide (b.target ≤ b.count)) then
    { b with last := b.count, error := err, count := 0, phase := !b.phase }
  else b

/-- Adds weight to a barrier; the count saturates at 0xFFFF (R281). -/
def Barrier.add (b : Barrier) (w : Nat) (err : Bool) : Barrier :=
  ({ b with count := Nat.min 0xFFFF (b.count + w) }).test err

/-- A barrier of a cluster. -/
def State.barrier (s : State) (c b : Nat) : Barrier := FMap.get ({} : Barrier) (s.pad c).barrier b
/-- Changes a barrier of a cluster. -/
def State.modBarrier (s : State) (c b : Nat) (f : Barrier → Barrier) : State :=
  s.modPad c fun p => { p with barrier := FMap.set {} p.barrier b (f (FMap.get {} p.barrier b)) }

/-- An engine command signals its barrier with its weight, when it names one (R272, R281). -/
def State.signal (s : State) (c b w : Nat) (err : Bool) : State :=
  if b = 0 then s else s.modBarrier c b fun x => x.add w err

/-! ### Lane groups and matrix mode -/

/-- Zeroes lane groups of a core: vector slices, masks, lane flags and lane-private SRAM (R8, R99, R186). -/
def Core.zeroGroups (k : Core) (gs : List Nat) : Core :=
  let out (per : Nat) (x : Nat) : Bool := !gs.contains (x / per)
  { k with
    vreg := FMap.keep k.vreg (out 32)
    vpois := FMap.keep k.vpois (out 4096)
    mask := FMap.keep k.mask (out 8)
    maskPois := FMap.keep k.maskPois (out 1024)
    laneFlags := FMap.keep k.laneFlags (out 8)
    sram := FMap.keep k.sram (out 32768)
    sramPois := FMap.keep k.sramPois (out 8192) }

/-- The granted groups, ascending (R15). -/
def groupsOf (g : BitVec 4) : List Nat := bitsSet 0 4 g.toNat

/-- Takes matrix mode from a sequencer that holds it: accumulators and progress are discarded (R161, R237). -/
def Core.matrixOff (k : Core) (q : Nat) : Core :=
  let k := { k with waiters := k.waiters.filter fun w => w != q }
  if k.holder = some q then { k with holder := none, acc0 := [], acc1 := [], accPois := [], progress := none } else k

/-! ### Streams' bindings -/

/-- Drops bindings of a launch's sequencer from a stream: all of them, or the one of a serial. The owner is lost when its
launch holds none any more; a held launch that had the slot before keeps its own (R358, R383). -/
def Stream.unbind (t : Stream) (q : Nat) (key : Nat × Nat) (serial : Option Nat) : Stream :=
  let bs := t.binds.filter fun b => !(b.1 == q && b.2.2 == key && (match serial with | none => true | some k => b.2.1 == k))
  { t with
    binds := bs
    owner := match t.owner with
      | some (p, n) => if bs.any fun b => b.2.2 == (p, n) then t.owner else none
      | none => none }

/-- Releases every pyramid binding of a sequencer (R357, R358). -/
def State.unbindAll (s : State) (q : Nat) : State :=
  match (s.seq q).handles with
  | [] => s
  | _ =>
    let s1 := s.modSeq q fun x => { x with handles := [] }
    let s2 := { s1 with streams := s.streams.mapVals fun _ (t : Stream) => t.unbind q (s.seq q).key none }
    s2.flushStreams

/-! ### Slots -/

/-- Whether a sequencer stands inside an mt.mul of its own unit, between two segments (R251). -/
def State.midMul (s : State) (q : Nat) : Bool :=
  let k := s.core (coreOf q)
  match k.progress with
  | none => false
  | some r => k.holder == some q && r.unit == (s.seq q).pc.q0 && !r.ops.isEmpty

/-- Zeroes the restart registers (R183). -/
def Seq.zeroRstg (x : Seq) : Seq := { x with csr := { x.csr with rstg0 := 0, rstg1 := 0, rstg2 := 0, rstg3 := 0 } }

/-- A sequencer as a stop finds it: inside an mt.mul the restart registers are zero (R251). -/
def State.stopSeq (s : State) (q : Nat) (x : Seq) : Seq := if s.midMul q then x.zeroRstg else x

/-- Stops a launch for the debugger: every sequencer of it halts at its unit boundary and its commands pause
(R311, R312). The flags of the debug block follow in DEBUG_HALTED (log 87). -/
def State.debugHalt (s : State) (p n : Nat) : State :=
  let mine (x : Seq) : Bool := x.live && x.cur.partition == p && x.cur.seq == n
  let s := { s with
    seqs := s.seqs.mapVals fun q x => if mine x then { (s.stopSeq q x) with stopped := true } else x
    clusters := s.clusters.mapVals fun _ (c : Cluster) =>
      { c with cmds := c.cmds.map fun (k : EngCmd) => if k.partition = p ∧ k.launch = n then { k with paused := true } else k }
    cores := s.cores.mapVals fun _ (k : Core) => { k with waiters := k.waiters.filter fun w => !mine (s.seq w) } }
  s.modPart p fun b => { b with dbgBusy := true, dbgLaunch := n }

/-- A replay whose sequencer gives up its slot ends: with result 0 where its k.end is the last unit of the count, else with result 7 and
the count reached in arg1. The launch stops (R311, log 88). -/
def State.endReplay (s : State) (q : Nat) : State :=
  let x := s.seq q
  match x.replay with
  | none => s
  | some r =>
    (s.debugHalt x.cur.partition x.cur.seq).modPart x.cur.partition fun b =>
      if r.target ≤ x.csr.units.toNat then { b with dbgResult := 0 }
      else { b with dbgResult := 7, dbgArg1 := b.dbgArg1 - (r.target - x.csr.units.toNat) }

/-- The launch of a sequencer that gives up its slot keeps the barriers that it used (R283). -/
def State.keepBars (s : State) (q : Nat) : State :=
  let x := s.seq q
  if x.barUsed.isEmpty then s
  else s.modLaunch x.cur.partition x.cur.seq fun l => { l with barUsed := l.barUsed ++ x.barUsed.map fun e => (clusterOf q, e.1, e.2) }

/-- Empties the slot of a sequencer: groups pass on zeroed, matrix mode goes, the current record is no longer
valid; a next record stays. The registers and CSRs keep their values until another record's entry state is set (R8, R14, R161,
R376). -/
def State.freeSlot (s0 : State) (q : Nat) : State :=
  let s := (s0.endReplay q).keepBars q
  let x := s.seq q
  let s := s.modCore (coreOf q) fun k => (k.matrixOff q).zeroGroups (groupsOf x.grant)
  let s := if (s.part x.cur.partition).egressOwner = some q then s.modPart x.cur.partition fun b => { b with egressOwner := none } else s
  let s := if x.preloading then
      s.modCluster (clusterOf q) fun c => { c with preloads := c.preloads.filter fun r => !(r.q == q && r.cur) }
    else s
  s.setSeq q { Seq.idle with next := x.next, hserial := x.hserial, gen := x.gen, a := x.a, s := x.s, csr := x.csr, pc := x.pc }

/-- Releases the slot of a sequencer with its pyramid bindings (R20, R23, R357). -/
def State.releaseSlot (s : State) (q : Nat) : State := (s.unbindAll q).freeSlot q

/-- Whether a row of a command is in flight: its reads or its writes have been sent to a window (R23, R311). -/
def State.inFlight (s : State) (c : Nat) (k : EngCmd) : Bool := k.sent || s.requests.any fun r => r.owner == .engine c k.id

/-- Ends every copy-engine command of a launch that is still placed: each signals its barrier with the weight of its committed rows
and the error bit. One with a row in flight ends once that row has committed (R23, log 100). -/
def State.endCommands (s : State) (p n : Nat) : State :=
  s.clusters.foldl (fun (s : State) e =>
    let mine (k : EngCmd) : Bool := k.partition == p && k.launch == n
    let now (k : EngCmd) : Bool := mine k && !s.inFlight e.1 k
    if e.2.cmds.any mine then
      let s1 := s.modCluster e.1 fun c =>
        { c with cmds := (c.cmds.filter fun k => !now k).map fun (k : EngCmd) => if mine k then { k with ending := true } else k }
      (e.2.cmds.filter now).foldl (fun (s : State) k => s.signal e.1 k.bar k.row true) s1
    else s) s

/-- The sequencers that hold current records of a launch. -/
def State.seqsOf (s : State) (p n : Nat) : List Nat :=
  s.seqs.keysWhere fun _ x => x.live && x.cur.partition == p && x.cur.seq == n

/-- Writes bytes at a virtual address for the firmware, where the address is mapped to device memory (log 117). -/
def State.pokeVa (s : State) (q asid va : Nat) (bytes : List Byte) : State :=
  match s.translateFresh (dieOf q) asid 0 va bytes.length .read with
  | .ok x => if regionOf x.pa = .device then s.admitWrite x.pa bytes else s
  | .error _ => s

/-- Where the completion word of a launch lies, or the cause that a write of it raises (R22): 5 outside device
memory and on a stream page, which no scalar store reaches (R143, log 30). -/
def State.cwordAt (s : State) (q p : Nat) (l : Launch) : Except Nat Xlat :=
  match s.translate (coreOf q) l.asid p l.cwordVa 8 .write with
  | .error c => .error c
  | .ok x => if regionOf x.pa = .device ∧ aStore x.attr ≠ 3 then .ok x else .error 5

/-- Rewrites the completion word (R20 to R22); the journal's copy follows. -/
def State.setCword (s : State) (q p n : Nat) (f : Nat → Nat) : Except Nat State :=
  match s.launch? p n with
  | none => .ok s
  | some l =>
    match s.cwordAt q p l with
    | .error c => .error c
    | .ok x =>
      let v := f (s.readPhysNat x.pa 8) % 2 ^ 64
      .ok ((s.writeOut .other x.pa (toBytes 8 v) 0 (aStore x.attr == 1)).modLaunch p n
        fun l => { l with cword := BitVec.ofNat 64 v })

/-- Status and cause in a completion word (R22). -/
def cwordStatus (status cause : Nat) (v : Nat) : Nat :=
  v % 2 ^ 16 + status * 2 ^ 16 + cause * 2 ^ 24 + v / 2 ^ 32 * 2 ^ 32

/-! ### Final states -/

/-- Notes the outcome of a launch with its dependents (R11): 1 complete, 2 failed. -/
def State.resolve (s : State) (p n out : Nat) : State :=
  { s with launches := s.launches.map fun e =>
      if e.1 / 2 ^ 32 = p ∧ e.2.lstate = 1 then
        (e.1, { e.2 with
          pre0 := if e.2.prereq0 = n ∧ e.2.pre0 = 0 then out else e.2.pre0
          pre1 := if e.2.prereq1 = n ∧ e.2.pre1 = 0 then out else e.2.pre1 })
      else e }

/-- Takes a launch off its partition's queues. -/
def State.dequeue (s : State) (p n : Nat) : State :=
  s.modPart p fun b => { b with queues := b.queues.map fun e => (e.1, e.2.filter fun m => m != n) }

/-- A launch ends failed: journal, vector 2, its ring pair, its dependents (R10, R11, R374, R388, R390). -/
def State.markFailed (s : State) (p n cause : Nat) : State :=
  let s := s.modLaunch p n fun l =>
    { l with lstate := 5, cause := cause, held := false, ringPair := none, ring0 := [], ring1 := [], snaps := [] }
  let s := s.dequeue p n
  let s := s.modPart p fun b => { b with ringPairs := b.ringPairs.filter fun e => e.2 != n }
  ((s.journal p n).raiseVector p 2).resolve p n 2

/-- Fails a launch that has not run: status 2 without a cause, or the cause of a write that cannot be made (R10, R22, log 95). -/
def State.failUnrun (s : State) (p n : Nat) : State :=
  match s.setCword 0 p n (cwordStatus 2 0) with
  | .ok s => s.markFailed p n 0
  | .error c => s.markFailed p n c

/-- Fails the accepted launches of a partition whose prerequisite has failed, and theirs in turn (R10, R11). The
fuel is the number of launches. -/
def State.failDependents (s : State) (p : Nat) : Nat → State
  | 0 => s
  | k + 1 =>
    match s.launches.firstWhere fun k l => decide (k / 2 ^ 32 = p ∧ l.lstate = 1 ∧ (l.pre0 = 2 ∨ l.pre1 = 2)) with
    | none => s
    | some e => State.failDependents (s.failUnrun p (e.1 % 2 ^ 32)) p k

/-- Next records of a launch that has failed are withdrawn (R376). -/
def State.withdrawNexts (s : State) (p n : Nat) : State :=
  let mine (x : Seq) : Bool := x.next.valid && x.next.partition == p && x.next.seq == n
  let qs := s.seqs.keysWhere fun _ x => mine x
  if qs.isEmpty then s
  else
    { s with
      seqs := s.seqs.mapVals fun _ (x : Seq) => if mine x then { x with next := {} } else x
      clusters := s.clusters.mapVals fun _ (c : Cluster) => { c with preloads := c.preloads.filter fun r => r.cur || !qs.contains r.q } }

/-- The Cellar's part of a launch that has failed is emptied as its live part is (R23). -/
def Shadow.drop (k : Shadow) (p n : Nat) : Shadow :=
  let qs := k.seqs.keysWhere fun _ x => x.live && x.cur.partition == p && x.cur.seq == n
  let mine (m : EngCmd) : Bool := m.partition == p && m.launch == n
  let cores := qs.foldl (fun (cs : FMap Core) q =>
    FMap.put cs (coreOf q) (((FMap.get ({} : Core) cs (coreOf q)).matrixOff q).zeroGroups (groupsOf (FMap.get Seq.idle k.seqs q).grant))) k.cores
  let pad := (k.cmds.filter mine).foldl (fun (d : Pad) m =>
    if m.bar = 0 then d
    else { d with barrier := FMap.set {} d.barrier m.bar ((FMap.get ({} : Barrier) d.barrier m.bar).add m.row true) }) k.pad
  { k with pad := pad, cores := cores, cmds := k.cmds.filter fun m => !mine m, seqs := FMap.keep k.seqs fun q => !qs.contains q }

/-- Empties the Cellars' parts of a launch. -/
def State.dropShadows (s : State) (p n : Nat) : State :=
  { s with clusters := s.clusters.mapVals fun _ (c : Cluster) => { c with shadow := c.shadow.map fun (k : Shadow) => k.drop p n } }

/-- Releases every binding that a launch still holds, a held one's among them (R358, R383). -/
def State.dropBindings (s : State) (p n : Nat) : State :=
  if s.streams.any fun e => e.2.binds.any fun b => b.2.2 == (p, n) then
    let drop (t : Stream) : Stream :=
      { t with binds := t.binds.filter fun b => b.2.2 != (p, n), owner := if t.owner = some (p, n) then none else t.owner }
    ({ s with streams := s.streams.mapVals fun _ (t : Stream) => drop t }).flushStreams
  else s

/-- Whether stores or rows in flight of a launch that fails are still to be performed (R23). -/
def State.failBusy (s : State) (p n : Nat) : Bool :=
  ((s.seqsOf p n).any s.storesOpen) || s.clusters.any fun e => e.2.cmds.any fun (k : EngCmd) => k.partition == p && k.launch == n

/-- A launch that fails has nothing more in flight: status 2 and the cause are written, and every slot is released. A completion word
that cannot be written leaves the cause of that write in the journal (R22, R23). -/
def State.endFailed (s : State) (p n cause : Nat) : State :=
  let qs := s.seqsOf p n
  let s := s.modLaunch p n fun l => { l with failing := none }
  let (s, c) := match s.setCword (qs.headD 0) p n (cwordStatus 2 cause) with
    | .ok s => (s, cause)
    | .error c => (s, c)
  let s := qs.foldl (fun s q => s.releaseSlot q) s
  let s := ((s.withdrawNexts p n).dropShadows p n).dropBindings p n
  (s.markFailed p n c).failDependents p s.launches.length

/-- The first steps of a failure: every sequencer of the launch halts at its unit boundary, what has not committed is discarded, and its
commands end (R23). -/
def State.haltFailed (s : State) (p n cause : Nat) : State :=
  let mine (x : Seq) : Bool := x.live && x.cur.partition == p && x.cur.seq == n
  let s := { s with seqs := s.seqs.mapVals fun _ (x : Seq) => if mine x then { x with stopped := true, appends := [], replay := none } else x }
  (s.modLaunch p n fun l => { l with failing := if l.failing.isNone then some cause else l.failing }).endCommands p n

/-- A launch fails while it runs (R23): its retired stores and its rows in flight are performed first, where that takes further
steps. -/
def State.failLaunch (s : State) (p n cause : Nat) : State :=
  let s := s.haltFailed p n cause
  if s.failBusy p n then s else s.endFailed p n cause

/-- A launch whose failure waits for its last store or row goes on when that has been performed (R23). -/
def State.finishFailing (s : State) : State :=
  match s.launches.firstWhere fun _ l => l.failing.isSome with
  | none => s
  | some e =>
    match e.2.failing with
    | none => s
    | some c => if s.failBusy (e.1 / 2 ^ 32) (e.1 % 2 ^ 32) then s else s.endFailed (e.1 / 2 ^ 32) (e.1 % 2 ^ 32) c

/-- Rolled-back launches whose undo has no write left to be performed go on, one that a debug block is stopping excepted (R311, R313). -/
def State.finishUndo (s : State) : State :=
  if s.launches.any fun e => e.2.undoing then
    let done (k : Nat) (l : Launch) : Bool := l.undoing && !s.undoOpen (k / 2 ^ 32)
    let goes (p n : Nat) : Bool :=
      match s.launch? p n with
      | some l => done (launchKey p n) l && l.failing.isNone
        && !((s.part p).dbgBusy && (s.part p).dbgLaunch == n && !(s.seqsOf p n).any fun q => (s.seq q).replay.isSome)
      | none => false
    { s with
      launches := s.launches.mapVals fun k (l : Launch) => if done k l then { l with undoing := false } else l
      seqs := s.seqs.mapVals fun _ (x : Seq) => if x.live && goes x.cur.partition x.cur.seq then { x with stopped := false } else x }
  else s

/-- The last k.end of a launch has finished step 2: the status is written, the journal updated, and the completion
vector raised if the packet asks for it (R21); a completion word that cannot be written fails the launch (R22). -/
def State.completeLaunch (s : State) (q p n : Nat) : State :=
  match s.setCword q p n (cwordStatus 1 0) with
  | .error c => (s.markFailed p n c).failDependents p s.launches.length
  | .ok s =>
    let irq := match s.launch? p n with | some l => l.irq | none => false
    let s := s.modLaunch p n fun l =>
      { l with lstate := 4, ringPair := none, ring0 := [], ring1 := [], snaps := [] }
    let s := s.modPart p fun b => { b with ringPairs := b.ringPairs.filter fun e => e.2 != n }
    let s := s.journal p n
    let s := if irq then s.raiseVector p 0 else s
    s.resolve p n 1

/-! ### Binding -/

/-- Entry registers of a sequencer (R14, R375). -/
def entryRegs (q : Nat) (b : BindRec) (l : Option Launch) : FMap Word × FMap Word :=
  let a : FMap Word := FMap.set 0 (FMap.set 0 [] 1 (BitVec.ofNat 64 (0xFFFF0000000000 + b.seq % 4096 * 64))) 2
    (BitVec.ofNat 64 (0xFFFF0000100000 + q * 4096))
  let s := FMap.set 0 (FMap.set 0 [] 1 (BitVec.ofNat 64 b.start)) 2 (BitVec.ofNat 64 b.count)
  match l with
  | none => (a, s)
  | some l => (a, (List.range 8).foldl (fun m i => FMap.set 0 m (4 + i) (l.arg i)) (FMap.set 0 s 3 (BitVec.ofNat 64 l.n)))

/-- Sets the entry state of the current record of a sequencer (R14). -/
def State.setEntry (s : State) (q : Nat) : State :=
  let x := s.seq q
  let b := x.cur
  let (a, r) := entryRegs q b (s.launch? b.partition b.seq)
  let s := s.setSeq q { Seq.idle with
    live := true, cur := b, next := x.next, a := a, s := r, grant := b.grant, hserial := x.hserial, gen := x.gen
    csr := { winno := if b.log = 0 then 0 else 1 } }
  let pc := s.queueAt q b.entry
  s.modSeq q fun x => { x with pc := pc }

/-- The registers of the groups that a mask of vector registers names, in a core. -/
def Core.liveRegs (k : Core) (gs : List Nat) (vmask : Word) : FMap (BitVec 1024) :=
  FMap.keep k.vreg fun i => gs.contains (i / 32) && vmask.getLsbD (i % 32)

/-- Whether a lower-numbered sequencer of the core has written the Larder to its block of a window: only the
lowest-numbered one that flags it keeps it (R303). -/
def Launch.larderTaken (l : Launch) (q window : Nat) : Bool :=
  l.snaps.any fun b => b.window == window && coreOf b.q == coreOf q && decide (b.q < q) && b.larder.isSome

/-- A snapshot block of a sequencer for a window (R303, R383, log 31). -/
def State.makeSnap (s : State) (q window : Nat) (vmask flags : Word) : Snap :=
  let x := s.seq q
  let k := s.core (coreOf q)
  let gs := groupsOf x.grant
  let held := k.holder == some q
  let lard := flags.getLsbD 16
    && (match s.launch? x.cur.partition x.cur.seq with | some l => !l.larderTaken q window | none => true)
  { window := window, q := q, die := dieOf q, vmask := vmask
    flags := if lard then flags else flags &&& ~~~ 0x10000
    x := x
    vregs := k.liveRegs gs vmask
    masks := FMap.keep k.mask fun i => gs.contains (i / 8)
    laneFlags := FMap.keep k.laneFlags fun i => gs.contains (i / 8)
    holder := held, accFmt := k.accFmt, mvl := k.mvl
    acc0 := if held && flags.getLsbD 17 then k.acc0 else []
    acc1 := if held && flags.getLsbD 18 then k.acc1 else []
    larder := if lard then some k.larder else none
    size := 0x500 + 128 * (popBits 32 vmask.toNat * gs.length)
      + (if held && flags.getLsbD 17 then 65536 else 0) + (if held && flags.getLsbD 18 then 65536 else 0)
      + (if lard then 2080 else 0) }

end Sys2Proof.Machine
end

