-- ==== Sys2Proof/Machine/Ops.lean ====
section
/-!
DEFINITION. Sys2Proof/Machine/Ops.lean: what every unit of a sequencer does around its own effect: issue,
retirement, waiting, taking a trap and returning from one (05_sequencer.md R117 to R136), and the scalar accesses
(06_sequencer_instructions.md R143 to R146; 16_ordering.md R339 to R345).
-/

namespace Sys2Proof.Machine

open Sys2Proof

/-- A trap: cause, TVAL, the original cause or source, whether it is an A-side fault, the word's position, and the
restart vector it leaves (R126, R128, R182). -/
structure Trap where
  cause : Nat
  tval : Word := 0
  sub : Nat := 0
  aside : Bool := false
  pos : Nat := 0
  eapc : Option Word := none
  rstg : Option (Nat × Nat × Nat × Nat) := none
deriving DecidableEq, Repr

/-- What a unit comes to: it completes and the queue moves, it completes as a call and traps, it traps, or it waits
at its place. -/
inductive UnitRes
  | done (s : State) (m : Move)
  | call (s : State) (m : Move) (t : Trap)
  | trap (s : State) (t : Trap)
  | wait (s : State)
  /-- The sequencer has given up its slot (k.end). -/
  | gone (s : State)
deriving DecidableEq, Repr

/-- The outcome type of the machine. -/
abbrev Out := Host.Outcome State Fault Refusal

/-! ### Time and turns -/

/-- Whether a logging launch is held, or a pre-emption halts a cluster where it has a sequencer: its sequencers and commands
elsewhere halt with it (R302, R384, log 96). -/
def State.heldBack (s : State) (log p n : Nat) : Bool :=
  log != 0 && ((match s.launch? p n with | some l => l.held | none => false) || s.seqs.any fun e =>
    e.2.live && e.2.cur.partition == p && e.2.cur.seq == n && ((s.cluster (clusterOf e.1)).halting || (s.cluster (clusterOf e.1)).halted))

/-- Whether a sequencer may run its next unit: it holds a record, and no stop, preload, halt, rollback, replay
limit or wait for matrix mode keeps it (R10, R311, R313, R376, R381, R383, R392). -/
def State.runnable (s : State) (q : Nat) : Bool :=
  let x := s.seq q
  let c := s.cluster (clusterOf q)
  x.live && !x.stopped && !x.preloading && !x.wantMatrix && !c.halting && !c.halted && s.life != .scrapped
    && !s.heldBack x.cur.log x.cur.partition x.cur.seq
    && (match x.replay with | none => true | some r => decide (x.csr.units.toNat < r.target))
    && (match s.launch? x.cur.partition x.cur.seq with | none => true | some l => !l.recovering)

/-- The sequencers that may run. -/
def State.runnables (s : State) : List Nat := s.seqs.keysWhere fun q _ => s.runnable q

/-- The sequencer whose unit comes next: the only one that may run, or one that the schedule picks (log 2). -/
def State.nextTurn (s : State) : Nat :=
  match s.runnables with
  | [] => s.turn
  | [q] => q
  | q :: l => (q :: l).getD (Config.schedule s.tick % (q :: l).length) q

/-- Time passes at the end of a step (log 12). -/
def State.endStep (s : State) : State :=
  { s with tick := s.tick + 1, now := s.now + 1 + Config.cycles s.tick, turn := s.nextTurn }

/-- What a stall counter gains in a step: at most one per cycle that passes (R188, log 12). -/
def stallGain (t k : Nat) : Word := BitVec.ofNat 64 (Nat.min (1 + Config.cycles t) (Config.stall t k))

/-- What a sequencer's unit may wait for in its cycles (R188): an entry of lq0 to lq3 or xe that it pops; room in a queue that its
A-side pushes, or xa, sq or bq, or what R225 passes over; a bank; a matrix operand. -/
structure Waits where
  pop : Bool
  aside : Bool
  bank : Bool
  mat : Bool

/-- Cycles and stalls of a sequencer in a step: free values (R137, R188, log 12). Each counter rises only where its condition may hold. -/
def Csrs.pass (c : Csrs) (t : Nat) (w : Waits) : Csrs :=
  { c with
    cycle := c.cycle + 1 + BitVec.ofNat 64 (Config.cycles t)
    stallq := if w.pop then c.stallq + stallGain t 0 else c.stallq
    stalls := if w.aside then c.stalls + stallGain t 1 else c.stalls
    stallb := if w.bank then c.stallb + stallGain t 2 else c.stallb
    stallm := if w.mat then c.stallm + stallGain t 3 else c.stallm }

/-- A sequencer's access to scratchpad bytes [o, o + n) meets their 32-byte units (R264, R265). -/
def Seq.meetBanks (x : Seq) (o n : Nat) : Seq :=
  { x with used := (List.range ((o + n - 1) / 32 + 1 - o / 32)).foldl (fun m i => FMap.set false m (o / 32 + i) true) x.used }

/-- The banks that the unit under way meets; the rows that a matrix word reads or writes may lie in any (R244, R265). -/
def Seq.unitBanks (x : Seq) : BitVec 64 :=
  if x.wide then BitVec.allOnes 64 else x.used.foldl (fun m e => m ||| (1 <<< (e.1 % 64))) 0

/-- Whether two accesses of the unit under way meet at one bank (R265). -/
def Seq.clashes (x : Seq) : Bool := x.wide || decide (popBits 64 x.unitBanks.toNat < x.used.length)

/-- The banks that other requesters of a sequencer's cluster may hold while its unit is under way: those of the sequencers that have
met one since its own last step, and all where the copy engine has (R265, log 12). -/
def State.otherBanks (s : State) (q : Nat) : BitVec 64 :=
  let c := clusterOf q
  let since := (s.seq q).stepAt
  if since < (s.cluster c).engineAt then BitVec.allOnes 64
  else s.seqs.foldl (fun m e => if e.1 != q && clusterOf e.1 == c && decide (since < e.2.bankAt) then m ||| e.2.banks else m) 0

/-- Whether an access of the sequencer may lose a cycle at a bank: one of the unit under way, or of its last unit, to an access of its own
unit or of another requester (R188, R265). -/
def State.bankWaits (s : State) (q : Nat) : Bool :=
  let x := s.seq q
  x.clashes || ((x.unitBanks ||| if x.bankAt = x.stepAt then x.banks else 0) &&& s.otherBanks q != 0)

/-- Whether a word is one of the majors m and mt. -/
def matrixWord (w : IWord) : Bool := w.toNat / 2 ^ 26 == 40 || w.toNat / 2 ^ 26 == 41

/-- Whether a word is a vld or a vlk.gl, whose E-side part pops lq0 to lq3, or an x.sfrome (R119). -/
def popsWord (w : IWord) : Bool :=
  let m := w.toNat / 2 ^ 26
  m == 32 || (m == 34 && w.toNat % 4 == 0) || (m == 15 && w.toNat % 2048 == 3)

/-- Whether a word may hold the A-side up: a vld, vst or vlk, which pushes a queue or takes values of the E-side; a queue branch; an
x.afroms or x.atoe; an ld or st with dq = 1 (R119, R188, R225). -/
def asideWord (w : IWord) : Bool :=
  let m := w.toNat / 2 ^ 26
  m == 32 || m == 33 || m == 34 || m == 11 || (m == 15 && (w.toNat % 2048 == 1 || w.toNat % 2048 == 2))
    || ((m == 7 || m == 8) && w.toNat / 4096 % 2 == 1)

/-- What the unit at Q0 may wait for (R188). -/
def State.waits (s : State) (q : Nat) : Waits :=
  let ws := (s.fetchUnit q (s.seq q).pc.q0).1
  { pop := ws.any popsWord, aside := ws.any asideWord, bank := s.bankWaits q
    mat := (s.core (coreOf q)).holder == some q && ws.any matrixWord }

/-- A sequencer's counters after a step of its own at a time; the unit under way is over (R188). -/
def Seq.pass (x : Seq) (t : Nat) (w : Waits) : Seq :=
  { x with
    csr := x.csr.pass t w, used := [], wide := false, banks := x.banks ||| x.unitBanks
    bankAt := if x.unitBanks = 0 then x.bankAt else t + 1, stepAt := t + 1 }

/-- Time passes for a sequencer (R137, R188). -/
def State.passTime (s : State) (q : Nat) : State := s.modSeq q fun x => x.pass s.tick (s.waits q)

/-! ### Taking a trap -/

/-- TCAUSE of a trap (R128). -/
def Trap.tcause (t : Trap) (slot : Bool) : Word :=
  BitVec.ofNat 64 (t.cause + 2 ^ 8 * t.sub + (if t.aside then 2 ^ 16 else 0) + (if slot then 2 ^ 17 else 0) + 2 ^ 18 * t.pos)

/-- ENUL as trap entry writes it (R129). -/
def PcQueue.enul (c : PcQueue) : BitVec 4 :=
  BitVec.ofNat 4 ((if c.n0 then 1 else 0) + (if c.n1 then 2 else 0) + (if c.prov1 then 4 else 0) + (if c.prov2 then 8 else 0))

/-- Whether queues hold entries. -/
def Queues.holds (k : Queues) : Bool := !(k.sq.isEmpty && k.xa.isEmpty && k.xe.isEmpty && k.bq.isEmpty)

/-- The sequencer as trap entry leaves it, but for the queue at the handler (R127). -/
def Seq.enter (x : Seq) (t : Trap) : Seq :=
  { x with
    tr := { x.tr with
      epc0 := x.pc.q0, epc1 := x.pc.q1, epc2 := x.pc.q2, enul := x.pc.enul
      eslot0 := x.pc.d0, eslot1 := x.pc.d1
      tcause := t.tcause x.pc.d0, tval := t.tval
      eapc := match t.eapc with | some w => w | none => x.tr.eapc
      pie := x.tr.ie, ie := false, inTrap := true, claimed := false
      qpend := (if x.grant = 0 then 0 else 2) ||| (if x.qs.holds then 1 else 0)
      dbpend := if t.cause = 18 ∧ t.sub = 2 then false else x.tr.dbpend }
    shadow := x.qs, qs := {}, link := .none
    csr := match t.rstg with
      | some (a, b, c, d) => { x.csr with rstg0 := a, rstg1 := b, rstg2 := c, rstg3 := d }
      | none => if x.resume && t.cause != 18 then { x.csr with rstg0 := 0, rstg1 := 0, rstg2 := 0, rstg3 := 0 } else x.csr
    resume := false }

/-- After a debug resumption or a Cellar restore the next unit of a core's holder decides what becomes of a stopped mt.mul (R251). -/
def Core.reopen (k : Core) : Core := { k with progress := k.progress.map fun r => { r with again := true } }

/-- Takes a trap (R126, R127): in recover mode poison starts a rollback (R313); a watch match may stop the launch
(R312); a double trap, cause 24 and a trap without a handler go to firmware, which fails the launch (R23, R130,
R134); else the handler is entered. In recover mode the rollback comes first, in a trap handler too (log 103). A stop at a watch
match inside a vector unit leaves the restart vector, which the unit takes up when it goes on (R182, R312). -/
def State.takeTrap (s : State) (q : Nat) (t : Trap) : State :=
  let x := s.seq q
  let p := x.cur.partition
  let n := x.cur.seq
  if x.cur.log = 2 ∧ (t.cause = 19 ∨ (t.cause = 9 ∧ t.sub = 19)) then
    s.modLaunch p n fun l => { l with recovering := true, recCause := t.cause }
  else if t.cause = 17 ∧ (s.part p).watchstop then
    (s.modSeq q fun x =>
      match t.rstg with
      | some (a, b, c, d) => { x with resume := true, csr := { x.csr with rstg0 := a, rstg1 := b, rstg2 := c, rstg3 := d } }
      | none => x).debugHalt p n
  else if x.tr.inTrap || t.cause == 24 || x.tr.tvec == 0 then s.failLaunch p n t.cause
  else
    let s := s.setSeq q (x.enter t)
    let pc := s.queueAt q x.tr.tvec
    s.modSeq q fun y => { y with pc := pc }

/-! ### Retirement -/

/-- The sequencer after its unit has retired: UNITS rises, and the restart registers of a resumed unit return to
zero (R137, R183); a k.eret leaves them for the unit that follows it. -/
def Seq.retire (x : Seq) (m : Move) : Seq :=
  let c := { x.csr with units := x.csr.units + 1 }
  if m = .set then { x with csr := c, woken := false } else
  let c := if x.resume then { c with rstg0 := 0, rstg1 := 0, rstg2 := 0, rstg3 := 0 } else c
  { x with csr := c, resume := false, woken := false }

/-- A unit of sequencer `q` has completed: time passes, the queue moves, and the unit retires. -/
def State.complete (s : State) (q : Nat) (m : Move) : State :=
  (((s.passTime q).movePc q m).modSeq q fun x => x.retire m).dropReads (.seq q)

/-- The state that follows a unit of sequencer `q`. -/
def State.finish (q : Nat) : UnitRes → State
  | .done s m => (s.complete q m).endStep
  | .call s m t => ((s.complete q m).takeTrap q t).endStep
  | .trap s t => (((s.passTime q).dropReads (.seq q)).takeTrap q t).endStep
  | .wait s => (s.passTime q).endStep
  | .gone s => s.endStep

/-- The first unit after a resumption decides what becomes of the progress record: another unit than the recorded one discards it,
the recorded one reads its operands again (R251). -/
def State.issue (s : State) (q : Nat) : State :=
  let x := s.seq q
  match (s.core (coreOf q)).progress with
  | none => s
  | some r =>
    if (x.resume || r.again) && (s.core (coreOf q)).holder == some q then
      s.modCore (coreOf q) fun k =>
        { k with progress := if r.unit = x.pc.q0 then some { r with ops := [], again := false } else none }
    else s

/-- Runs a unit of the sequencer whose turn it is. -/
def runUnit (s : State) (f : State → Nat → UnitRes) : Out :=
  .next (State.finish s.turn (f (s.issue s.turn) s.turn))

/-- A unit that only changes its sequencer. -/
def seqUnit (s : State) (f : Seq → Seq) : Out := runUnit s fun s q => .done (s.modSeq q f) .on

/-- The word of the unit at Q0, at a position: what TVAL reports (R26). -/
def State.wordAt (s : State) (q pos : Nat) : Nat :=
  match s.fetchUnit q (s.seq q).pc.q0 with
  | (ws, _) => (ws.getD pos 0).toNat

/-- TVAL of a cause that reports the word and its position (R26). -/
def State.tvalWord (s : State) (q pos : Nat) : Word := BitVec.ofNat 64 (s.wordAt q pos + pos * 2 ^ 32)

/-- TVAL of a cause that a word of the unit raises: the word with its position, but for causes 23 and 24 the word alone (R26,
R126). -/
def State.causeWord (s : State) (q cause pos : Nat) : Word :=
  if cause = 23 ∨ cause = 24 then BitVec.ofNat 64 (s.wordAt q pos) else s.tvalWord q pos

/-- Cause 1 at a word of the unit (R25, R39, R120). -/
def State.illegal (s : State) (q : Nat) (pos : Nat := 0) : UnitRes :=
  .trap s { cause := 1, tval := s.tvalWord q pos, pos := pos }

/-- An A-side fault at the unit itself: aside = 1 and EAPC holds the unit (R133). -/
def State.asideTrap (s : State) (q cause : Nat) (tval : Word) : UnitRes :=
  .trap s { cause := cause, tval := tval, aside := true, eapc := some (s.seq q).pc.q0 }

/-! ### Returning from a trap -/

/-- The queue that EPC0 to EPC2 and ENUL stand for, provisional entries formed again (R132). -/
def State.queueFrom (s : State) (q : Nat) (e0 e1 e2 : Word) (enul : BitVec 4) (d0 d1 : Bool) : PcQueue :=
  let (q1, p1) := if enul.getLsbD 2 then s.succ q e0 false else (e1, false)
  let (q2, p2) := if enul.getLsbD 3 then s.succ q q1 p1 else (e2, false)
  { q0 := e0, q1 := q1, q2 := q2, n0 := enul.getLsbD 0, n1 := enul.getLsbD 1, prov1 := p1, prov2 := p2, d0 := d0, d1 := d1 }

/-- Leaves a trap: the shadow returns to the queues, ie takes pie, and the program counter queue takes EPC0 to
EPC2 (R132). The claim area, if any, has been reloaded before. -/
def State.leaveTrap (s : State) (q : Nat) : State :=
  let x := s.seq q
  let pc := s.queueFrom q x.tr.epc0 x.tr.epc1 x.tr.epc2 x.tr.enul x.tr.eslot0 x.tr.eslot1
  s.setSeq q { x with
    pc := pc, qs := x.shadow, shadow := {}, link := .none, resume := true
    tr := { x.tr with ie := x.tr.pie, inTrap := false, claimed := false, qpend := 0 } }

/-! ### Interrupts -/

/-- The source of the pending interrupt: 1 the timer, 2 the doorbell, 0 none (R135). -/
def Seq.pendingInt (x : Seq) : Nat :=
  let c := if x.cur.det then x.csr.units else x.csr.cycle
  if x.tr.tcmp ≠ 0 ∧ x.tr.tcmp.toNat ≤ c.toNat then 1 else if x.tr.dbpend then 2 else 0

/-- Whether an interrupt is taken at this unit boundary (R134, R135). A sequencer that has arrived at its launch's
mark takes none before the window opens (R302), and a k.wfi that waits completes first (R160, log 102). -/
def Seq.takesInt (x : Seq) : Bool :=
  x.tr.ie && !x.tr.inTrap && x.pendingInt != 0 && x.mark == .none && x.wfi != some x.csr.units

/-! ### Watch -/

/-- Whether an access meets the watched range in an enabled kind (R312). -/
def Seq.watches (x : Seq) (store : Bool) (ea n : Nat) : Bool :=
  let len := fld x.csr.dwlen 0 32
  let b := x.csr.dwbase.toNat
  (if store then x.csr.dwlen.getLsbD 33 else x.csr.dwlen.getLsbD 32)
    && len != 0 && decide (ea < b + len ∧ b < ea + n)

/-! ### Scalar accesses -/

/-- Where an access lands. -/
inductive Loc
  | pad (o : Nat)
  | glob (x : Xlat)
deriving DecidableEq, Repr

/-- The checks of R143, steps 2 to 5, after alignment: the cause, or where the access lands. -/
def State.locate (s : State) (q ea n : Nat) (k : Acc) : Except Nat Loc :=
  match windowOf ea with
  | .lane => .error 8
  | .padBeyond => .error 7
  | .outside => .error 6
  | .pad => .ok (.pad (ea - padBase))
  | .global =>
    let x := s.seq q
    match s.translate (coreOf q) x.cur.asid x.cur.partition ea n k with
    | .error c => .error c
    | .ok t => .ok (.glob t)

/-- The byte a store holds for an address: the last part that covers it. `f` says where the byte of an address is now (R334). -/
def PStore.byte? (f : Nat → Nat) (st : PStore) (a : Nat) : Option Byte :=
  if st.pad.isSome then none
  else st.parts.foldl (fun r e => if f e.1 ≤ a ∧ a < f e.1 + e.2.length then e.2[a - f e.1]? else r) none

/-- The sequencer's own latest store to a byte that is not yet admitted (R144, R339). -/
def Seq.pendingByte (f : Nat → Nat) (x : Seq) (a : Nat) : Option Byte :=
  x.stores.foldl (fun r st => match st.byte? f a with | some b => some b | none => r) none

/-- Lays the sequencer's own pending stores over bytes read (R144). -/
def Seq.overlay (f : Nat → Nat) (x : Seq) (pa : Nat) : List Byte → List Byte
  | [] => []
  | b :: rest => (x.pendingByte f pa).getD b :: Seq.overlay f x (pa + 1) rest

/-- Bytes of device memory as a sequencer's load returns them (R144, R226, log 34). A store held for a frozen frame is
seen where the frame goes (R335). -/
def State.readGlob (s : State) (q pa n : Nat) : List Byte :=
  match (s.seq q).stores with
  | [] => s.readPhys pa n
  | _ => (s.seq q).overlay s.canon (s.canon pa) (s.readPhys pa n)

/-- Whether the sequencer has a store to bytes of [pa, pa + n) that is not yet performed, in its store buffer or sent to a window:
a read through a window waits for it (R339). -/
def State.ownOpen (s : State) (q pa n : Nat) : Bool :=
  ((s.seq q).stores.any fun st => st.pad.isNone && st.parts.any fun e => decide (s.canon e.1 < pa + n ∧ pa < s.canon e.1 + e.2.length))
    || (s.sent q).any fun r => decide (r.pa < pa + n ∧ pa < r.pa + r.len)

/-- The result of reading bytes: the bytes, a fault with its TVAL, or a request that must first be sent. -/
inductive ReadRes
  | ok (bytes : List Byte)
  | bad (cause : Nat) (tval : Option Word)
  | need
  | pend
deriving DecidableEq, Repr

/-- What a read request has come to, for `n` bytes from `pa` on (R411). -/
def Req.result (r : Req) (pa n : Nat) : ReadRes :=
  match r.answer with
  | none => .pend
  | some (.data b) => .ok ((b.drop (pa - r.pa)).take n)
  | some .done => .pend
  | some .refused => .bad 5 none
  | some .poison => .bad 19 none
  | some (.lost k) => .bad 20 (some (BitVec.ofNat 64 k))

/-- Reads physical bytes for an owner: device memory at once but for a sector that must first be filled (R322, R329), the host and peer
windows by a request (R144, R389, R411). -/
def State.readAny (s : State) (o : Owner) (q pa n : Nat) (comp : Bool := false) : ReadRes :=
  if isRemote pa then
    match s.findReq o pa n with
    | none => if s.ownOpen q pa n then .pend else .need
    | some r => r.result pa n
  else if s.needsFill pa n comp then .need
  else if (s.badSector (dieOf q) pa n).isSome then .bad 19 none
  else .ok (s.readGlob q pa n)

/-- Brings what a read of [pa, pa + n) needs first: a request to a window, or a fill of the die cache (R322, R329, R389, R411). -/
def State.bring (s : State) (o : Owner) (pa n attr : Nat) (va : Nat := 0) (comp : Bool := false) : State :=
  if isRemote pa then s.request o pa n false attr [] va else s.fillFor pa n comp

/-- Whether a strong store of the sequencer is not yet performed: nothing later is performed before it (R344). -/
def State.strongOpen (s : State) (q : Nat) : Bool := (s.seq q).stores.any PStore.strong || (s.sent q).any Req.strong

/-- Whether a load must wait: for a strong store, for an SO store when it is to an SO page itself, and for every
store when it is strong (R342, R344, R345). -/
def State.loadWaits (s : State) (q : Nat) (so strong : Bool) : Bool :=
  s.strongOpen q || (so && ((s.seq q).stores.any (fun st => st.ord == 1) || (s.sent q).any Req.so)) || (strong && s.storesOpen q)

/-- Whether a read of the scratchpad must wait: for a strong store, and for a scratchpad store that is not yet performed (R144,
R268, R344). -/
def State.padReadWaits (s : State) (q : Nat) : Bool := s.strongOpen q || (s.seq q).stores.any fun st => st.pad.isSome

/-- Whether a scratchpad store is performed at once: no strong store, fence or scratchpad store of the sequencer stands before it
(R162, R268, R344). -/
def State.padNow (s : State) (q : Nat) : Bool :=
  !s.strongOpen q && (s.seq q).stores.all fun st => !st.parts.isEmpty && st.pad.isNone

/-- Whether a sequencer's access must wait until the table words that translate its address have been filled into a die cache (R322,
R331 to R333). -/
def State.tablesWait (s : State) (q va : Nat) : Bool := windowOf va == .global && s.walkWaits (coreOf q) (s.seq q).cur.asid va

/-- Fills the table words that translate an address of a sequencer. -/
def State.fillTables (s : State) (q va : Nat) : State := s.fillWalk (coreOf q) (s.seq q).cur.asid va

/-- A mark among the reads of a unit: the fill that a vector access has asked for, of a compressed page or not (R322, R329). -/
def fillMark (q pa n : Nat) (comp : Bool) : Req :=
  { owner := .seq q, port := 254, tag := 0, pa := pa, len := n, write := false, attr := if comp then 1 else 0 }

/-- Makes the fills that a unit has asked for. -/
def State.fillMarks (s : State) (q : Nat) : State :=
  let mine (r : Req) : Bool := r.owner == .seq q && r.port == 254
  let ms := s.requests.filter mine
  if ms.isEmpty then s
  else ms.foldl (fun (s : State) r => s.fillFor r.pa r.len (r.attr == 1)) { s with requests := s.requests.filter fun r => !mine r }

/-- What a read of several bytes under the launch's ASID comes to: the bytes, a fault with its address, or a wait. -/
inductive VaRead
  | ok (bytes : List Byte)
  | bad (cause : Nat) (tval : Word)
  | wait (s : State)
deriving DecidableEq, Repr

/-- Reads `n` bytes at `va` for a unit of sequencer `q`, piece by piece within 128-byte lines; the fuel bounds the
number of pieces. -/
def State.readVaFuel (s : State) (q : Nat) : Nat → Nat → Nat → List Byte → VaRead
  | 0, _, _, acc => .ok acc
  | f + 1, va, n, acc =>
    if n = 0 then .ok acc
    else
      let k := Nat.min n (128 - va % 128)
      let here : Word := BitVec.ofNat 64 va
      if s.tablesWait q va then .wait (s.fillTables q va) else
      match s.locate q va k .read with
      | .error c => .bad c here
      | .ok (.pad o) =>
        let p := s.pad (clusterOf q)
        if s.padReadWaits q then .wait s
        else
        match p.bad 0 0 o k with
        | some b => .bad 19 (BitVec.ofNat 64 (padBase + b))
        | none => State.readVaFuel s q f (va + k) (n - k) (acc ++ p.read 0 0 o k)
      | .ok (.glob t) =>
        if s.loadWaits q (aOrd t.attr == 1) false then .wait s
        else
        match s.readAny (.seq q) q t.pa k (aStore t.attr == 1) with
        | .ok b => State.readVaFuel s q f (va + k) (n - k) (acc ++ b)
        | .bad c tv => .bad c (tv.getD here)
        | .need => .wait (s.bring (.seq q) t.pa k (aOrd t.attr) 0 (aStore t.attr == 1))
        | .pend => .wait s

/-- Reads `n` bytes at `va` for a unit of sequencer `q`. -/
def State.readVa (s : State) (q va n : Nat) : VaRead := s.readVaFuel q (n / 128 + 2) va n []

/-- Escape subkind of a committed store: 1 host-visible page, 2 peer-visible page or peer window (R307). -/
def escapeOf (attr : Word) (pa : Nat) : Nat :=
  match regionOf pa with
  | .peer _ => 2
  | _ => if aEsc attr = 1 then 1 else if aEsc attr = 2 then 2 else 0

/-- Puts a store of one range of bytes into the store buffer, with its record promised or its escape record
written; none when the ring cannot take it: cause 13 (R118, R145, R305 to R308). -/
def State.bufferStore (s : State) (q : Nat) (x : Xlat) (bytes : List Byte) (release strong : Bool) : Option State :=
  let y := s.seq q
  let esc := escapeOf x.attr x.pa
  let d := homeDie x.pa
  let st : PStore := { parts := [(x.pa, bytes)], vas := [x.va], ord := aOrd x.attr, release := release, strong := strong, comp := aStore x.attr == 1 }
  if !y.logs then some (s.modSeq q fun y => { y with stores := y.stores ++ [st] })
  else if esc ≠ 0 then
    (s.escape q d esc x.pa bytes.length).map fun s => s.modSeq q fun y => { y with stores := y.stores ++ [st] }
  else
    let r : LogRec := { kind := 1, space := 0, writer := q, window := y.csr.winno.toNat, addr := x.pa, size := recSize bytes.length }
    (s.reserve y.cur.partition y.cur.seq d r.size).map fun s =>
      s.modSeq q fun y => { y with stores := y.stores ++ [{ st with entry := some r }] }

/-- Logs a write to scratchpad bytes of a cluster before it takes effect, for a logging launch and a live region;
none when the ring cannot take the record (R305, R306, R308). `writer` is 0x7FF for an engine. -/
def State.logPad (s : State) (p n log window writer c kind extra : Nat) (locs : List Nat) : Option State :=
  if log = 0 then some s
  else
    let live := locs.filter fun o => s.padLive p n c o
    if live.isEmpty then some s
    else
      let ls := live.map (padLoc c)
      s.appendRec p n (c / 16)
        { kind := kind, space := 1, writer := writer, window := window, addr := live.headD 0 + (c % 16) * 2 ^ 22, extra := extra
          locs := ls, old := s.oldBytes 1 ls, size := kindSize kind extra ls.length }

/-- Locations as maximal runs of consecutive ones, of at most 32 KiB: what one record's count can say (R306). -/
def flatRuns : List Nat → List (Nat × Nat)
  | [] => []
  | a :: rest =>
    match flatRuns rest with
    | [] => [(a, 1)]
    | r :: rs => if a + 1 = r.1 ∧ r.2 < 32768 then (a, r.2 + 1) :: rs else (a, 1) :: r :: rs

/-- Logs a write of whole rows to scratchpad bytes of a cluster, one record for each maximal run of live bytes (R305, R306, R308). -/
def State.logFlat (s : State) (p n log window writer c kind : Nat) (locs : List Nat) : Option State :=
  if log = 0 then some s
  else
    (flatRuns (locs.filter fun o => s.padLive p n c o)).foldl (fun (t : Option State) r =>
      t.bind fun s => s.logPad p n log window writer c (runKind kind r.2) (kindExtra (runKind kind r.2) r.2) (locsFrom r.1 r.2)) (some s)

/-- Puts a scratchpad store into the store buffer, behind what it must follow; its record is promised. None when the ring cannot
take it (R118, R268, R305, R308). -/
def State.bufferPad (s : State) (q kind extra : Nat) (st : PStore) : Option State :=
  let x := s.seq q
  let c := clusterOf q
  let p := x.cur.partition
  let n := x.cur.seq
  let live := ((st.parts.map fun e => locsFrom e.1 e.2.length).flatten).filter fun o => s.padLive p n c o
  let push (s : State) (e : Option LogRec) : State :=
    s.modSeq q fun y => { y with stores := y.stores ++ [{ st with pad := some c, entry := e }] }
  if !x.logs || live.isEmpty then some (push s none)
  else
    let r : LogRec :=
      { kind := kind, space := 1, writer := q, window := x.csr.winno.toNat, addr := live.headD 0 + (c % 16) * 2 ^ 22, extra := extra
        locs := live.map (padLoc c), size := kindSize kind extra live.length }
    (s.reserve p n (c / 16) r.size).map fun s => push s (some r)

/-- A sequencer's store to its cluster's scratchpad: performed at retirement, or behind the stores that it must follow (R162,
R268, R344). -/
def State.storePad (s : State) (q o : Nat) (bytes : List Byte) : Option State :=
  let x := s.seq q
  let c := clusterOf q
  let s := s.modSeq q fun x => x.meetBanks o bytes.length
  if s.padNow q then
    (s.logPad x.cur.partition x.cur.seq x.cur.log x.csr.winno.toNat q c 1 0 (locsFrom o bytes.length)).map fun s =>
      s.modPad c fun p => p.write 0 0 o bytes
  else s.bufferPad q 1 0 { parts := [(o, bytes)], ord := 0 }

/-- Checks that `n` bytes at `va` may be stored to, piece by piece: the first failing piece's cause and address. -/
def State.storableFuel (s : State) (q : Nat) : Nat → Nat → Nat → Option (Nat × Word)
  | 0, _, _ => none
  | f + 1, va, n =>
    if n = 0 then none
    else
      let k := Nat.min n (128 - va % 128)
      match s.locate q va k .write with
      | .error c => some (c, BitVec.ofNat 64 va)
      | .ok (.pad _) => State.storableFuel s q f (va + k) (n - k)
      | .ok (.glob t) =>
        if aStore t.attr = 3 then some (5, BitVec.ofNat 64 va) else State.storableFuel s q f (va + k) (n - k)

/-- Stores bytes at `va` piece by piece, each storable: scratchpad at once, memory through the store buffer; none
when a ring is full. -/
def State.storeVaFuel (q : Nat) : Nat → State → Nat → List Byte → Option State
  | 0, s, _, _ => some s
  | f + 1, s, va, bytes =>
    match bytes with
    | [] => some s
    | _ =>
      let k := 128 - va % 128
      let b := bytes.take k
      let r := match s.locate q va b.length .write with
        | .error _ => some s
        | .ok (.pad o) => s.storePad q o b
        | .ok (.glob t) => s.bufferStore q t b false false
      match r with
      | none => none
      | some s => State.storeVaFuel q f s (va + k) (bytes.drop k)

/-- Whether the vector unit is frozen: in a trap and not claimed (R130). -/
def Seq.frozen (x : Seq) : Bool := x.tr.inTrap && !x.tr.claimed

/-- A fault that reports a word of the unit (R26, R126). -/
def State.wordTrap (s : State) (q cause : Nat) (pos : Nat := 0) : UnitRes :=
  .trap s { cause := cause, tval := s.causeWord q cause pos, pos := pos }

/-- Cause 24 at a word of the unit: to firmware (R130). -/
def State.frozenTrap (s : State) (q pos : Nat) : UnitRes := s.wordTrap q 24 pos

/-- Raises a failed peer store at a fence, release, mark or k.end (R411). -/
def State.peerFault (s : State) (q : Nat) (pos : Nat := 0) : Option UnitRes :=
  match (s.seq q).peerErr with
  | none => none
  | some (c, v) => some (.trap (s.modSeq q fun x => { x with peerErr := none }) { cause := c, tval := v, pos := pos })

/-- Whether a release at fabric scope waits: every earlier store must have been performed, so that one which failed is raised at it
(R410, R411). -/
def State.releaseWaits (s : State) (q pa : Nat) (release : Bool) : Bool :=
  match regionOf pa with
  | .peer _ => release && s.storesOpen q
  | _ => false

/-- A failed peer store is raised at a release at fabric scope: one that goes to a peer window (R410, R411). -/
def State.releaseFault (s : State) (q pa : Nat) (release : Bool) : Option UnitRes :=
  match regionOf pa with
  | .peer _ => if release then s.peerFault q else none
  | _ => none

/-- Cause 13 at a unit (R308). It is no A-side fault of R133, whose list of causes leaves it out: `aside` is 0 and EAPC stays as it
was, at a store too (log 104). -/
def State.logFull (s : State) (q : Nat) (pos : Nat := 0) : UnitRes :=
  .trap s { cause := 13, tval := BitVec.ofNat 64 (s.seq q).csr.winno.toNat, pos := pos }

end Sys2Proof.Machine
end

