-- ==== Sys2Proof/Machine/Operands.lean ====
section
/-!
DEFINITION. Sys2Proof/Machine/Operands.lean: immediates (02_words_and_opcode_map.md R31, R32) and the functions
of the integer ALU (04_numbers.md R93; 06_sequencer_instructions.md R140).
-/

namespace Sys2Proof.Machine

open Sys2Proof

/-- imm12, sign-extended (R31). -/
def imm12 (i : BitVec 12) : Word := i.signExtend 64
/-- off10, a signed byte offset (R31). -/
def off10 (i : BitVec 10) : Word := i.signExtend 64
/-- Target of a branch at `u` (R32). -/
def target11 (u : Word) (d : BitVec 11) : Word := u + 4 * d.signExtend 64
/-- Target of a jump at `u` (R32). -/
def target24 (u : Word) (d : BitVec 24) : Word := u + 4 * d.signExtend 64

/-- A Boolean as a register value. -/
def bit (b : Bool) : Word := if b then 1 else 0

/-- Shift left by y[5:0]. -/
def aluShl (x y : Word) : Word := x <<< (y.toNat % 64)
/-- Shift right by y[5:0], zeros in. -/
def aluShr (x y : Word) : Word := x >>> (y.toNat % 64)
/-- Shift right by y[5:0], sign copies in. -/
def aluSra (x y : Word) : Word := x.sshiftRight (y.toNat % 64)
/-- Signed less-than. -/
def aluSlt (x y : Word) : Word := bit (x.slt y)
/-- Unsigned less-than. -/
def aluSltz (x y : Word) : Word := bit (x.ult y)
/-- Signed minimum. -/
def aluMin (x y : Word) : Word := if x.slt y then x else y
/-- Signed maximum. -/
def aluMax (x y : Word) : Word := if x.slt y then y else x
/-- Unsigned minimum. -/
def aluMinz (x y : Word) : Word := if x.ult y then x else y
/-- Unsigned maximum. -/
def aluMaxz (x y : Word) : Word := if x.ult y then y else x
/-- Bits [127:64] of the signed product. -/
def aluMulh (x y : Word) : Word := BitVec.ofInt 64 (x.toInt * y.toInt / 2 ^ 64)
/-- Bits [127:64] of the unsigned product. -/
def aluMulhz (x y : Word) : Word := BitVec.ofNat 64 (x.toNat * y.toNat / 2 ^ 64)
/-- Signed quotient, truncated; divisor 0 gives all ones (R93). -/
def aluDiv (x y : Word) : Word := if y = 0 then BitVec.allOnes 64 else x.sdiv y
/-- Unsigned quotient; divisor 0 gives all ones (R93). -/
def aluDivz (x y : Word) : Word := if y = 0 then BitVec.allOnes 64 else x / y
/-- Signed remainder with the dividend's sign; divisor 0 gives the dividend (R93). -/
def aluRem (x y : Word) : Word := if y = 0 then x else x.srem y
/-- Unsigned remainder; divisor 0 gives the dividend (R93). -/
def aluRemz (x y : Word) : Word := if y = 0 then x else x % y
/-- Leading zero bits; 64 for zero. -/
def aluClz (x : Word) : Word := if x = 0 then 64 else BitVec.ofNat 64 (63 - Nat.log2 x.toNat)
/-- Zero bits below the lowest one bit, among `n`. -/
def ctzBits : Nat → Nat → Nat
  | 0, _ => 0
  | n + 1, v => if v % 2 = 1 then 0 else 1 + ctzBits n (v / 2)
/-- Trailing zero bits; 64 for zero. -/
def aluCtz (x : Word) : Word := BitVec.ofNat 64 (ctzBits 64 x.toNat)
/-- Number of one bits. -/
def aluPop (x : Word) : Word := BitVec.ofNat 64 (popBits 64 x.toNat)
/-- 32-bit sum, sign-extended. -/
def aluAddw (x y : Word) : Word := ((x + y).truncate 32).signExtend 64
/-- 32-bit difference, sign-extended. -/
def aluSubw (x y : Word) : Word := ((x - y).truncate 32).signExtend 64
/-- Bits that an extension keeps. -/
def extBits : ExtW → Nat
  | .b8 => 8 | .b16 => 16 | .b32 => 32
/-- Sign extension of the low bits. -/
def aluSext (w : ExtW) (x : Word) : Word := (x.truncate (extBits w)).signExtend 64
/-- Zero extension of the low bits. -/
def aluZext (w : ExtW) (x : Word) : Word := (x.truncate (extBits w)).zeroExtend 64

/-- Replaces one 16-bit quarter (R142). -/
def insQuarter (x : Word) (q : BitVec 2) (i : BitVec 16) : Word :=
  let k := 16 * q.toNat
  (x &&& ~~~ ((0xFFFF : Word) <<< k)) ||| ((i.zeroExtend 64) <<< k)

/-- Bytes of a scalar access (R30, R143). -/
def widthBytes : Width → Nat
  | .s8 => 1 | .s16 => 2 | .s32 => 4 | .w64 => 8 | .z8 => 1 | .z16 => 2 | .z32 => 4

/-- A loaded value extended as w directs (R144). -/
def extendW (w : Width) (v : Nat) : Word :=
  match w with
  | .s8 => (BitVec.ofNat 8 v).signExtend 64
  | .s16 => (BitVec.ofNat 16 v).signExtend 64
  | .s32 => (BitVec.ofNat 32 v).signExtend 64
  | .w64 => BitVec.ofNat 64 v
  | .z8 => BitVec.ofNat 64 (v % 2 ^ 8)
  | .z16 => BitVec.ofNat 64 (v % 2 ^ 16)
  | .z32 => BitVec.ofNat 64 (v % 2 ^ 32)

end Sys2Proof.Machine
end

