-- ==== Sys2Proof/Machine/Branch.lean ====
section
/-!
DEFINITION. Sys2Proof/Machine/Branch.lean: branches and jumps (06_sequencer_instructions.md R149 to R152;
05_sequencer.md R123, R124).
-/

namespace Sys2Proof.Machine

open Sys2Proof

/-- How the queue moves for a branch at its unit (R123). -/
def branchMove (taken : Bool) (n : Nul) (t : Word) : Move :=
  if taken then .taken t (n == .ifTaken) else if n = .ifNot then .annulBoth else .fall

/-- A branch of major b (R149). -/
def branchB (f : Word → Word → Bool) (a b : Reg) (n : Nul) (d : BitVec 11) (s : State) : Out :=
  runUnit s fun s q =>
    let x := s.seq q
    .done s (branchMove (f (x.getA a) (x.getA b)) n (target11 x.pc.q0 d))

/-- `b.eq` (R149). -/
def execBEq (a b : Reg) (n : Nul) (d : BitVec 11) (s : State) : Out := branchB (fun x y => x == y) a b n d s
/-- `b.ne` (R149). -/
def execBNe (a b : Reg) (n : Nul) (d : BitVec 11) (s : State) : Out := branchB (fun x y => x != y) a b n d s
/-- `b.lt` (R149). -/
def execBLt (a b : Reg) (n : Nul) (d : BitVec 11) (s : State) : Out := branchB (fun x y => x.slt y) a b n d s
/-- `b.ge` (R149). -/
def execBGe (a b : Reg) (n : Nul) (d : BitVec 11) (s : State) : Out := branchB (fun x y => !x.slt y) a b n d s
/-- `b.ltz` (R149). -/
def execBLtz (a b : Reg) (n : Nul) (d : BitVec 11) (s : State) : Out := branchB (fun x y => x.ult y) a b n d s
/-- `b.gez` (R149). -/
def execBGez (a b : Reg) (n : Nul) (d : BitVec 11) (s : State) : Out := branchB (fun x y => !x.ult y) a b n d s

/-- A queue branch: pops one bit; an empty bq is cause 1 (R120, R150). -/
def branchQ (want : Bool) (n : Nul) (d : BitVec 11) (s : State) : Out :=
  runUnit s fun s q =>
    let x := s.seq q
    match x.qs.bq with
    | [] => s.illegal q
    | b :: rest =>
      .done (s.modSeq q fun x => { x with qs := { x.qs with bq := rest } }) (branchMove (b == want) n (target11 x.pc.q0 d))

/-- `bq.t` (R150). -/
def execBqT (n : Nul) (d : BitVec 11) (s : State) : Out := branchQ true n d s
/-- `bq.f` (R150). -/
def execBqF (n : Nul) (d : BitVec 11) (s : State) : Out := branchQ false n d s

/-- `j` (R151). -/
def execJ (n : Nul) (d : BitVec 24) (s : State) : Out :=
  runUnit s fun s q => .done s (branchMove true n (target24 (s.seq q).pc.q0 d))

/-- A jump that needs its link value takes the fetch fault of a slot it cannot measure (R124). -/
def withLink (s : State) (q : Nat) (f : Word → UnitRes) : UnitRes :=
  match s.linkValue q with
  | .ok v => f v
  | .error (c, va) => .trap s { cause := c, tval := va }

/-- `jal` (R124, R151). -/
def execJal (n : Nul) (d : BitVec 24) (s : State) : Out :=
  runUnit s fun s q =>
    withLink s q fun v =>
      .done (s.modSeq q fun x => x.setA 31 v) (branchMove true n (target24 (s.seq q).pc.q0 d))

/-- `jr`: the fetch fault of a slot that its link value needs comes before its target's alignment (R124, R136, R152). -/
def execJr (d a : Reg) (s : State) : Out :=
  runUnit s fun s q =>
    let t := (s.seq q).getA a
    let go (s' : State) : UnitRes := if t.toNat % 4 ≠ 0 then s.asideTrap q 3 t else .done s' (.taken t false)
    if d = 0 then go s else withLink s q fun v => go (s.modSeq q fun x => x.setA d v)

end Sys2Proof.Machine
end

