-- ==== Sys2Proof/Machine/Flags.lean ====
section
/-!
DEFINITION. Sys2Proof/Machine/Flags.lean: the sticky flags of the scalar unit and of the lanes, and the FFLAGS
register over them (04_numbers.md R97, R99).
-/

namespace Sys2Proof.Machine

open Sys2Proof

/-- ORs flags into the scalar FFLAGS. -/
def Seq.orFlags (x : Seq) (f : FFlags) : Seq := { x with csr := { x.csr with fflags := x.csr.fflags ||| f } }

/-- ORs flags into the flags of one lane, numbered 8 * group + lane. -/
def Core.orLane (k : Core) (ln : Nat) (f : FFlags) : Core :=
  if f = 0 then k else { k with laneFlags := FMap.set 0 k.laneFlags ln (FMap.get 0 k.laneFlags ln ||| f) }

/-- The lanes of the granted groups. -/
def grantedLanes (g : BitVec 4) : List Nat := ((groupsOf g).map fun k => locsFrom (8 * k) 8).flatten

/-- FFLAGS as a read returns it: the scalar flags and those of every lane of the granted groups (R99). -/
def State.readFflags (s : State) (q : Nat) : FFlags :=
  let x := s.seq q
  (grantedLanes x.grant).foldl (fun f ln => f ||| FMap.get 0 (s.core (coreOf q)).laneFlags ln) x.csr.fflags

/-- Applies a write, set or clear to the scalar flags and to each granted lane's flags separately (R99). -/
def State.modFflags (s : State) (q : Nat) (f : FFlags → FFlags) : State :=
  let x := s.seq q
  let s := s.modSeq q fun x => { x with csr := { x.csr with fflags := f x.csr.fflags } }
  s.modCore (coreOf q) fun k =>
    { k with laneFlags := (grantedLanes x.grant).foldl (fun m ln => FMap.set 0 m ln (f (FMap.get 0 m ln))) k.laneFlags }

/-- FCTL as a unit samples it at issue (R97). -/
def Seq.fctl (x : Seq) : FCtl := FCtl.of x.csr.fctl

/-- FCTL after a write of a value: a rounding mode of 5 to 7 leaves the field, reserved bits stay zero (R97). -/
def writeFctl (old new : Word) : Word :=
  let m := if new.toNat % 8 < 5 then new.toNat % 8 else old.toNat % 8
  BitVec.ofNat 64 (m + new.toNat / 8 % 8 * 8)

end Sys2Proof.Machine
end

