-- ==== Sys2Proof/Machine/VType.lean ====
section
/-!
DEFINITION. Sys2Proof/Machine/VType.lean: vtype, element layout and lane groups (08_core.md R169 to R176, R182,
R183, R186).
-/

namespace Sys2Proof.Machine

open Sys2Proof

/-- Element format code of a vtype. -/
def vtFmt (w : Word) : Byte := w.extractLsb' 0 8
/-- LMUL of a vtype. -/
def vtLmul (w : Word) : Nat := 2 ^ fld w 8 2
/-- Whether tail elements are zeroed. -/
def vtTailZero (w : Word) : Bool := w.getLsbD 10
/-- Whether inactive elements are zeroed. -/
def vtInactZero (w : Word) : Bool := w.getLsbD 11
/-- Destination format code of a vtype; 0 is none. -/
def vtDfmt (w : Word) : Byte := w.extractLsb' 24 8

/-- Width in bits of a format code; 0 for a reserved code. -/
def codeWidth (c : Byte) : Nat :=
  match Fmt.ofCode c with
  | some f => f.width
  | none => 0

/-- Element width of a vtype. -/
def vtEw (w : Word) : Nat := codeWidth (vtFmt w)

/-- Elements per lane group: 1,024 / EW × LMUL (R170); 0 when no vtype has been granted. -/
def vtPer (w : Word) : Nat := if vtEw w = 0 then 0 else 1024 / vtEw w * vtLmul w

/-- Number of granted groups. -/
def grants (g : BitVec 4) : Nat := popBits 4 g.toNat

/-- VLMAX of a vtype under a grant (R15). -/
def vlmaxOf (w : Word) (g : BitVec 4) : Nat := grants g * vtPer w

/-- Whether a vtype may be granted (R171, R174). -/
def vtUsable (w : Word) : Bool :=
  fld w 12 12 == 0 && fld w 32 32 == 0 && (Fmt.ofCode (vtFmt w)).isSome
    && (vtDfmt w == 0 || (Fmt.ofCode (vtDfmt w)).isSome) && decide (vtLmul w ≤ vtEw w / 8)

/-- Positions of the group of rank `k` below a vector length (R182). -/
def positionsBelow (per vl k : Nat) : Nat := Nat.min per (vl - k * per)

/-- Rank of a group among the granted ones. -/
def rankOf (g : BitVec 4) (k : Nat) : Nat := popBits k g.toNat

/-- Restart index of a group as stored (R183). -/
def Csrs.rstg (c : Csrs) (g : Nat) : Nat :=
  match g with | 0 => c.rstg0 | 1 => c.rstg1 | 2 => c.rstg2 | _ => c.rstg3

/-- Restart index of a group as it reads: at most the group's positions below VL (R183). -/
def Seq.rstgRead (x : Seq) (g : Nat) : Nat :=
  Nat.min (x.csr.rstg g) (if x.grant.getLsbD g then positionsBelow (vtPer x.csr.vtype) x.csr.vl (rankOf x.grant g) else 0)

/-- Releases granted groups of a sequencer, zeroing them first, and trims VL to `c` groups (R165, R186). -/
def State.keepGroups (s : State) (q c : Nat) : State :=
  let x := s.seq q
  let gs := groupsOf x.grant
  if gs.length ≤ c then s
  else
    let out := gs.drop c
    let g' : BitVec 4 := BitVec.ofNat 4 ((gs.take c).foldl (fun m k => m + 2 ^ k) 0)
    let s := s.modCore (coreOf q) fun k => k.zeroGroups out
    s.modSeq q fun x =>
      { x with grant := g', csr := { x.csr with vl := Nat.min x.csr.vl (c * vtPer x.csr.vtype) } }

/-- ApplyPendingReclaim: not while in a trap; as a pre-emption it breaks the link (R148, R174, R186, R381). -/
def State.applyReclaim (s : State) (q : Nat) : State :=
  let x := s.seq q
  match x.reclaim with
  | none => s
  | some c => if x.tr.inTrap then s else (s.keepGroups q c).modSeq q fun x => { x with reclaim := none, link := .none }

end Sys2Proof.Machine
end

