-- ==== Sys2Proof/Machine/Csr.lean ====
section
/-!
DEFINITION. Sys2Proof/Machine/Csr.lean: the CSR list and the kc words (05_sequencer.md R128, R129, R131, R135,
R137; 02_words_and_opcode_map.md R39; 06_sequencer_instructions.md R156).
-/

namespace Sys2Proof.Machine

open Sys2Proof

/-- The value a CSR reads; none for a number the list does not define (R39, R137). -/
def State.readCsr (s : State) (q c : Nat) : Option Word :=
  let x := s.seq q
  match c with
  | 0x001 => some x.csr.fctl
  | 0x002 => some ((s.readFflags q).zeroExtend 64)
  | 0x003 => some x.csr.vtype
  | 0x004 => some (BitVec.ofNat 64 x.csr.vl)
  | 0x005 => some (bit x.cur.det)
  | 0x006 => some x.csr.mskip
  | 0x008 => some (BitVec.ofNat 64 q)
  | 0x009 => some (BitVec.ofNat 64 (coreOf q))
  | 0x00A => some (BitVec.ofNat 64 x.cur.seq)
  | 0x00B => some (x.csr.winno.zeroExtend 64)
  | 0x010 => some x.csr.cycle
  | 0x011 => some x.csr.units
  | 0x012 => some x.csr.stallq
  | 0x013 => some x.csr.stalls
  | 0x014 => some x.csr.stallb
  | 0x015 => some x.csr.stallm
  | 0x018 => some x.csr.skipcnt
  | 0x020 => some x.csr.npv0
  | 0x021 => some x.csr.npv1
  | 0x022 => some x.csr.npv2
  | 0x023 => some x.csr.npv3
  | 0x030 => some x.csr.sampctl
  | 0x031 => some x.csr.sampbase
  | 0x100 => some x.tr.tvec
  | 0x101 => some x.tr.tcause
  | 0x102 => some x.tr.tval
  | 0x103 => some x.tr.epc0
  | 0x104 => some x.tr.epc1
  | 0x105 => some x.tr.epc2
  | 0x106 => some (x.tr.enul.zeroExtend 64)
  | 0x107 => some x.tr.eapc
  | 0x108 => some (BitVec.ofNat 64 (x.rstgRead 0))
  | 0x109 => some (BitVec.ofNat 64 (x.rstgRead 1))
  | 0x10A => some (BitVec.ofNat 64 (x.rstgRead 2))
  | 0x10B => some (BitVec.ofNat 64 (x.rstgRead 3))
  | 0x10C => some x.tr.claimbase
  | 0x10D => some x.tr.tstatus
  | 0x10E => some (x.grant.zeroExtend 64)
  | 0x10F => some x.tr.tcmp
  | 0x200 =>
    let b := s.part x.cur.partition
    some (BitVec.ofNat 64 ((if b.brkstop then 1 else 0) + (if b.watchstop then 2 else 0)))
  | 0x201 => some x.csr.dwbase
  | 0x202 => some x.csr.dwlen
  | _ => none

/-- Whether a CSR has a writable field (R137). DCTL has none (R312). -/
def csrWritable (c : Nat) : Bool :=
  match c with
  | 0x001 | 0x002 | 0x006 | 0x030 | 0x031 | 0x100 | 0x103 | 0x104 | 0x105 | 0x106 | 0x108 | 0x109 | 0x10A | 0x10B
  | 0x10C | 0x10D | 0x10F | 0x201 | 0x202 => true
  | _ => false

/-- SAMPCTL after a write (R39, R230): `src` is s[ra], whose bit 7 clears full. -/
def writeSampctl (old new src : Word) : Word :=
  let per := if fld new 1 5 < 21 then fld new 1 5 else fld old 1 5
  let size := if fld new 8 4 < 13 then fld new 8 4 else fld old 8 4
  let full := if src.getLsbD 7 then 0 else fld old 7 1
  BitVec.ofNat 64 (fld new 0 1 + 2 * per + 2 ^ 6 * fld new 6 1 + 2 ^ 7 * full + 2 ^ 8 * size + 2 ^ 32 * fld new 32 32)

/-- A sequencer after a write of `new` to a CSR other than FFLAGS; `src` is s[ra], which alone clears W1C fields
(R39). -/
def Seq.writeCsr (x : Seq) (c : Nat) (new src : Word) : Seq :=
  match c with
  | 0x001 => { x with csr := { x.csr with fctl := writeFctl x.csr.fctl new } }
  | 0x006 => { x with csr := { x.csr with mskip := new &&& 0xFFFFFFFF80000000 } }
  | 0x030 => { x with csr := { x.csr with sampctl := writeSampctl x.csr.sampctl new src } }
  | 0x031 => { x with csr := { x.csr with sampbase := new &&& ~~~ 31 } }
  | 0x100 => { x with tr := { x.tr with tvec := new &&& ~~~ 3 } }
  | 0x103 => { x with tr := { x.tr with epc0 := new &&& ~~~ 3 } }
  | 0x104 => { x with tr := { x.tr with epc1 := new &&& ~~~ 3 } }
  | 0x105 => { x with tr := { x.tr with epc2 := new &&& ~~~ 3 } }
  | 0x106 => { x with tr := { x.tr with enul := new.truncate 4 } }
  | 0x108 => { x with csr := { x.csr with rstg0 := new.toNat % 256 } }
  | 0x109 => { x with csr := { x.csr with rstg1 := new.toNat % 256 } }
  | 0x10A => { x with csr := { x.csr with rstg2 := new.toNat % 256 } }
  | 0x10B => { x with csr := { x.csr with rstg3 := new.toNat % 256 } }
  | 0x10C => { x with tr := { x.tr with claimbase := new &&& ~~~ 63 } }
  | 0x10D =>
    { x with tr := { x.tr with
        ie := new.getLsbD 2, pie := new.getLsbD 3, dbpend := x.tr.dbpend && !src.getLsbD 6 } }
  | 0x10F => { x with tr := { x.tr with tcmp := new } }
  | 0x201 => { x with csr := { x.csr with dwbase := new } }
  | 0x202 => { x with csr := { x.csr with dwlen := new &&& 0x3FFFFFFFF } }
  | _ => x

/-- The three operations of a kc word that writes (R39). -/
inductive CsrOp | rw | rs | rc
deriving DecidableEq, Repr

/-- What the operation makes of the old value. -/
def csrValue (op : CsrOp) (old v : Word) : Word :=
  match op with | .rw => v | .rs => old ||| v | .rc => old &&& ~~~ v

/-- A kc word that may write (R39, R99, R156). -/
def csrUnit (op : CsrOp) (d a : Reg) (c : BitVec 14) (s : State) : Out :=
  runUnit s fun s q =>
    let v := (s.seq q).getS a
    let silent := op != .rw && a == 0
    match s.readCsr q c.toNat with
    | none => s.illegal q
    | some old =>
      if silent then .done (s.modSeq q fun x => x.setS d old) .on
      else if !csrWritable c.toNat then s.illegal q
      else if c = 0x002 then
        let s := s.modFflags q fun f => (csrValue op (f.zeroExtend 64) v).truncate 7
        .done (s.modSeq q fun x => x.setS d old) .on
      else .done (s.modSeq q fun x => (x.writeCsr c.toNat (csrValue op old v) v).setS d old) .on

/-- `kc.rw` (R39). -/
def execKcRw (d a : Reg) (c : BitVec 14) (s : State) : Out := csrUnit .rw d a c s
/-- `kc.rs` (R39). -/
def execKcRs (d a : Reg) (c : BitVec 14) (s : State) : Out := csrUnit .rs d a c s
/-- `kc.rc` (R39). -/
def execKcRc (d a : Reg) (c : BitVec 14) (s : State) : Out := csrUnit .rc d a c s

/-- `kc.r` (R39). -/
def execKcR (d : Reg) (c : BitVec 14) (s : State) : Out :=
  runUnit s fun s q =>
    match s.readCsr q c.toNat with
    | none => s.illegal q
    | some v => .done (s.modSeq q fun x => x.setS d v) .on

end Sys2Proof.Machine
end

