-- ==== Sys2Proof/Machine/SlhDsa.lean ====
section
/-!
DEFINITION. Sys2Proof/Machine/SlhDsa.lean: SLH-DSA over SHAKE256 with 32-byte nodes, which the spec names and FIPS 205 defines
(00_scope.md R1; 19_launch_tenancy.md R391, R393, R396; log 131).
-/

namespace Sys2Proof.Machine

open Sys2Proof

/-- A parameter set with n = 32 and w = 16: the height of the hypertree, its layers, and the height and number of the FORS trees. -/
structure SlhParams where
  h : Nat
  d : Nat
  a : Nat
  k : Nat
deriving DecidableEq, Repr

/-- SLH-DSA-SHAKE-256s. -/
def slh256s : SlhParams where
  h := 64
  d := 8
  a := 14
  k := 22

/-- SLH-DSA-SHAKE-256f. -/
def slh256f : SlhParams where
  h := 68
  d := 17
  a := 9
  k := 35

/-- Height of one tree of the hypertree. -/
def SlhParams.hp (p : SlhParams) : Nat := p.h / p.d

/-- Bytes of a signature. -/
def SlhParams.sigBytes (p : SlhParams) : Nat := 32 * (1 + p.k * (p.a + 1) + p.h + 67 * p.d)

/-- A big-endian number of `n` bytes. -/
def bigEndian (n v : Nat) : List Byte := (toBytes n v).reverse

/-- The number that bytes hold, the first the most significant. -/
def ofBig (b : List Byte) : Nat := ofBytes b.reverse

/-- The values of `n` successive fields of `w` bits, the most significant bit of the first byte first. -/
def base2b (b : List Byte) (w n : Nat) : List Nat :=
  let v := ofBig b
  (List.range n).map fun i => v / 2 ^ (8 * b.length - w * (i + 1)) % 2 ^ w

/-- A hash address: layer, tree, type, and its three last words. -/
structure SlhAddr where
  layer : Nat := 0
  tree : Nat := 0
  kind : Nat := 0
  x : Nat := 0
  y : Nat := 0
  z : Nat := 0
deriving DecidableEq, Repr

/-- The 32 bytes of a hash address. -/
def SlhAddr.bytes (a : SlhAddr) : List Byte :=
  bigEndian 4 a.layer ++ bigEndian 12 a.tree ++ bigEndian 4 a.kind ++ bigEndian 4 a.x ++ bigEndian 4 a.y ++ bigEndian 4 a.z

/-- F, H, T and PRF: 32 bytes over the public seed, an address and a message. -/
def slhHash (seed : List Byte) (a : SlhAddr) (m : List Byte) : List Byte := (shake256 (seed ++ a.bytes ++ m)).take 32

/-! ### WOTS+ -/

/-- `n` steps of a chain from step `i` on. -/
def slhChain (seed : List Byte) (a : SlhAddr) : Nat → Nat → List Byte → List Byte
  | 0, _, m => m
  | n + 1, i, m => slhChain seed a n (i + 1) (slhHash seed { a with z := i } m)

/-- The 67 digits of a 32-byte message, with its checksum. -/
def wotsDigits (m : List Byte) : List Nat :=
  let ds := base2b m 4 64
  ds ++ base2b (bigEndian 2 (16 * (ds.map fun x => 15 - x).sum)) 4 3

/-- The public key that a one-time signature gives for a message, at the key pair of an address. -/
def wotsPkFromSig (seed : List Byte) (a : SlhAddr) (sig : List (List Byte)) (m : List Byte) : List Byte :=
  let ends := (sig.zip (wotsDigits m)).mapIdx fun i e => slhChain seed { a with kind := 0, y := i } (15 - e.2) e.2 e.1
  slhHash seed { a with kind := 1, y := 0, z := 0 } ends.flatten

/-- The secret start of a chain. -/
def wotsSecret (sk seed : List Byte) (a : SlhAddr) (i : Nat) : List Byte := slhHash seed { a with kind := 5, y := i, z := 0 } sk

/-- The one-time public key of a key pair. -/
def wotsPk (sk seed : List Byte) (a : SlhAddr) : List Byte :=
  let ends := (List.range 67).map fun i => slhChain seed { a with kind := 0, y := i } 15 0 (wotsSecret sk seed a i)
  slhHash seed { a with kind := 1, y := 0, z := 0 } ends.flatten

/-- A one-time signature. -/
def wotsSign (sk seed : List Byte) (a : SlhAddr) (m : List Byte) : List (List Byte) :=
  (wotsDigits m).mapIdx fun i x => slhChain seed { a with kind := 0, y := i } x 0 (wotsSecret sk seed a i)

/-! ### Trees -/

/-- Node `i` at a height of a tree whose leaves and inner nodes are hashed as given. -/
def treeNode (leaf : Nat → List Byte) (join : Nat → Nat → List Byte → List Byte) : Nat → Nat → List Byte
  | 0, i => leaf i
  | z + 1, i => join (z + 1) i (treeNode leaf join z (2 * i) ++ treeNode leaf join z (2 * i + 1))

/-- The authentication path of a leaf. -/
def treePath (leaf : Nat → List Byte) (join : Nat → Nat → List Byte → List Byte) (height i : Nat) : List (List Byte) :=
  (List.range height).map fun j => treeNode leaf join j ((i / 2 ^ j) ^^^ 1)

/-- The root that a leaf and its path give, from height `z` on. -/
def pathRoot (join : Nat → Nat → List Byte → List Byte) : Nat → Nat → List Byte → List (List Byte) → List Byte
  | _, _, node, [] => node
  | z, i, node, s :: rest =>
    pathRoot join (z + 1) (i / 2) (join (z + 1) (i / 2) (if i % 2 = 0 then node ++ s else s ++ node)) rest

/-- An inner node of a tree of the hypertree. -/
def xmssJoin (seed : List Byte) (a : SlhAddr) (z i : Nat) (m : List Byte) : List Byte :=
  slhHash seed { a with kind := 2, x := 0, y := z, z := i } m

/-- A leaf of a tree of the hypertree. -/
def xmssLeaf (sk seed : List Byte) (a : SlhAddr) (i : Nat) : List Byte := wotsPk sk seed { a with x := i }

/-- The root of the tree of an address. -/
def xmssRoot (p : SlhParams) (sk seed : List Byte) (a : SlhAddr) : List Byte := treeNode (xmssLeaf sk seed a) (xmssJoin seed a) p.hp 0

/-- The signature of a message by leaf `i` of a tree: the one-time signature and the path. -/
def xmssSign (p : SlhParams) (sk seed : List Byte) (a : SlhAddr) (i : Nat) (m : List Byte) : List (List Byte) :=
  wotsSign sk seed { a with x := i } m ++ treePath (xmssLeaf sk seed a) (xmssJoin seed a) p.hp i

/-- The root that such a signature gives. -/
def xmssPkFromSig (seed : List Byte) (a : SlhAddr) (i : Nat) (sig : List (List Byte)) (m : List Byte) : List Byte :=
  pathRoot (xmssJoin seed a) 0 i (wotsPkFromSig seed { a with x := i } (sig.take 67) m) (sig.drop 67)

/-- The hypertree's signature of a message, from layer `j` on: `n` layers, a tree and a leaf. -/
def htSign (p : SlhParams) (sk seed : List Byte) : Nat → Nat → Nat → Nat → List Byte → List (List Byte)
  | 0, _, _, _, _ => []
  | n + 1, j, tree, leaf, m =>
    let a : SlhAddr := { layer := j, tree := tree }
    xmssSign p sk seed a leaf m ++ htSign p sk seed n (j + 1) (tree / 2 ^ p.hp) (tree % 2 ^ p.hp) (xmssRoot p sk seed a)

/-- The root of the hypertree that a signature gives. -/
def htRoot (p : SlhParams) (seed : List Byte) : Nat → Nat → Nat → Nat → List (List Byte) → List Byte → List Byte
  | 0, _, _, _, _, m => m
  | n + 1, j, tree, leaf, sig, m =>
    htRoot p seed n (j + 1) (tree / 2 ^ p.hp) (tree % 2 ^ p.hp) (sig.drop (67 + p.hp))
      (xmssPkFromSig seed { layer := j, tree := tree } leaf (sig.take (67 + p.hp)) m)

/-! ### FORS -/

/-- An inner node of the FORS trees of an address. -/
def forsJoin (seed : List Byte) (a : SlhAddr) (z i : Nat) (m : List Byte) : List Byte := slhHash seed { a with kind := 3, y := z, z := i } m

/-- A secret value of the FORS trees of an address. -/
def forsSecret (sk seed : List Byte) (a : SlhAddr) (i : Nat) : List Byte := slhHash seed { a with kind := 6, y := 0, z := i } sk

/-- The FORS signature of a digest: of each tree the secret value and the path. -/
def forsSign (p : SlhParams) (sk seed : List Byte) (a : SlhAddr) (md : List Byte) : List (List Byte) :=
  ((base2b md p.a p.k).mapIdx fun t x =>
    let i := t * 2 ^ p.a + x
    forsSecret sk seed a i
      :: (List.range p.a).map fun j =>
        treeNode (fun l => forsJoin seed a 0 l (forsSecret sk seed a l)) (forsJoin seed a) j ((i / 2 ^ j) ^^^ 1)).flatten

/-- The FORS public key that a signature gives for a digest. -/
def forsPkFromSig (p : SlhParams) (seed : List Byte) (a : SlhAddr) (sig : List (List Byte)) (md : List Byte) : List Byte :=
  let roots := (base2b md p.a p.k).mapIdx fun t x =>
    let i := t * 2 ^ p.a + x
    let s := (sig.drop (t * (p.a + 1))).take (p.a + 1)
    pathRoot (forsJoin seed a) 0 i (forsJoin seed a 0 i (s.headD [])) (s.drop 1)
  slhHash seed { a with kind := 4, y := 0, z := 0 } roots.flatten

/-! ### Signing and verifying -/

/-- What the digest of a message selects: the part that FORS signs, the tree and the leaf. -/
def slhDigest (p : SlhParams) (r seed root m : List Byte) : List Byte × Nat × Nat :=
  let md := (p.k * p.a + 7) / 8
  let t := (p.h - p.hp + 7) / 8
  let g := shake256 (r ++ seed ++ root ++ m)
  (g.take md, ofBig ((g.drop md).take t) % 2 ^ (p.h - p.hp), ofBig ((g.drop (md + t)).take ((p.hp + 7) / 8)) % 2 ^ p.hp)

/-- The message that pure SLH-DSA signs under an empty context string. -/
def slhPure (m : List Byte) : List Byte := [0, 0] ++ m

/-- The root of a private key's hypertree, which ends the public key. -/
def slhRoot (p : SlhParams) (sk seed : List Byte) : List Byte := xmssRoot p sk seed { layer := p.d - 1 }

/-- The signature of a message under the private key `sk`, `prf`, `seed`, with a randomiser. -/
def slhSign (p : SlhParams) (sk prf seed rand msg : List Byte) : List Byte :=
  let m := slhPure msg
  let r := (shake256 (prf ++ rand ++ m)).take 32
  let (md, tree, leaf) := slhDigest p r seed (slhRoot p sk seed) m
  let a : SlhAddr := { tree := tree, kind := 3, x := leaf }
  let fs := forsSign p sk seed a md
  r ++ fs.flatten ++ (htSign p sk seed p.d 0 tree leaf (forsPkFromSig p seed a fs md)).flatten

/-- Successive 32-byte strings of a signature. -/
def nodesOf (b : List Byte) : List (List Byte) := (List.range (b.length / 32)).map fun i => (b.drop (32 * i)).take 32

/-- Whether a signature of a message verifies under a public key. -/
def slhVerify (p : SlhParams) (pk msg sig : List Byte) : Bool :=
  let m := slhPure msg
  let seed := pk.take 32
  let root := pk.drop 32
  let (md, tree, leaf) := slhDigest p (sig.take 32) seed root m
  let ns := nodesOf (sig.drop 32)
  let k := p.k * (p.a + 1)
  sig.length == p.sigBytes
    && htRoot p seed p.d 0 tree leaf (ns.drop k) (forsPkFromSig p seed { tree := tree, kind := 3, x := leaf } (ns.take k) md) == root

end Sys2Proof.Machine
end

