-- ==== Sys2Proof/Machine/LoadStore.lean ====
section
/-!
DEFINITION. Sys2Proof/Machine/LoadStore.lean: ld, st and the linked pair (06_sequencer_instructions.md R143 to
R148; 16_ordering.md R339 to R345).
-/

namespace Sys2Proof.Machine

open Sys2Proof

/-- A fault of a load: a poisoned xe entry with dq = 1, else a trap with aside = 1 (R133, R144). A watch match is
no fault of R133 and traps in both cases. The poisoned entry's value is a free one. -/
def ldFault (s : State) (q : Nat) (dq : Bool) (cause : Nat) (ea tval : Word) : UnitRes :=
  if dq && cause != 17 then
    let e : XeEntry :=
      { val := BitVec.ofNat 64 (ofBytes (s.freeBytes 0 8))
        bad := some { cause := cause, addr := ea, word := (s.seq q).pc.q0 } }
    .done (s.modSeq q fun x => { x with qs := { x.qs with xe := x.qs.xe ++ [e] } }) .on
  else s.asideTrap q cause tval

/-- A loaded value reaches its destination (R144). -/
def ldWrite (s : State) (q : Nat) (dq : Bool) (d : Reg) (v : Word) : UnitRes :=
  .done (s.modSeq q fun x =>
    if dq then { x with qs := { x.qs with xe := x.qs.xe ++ [{ val := v }] } } else x.setA d v) .on

/-- The acquire and release bits of a load's request: 4 and 8 (R146, R344, R408). -/
def ordBits : MemOrd → Nat
  | .plain => 0
  | .sync => 4
  | .strong => 12

/-- `ld` (R143, R144, R146). -/
def execLd (d a : Reg) (w : Width) (dq : Bool) (o : MemOrd) (i : BitVec 10) (s : State) : Out :=
  runUnit s fun s q =>
    let x := s.seq q
    if dq && decide (8 ≤ x.qs.xe.length) then s.illegal q
    else
      let ea := x.getA a + off10 i
      let n := widthBytes w
      if ea.toNat % n ≠ 0 then ldFault s q dq 3 ea ea
      else if s.tablesWait q ea.toNat then .wait (s.fillTables q ea.toNat)
      else
        match s.locate q ea.toNat n .read with
        | .error c => ldFault s q dq c ea ea
        | .ok l =>
          if x.watches false ea.toNat n then ldFault s q dq 17 ea ea
          else
            match l with
            | .pad off =>
              let s := s.modSeq q fun x => x.meetBanks off n
              if s.loadWaits q false (o == .strong) || s.padReadWaits q then .wait s
              else
                let p := s.pad (clusterOf q)
                if (p.bad 0 0 off n).isSome then ldFault s q dq 19 ea ea
                else ldWrite s q dq d (extendW w (ofBytes (p.read 0 0 off n)))
            | .glob t =>
              if s.loadWaits q (aOrd t.attr == 1) (o == .strong) then .wait s
              else
                match s.releaseFault q t.pa (o == .strong) with
                | some r => r
                | none =>
                  match s.readAny (.seq q) q t.pa n (aStore t.attr == 1) with
                  | .ok b => ldWrite s q dq d (extendW w (ofBytes b))
                  | .bad c tv => ldFault s q dq c ea (tv.getD ea)
                  | .need => .wait (s.bring (.seq q) t.pa n (aOrd t.attr + ordBits o) 0 (aStore t.attr == 1))
                  | .pend => .wait s

/-- A store of bytes at `ea`, its checks passed but for those of translation (R143, R145, R146): `k` continues with
the state that holds the store. -/
def storeAt (s : State) (q : Nat) (ea : Word) (bytes : List Byte) (o : MemOrd) (k : State → UnitRes) : UnitRes :=
  let n := bytes.length
  if ea.toNat % n ≠ 0 then s.asideTrap q 3 ea
  else if s.tablesWait q ea.toNat then .wait (s.fillTables q ea.toNat)
  else
    match s.locate q ea.toNat n .write with
    | .error c => s.asideTrap q c ea
    | .ok l =>
      if (match l with | .glob t => aStore t.attr == 3 | .pad _ => false) then s.asideTrap q 5 ea
      else if (s.seq q).watches true ea.toNat n then s.asideTrap q 17 ea
      else
        match l with
        | .pad off =>
          if o ≠ .plain ∧ s.storesOpen q then .wait s
          else
            match s.storePad q off bytes with
            | some s => k s
            | none => s.logFull q
        | .glob t =>
          if s.releaseWaits q t.pa (o != .plain) then .wait s
          else
          match s.releaseFault q t.pa (o != .plain) with
          | some r => r
          | none =>
            match s.bufferStore q t bytes (o != .plain) (o == .strong) with
            | some s => k s
            | none => s.logFull q

/-- `st` (R143, R145, R146). -/
def execSt (d a : Reg) (w : Width) (dq : Bool) (o : MemOrd) (i : BitVec 10) (s : State) : Out :=
  runUnit s fun s q =>
    let x := s.seq q
    let ea := x.getA a + off10 i
    if dq then
      match x.qs.sq with
      | [] => s.illegal q
      | v :: rest =>
        storeAt s q ea (toBytes (widthBytes w) v.toNat) o fun s =>
          .done (s.modSeq q fun x => { x with qs := { x.qs with sq := rest } }) .on
    else storeAt s q ea (toBytes (widthBytes w) (x.getA d).toNat) o fun s => .done s .on

/-- The address checks of the lk words (R147): the cause, or the translation, which lies in device memory. -/
def State.lkLocate (s : State) (q : Nat) (ea : Word) (n : Nat) (k : Acc) : Except Nat Xlat :=
  if ea.toNat % n ≠ 0 then .error 3
  else
    match s.locate q ea.toNat n k with
    | .error c => .error c
    | .ok (.pad _) => .error 5
    | .ok (.glob t) => if regionOf t.pa = .device then .ok t else .error 5

/-- Sets the link tag of a line for a sequencer's generation, with the cycle at which it is set: the line's one tag (R228, R291,
log 105). -/
def State.tagLine (s : State) (q gen line : Nat) : State :=
  { s with lineTags := FMap.put s.lineTags line (q * 32 + gen, s.now) }

/-- Whether a line's link tag is that of a sequencer's generation (R147, R229). -/
def State.tagHeld (s : State) (q gen line : Nat) : Bool :=
  match FMap.find? s.lineTags line with
  | some (t, _) => t == q * 32 + gen
  | none => false

/-- lk.ll and lk.ll32 (R147). -/
def linkLoad (n : Nat) (d a : Reg) (s : State) : Out :=
  runUnit s fun s q =>
    let ea := (s.seq q).getA a
    if s.tablesWait q ea.toNat then .wait (s.fillTables q ea.toNat) else
    match s.lkLocate q ea n .read with
    | .error c => s.asideTrap q c ea
    | .ok t =>
      if (s.seq q).watches false ea.toNat n then s.asideTrap q 17 ea
      else if s.loadWaits q (aOrd t.attr == 1) false then .wait s
      else if s.needsFill t.pa n (aStore t.attr == 1) then .wait (s.fillFor t.pa n (aStore t.attr == 1))
      else if (s.badSector (dieOf q) t.pa n).isSome then s.asideTrap q 19 ea
      else
        let g := ((s.seq q).gen + 1) % 32
        let line := t.pa / 128
        let v := (BitVec.ofNat (8 * n) (ofBytes (s.readGlob q t.pa n))).signExtend 64
        .done ((s.tagLine q g line).modSeq q fun x => { x with gen := g, link := .scalar line g }.setA d v) .on

/-- Whether the host may hold a line that a write reaches: the home first back-invalidates it (R389). -/
def State.hostHolds (s : State) (pa : Nat) : Bool :=
  FMap.get false s.hostLines (pa / 128) || FMap.get false s.backInval (pa / 128)

/-- Sends the back-invalidate for a line the host may hold (R389). -/
def State.sendBackInval (s : State) (pa : Nat) : State :=
  { s with hostLines := FMap.set false s.hostLines (pa / 128) false, backInval := FMap.set false s.backInval (pa / 128) true }

/-- The lines of device memory that a store reaches, where they lie now (R334). -/
def State.storeLines (s : State) (st : PStore) : List Nat :=
  if st.pad.isSome then []
  else
    ((st.parts.map fun e => (List.range ((e.1 + e.2.length - 1) / 128 + 1 - e.1 / 128)).map fun i => s.redirect (e.1 / 128 * 128 + 128 * i)).flatten).filter
      fun a => !isRemote a

/-- The line of a store that the host holds, if any (R389). -/
def State.hostLine (s : State) (st : PStore) : Option Nat := (s.storeLines st).find? s.hostHolds

/-- Whether a home cannot take a store yet: a frame is frozen, or a row is being copied (R331, R334). -/
def State.homeBusy (s : State) (st : PStore) : Bool := (s.storeLines st).any fun a => s.isFrozen a || s.writeHeld a

/-- Stores bytes in one indivisible action at their home as an atomic of the log (R147, R229, R306), or none when
the ring cannot take the record. -/
def State.atomicStore (s : State) (q : Nat) (attr : Word) (parts : List (Nat × List Byte)) : Option State :=
  let x := s.seq q
  let pa := (parts.headD (0, [])).1
  let esc := escapeOf attr pa
  let locs := (parts.map fun e => locsFrom e.1 e.2.length).flatten
  let write (s : State) : State := parts.foldl (fun s e => s.admitLine e.1 e.2 (aStore attr == 1)) s
  if !x.logs then some (write s)
  else if esc ≠ 0 then (s.escape q (homeDie pa) esc pa locs.length).map write
  else
    (s.appendRec x.cur.partition x.cur.seq (homeDie pa)
      { kind := 2, space := 0, writer := q, window := x.csr.winno.toNat, addr := pa, locs := locs
        old := s.oldBytes 0 locs, size := recSize locs.length }).map write

/-- lk.sc and lk.sc32 (R147, R148). -/
def linkStore (n : Nat) (d a b : Reg) (s : State) : Out :=
  runUnit s fun s q =>
    let x := s.seq q
    let ea := x.getA a
    if s.tablesWait q ea.toNat then .wait (s.fillTables q ea.toNat) else
    match s.lkLocate q ea n .write with
    | .error c => s.asideTrap q c ea
    | .ok t =>
      if aStore t.attr = 3 then s.asideTrap q 5 ea
      else if x.watches true ea.toNat n then s.asideTrap q 17 ea
      else if s.storesOpen q then .wait s
      else
        let ok := match x.link with
          | .scalar line g => line == t.pa / 128 && s.tagHeld q g line
          | .none => false
          | .vector _ _ => false
        if !ok then .done (s.modSeq q fun x => { x with link := .none }.setA d 1) .on
        else if s.isFrozen t.pa ∨ s.writeHeld t.pa then .wait s
        else if s.hostHolds t.pa then .wait (s.sendBackInval t.pa)
        else
          match s.atomicStore q t.attr [(t.pa, toBytes n (x.getA b).toNat)] with
          | none => s.logFull q
          | some s => .done (s.modSeq q fun x => { x with link := .none }.setA d 0) .on

/-- `lk.ll` (R147). -/
def execLkLl (d a : Reg) (s : State) : Out := linkLoad 8 d a s
/-- `lk.ll32` (R147). -/
def execLkLl32 (d a : Reg) (s : State) : Out := linkLoad 4 d a s
/-- `lk.sc` (R147). -/
def execLkSc (d a b : Reg) (s : State) : Out := linkStore 8 d a b s
/-- `lk.sc32` (R147). -/
def execLkSc32 (d a b : Reg) (s : State) : Out := linkStore 4 d a b s

end Sys2Proof.Machine
end

