-- ==== Sys2Proof/Machine/FpOps.lean ====
section
/-!
DEFINITION. Sys2Proof/Machine/FpOps.lean: the floating operations on bit patterns, as sf, vf and vfs words share
them: input flushing, one rounding, flags (04_numbers.md R94, R98, R100; 06_sequencer_instructions.md R155;
09_vector_instructions.md R199 to R201).
-/

namespace Sys2Proof.Machine

open Sys2Proof

/-- An operand as an operation reads it: its bits and its number after input flushing, with ifl (R100). -/
def fpOperand (f : Fmt) (c : FCtl) (bits : Nat) : Nat × FpVal × FFlags :=
  let b := bits % 2 ^ f.width
  let v := f.decode b
  let (v', fl) := flushVal f c v
  (if fl = 0 then b else f.zeroBits v.isNeg, v', fl)

/-- A two-operand operation whose exact result is rounded once. -/
def fpBin (f : Fmt) (c : FCtl) (op : FpVal → FpVal → Exact) (a b : Nat) : Nat × FFlags :=
  let (_, va, fa) := fpOperand f c a
  let (_, vb, fb) := fpOperand f c b
  let (r, fl) := (op va vb).round f c
  (r, fl ||| fa ||| fb)

/-- Sum. -/
def fpAdd (f : Fmt) (c : FCtl) : Nat → Nat → Nat × FFlags := fpBin f c (addEx c.mode)
/-- Difference. -/
def fpSub (f : Fmt) (c : FCtl) : Nat → Nat → Nat × FFlags := fpBin f c fun x y => addEx c.mode x y.neg
/-- Product. -/
def fpMul (f : Fmt) (c : FCtl) : Nat → Nat → Nat × FFlags := fpBin f c mulEx
/-- Quotient. -/
def fpDiv (f : Fmt) (c : FCtl) : Nat → Nat → Nat × FFlags := fpBin f c divEx

/-- x * y + z with one rounding; the product or the addend may be negated first. -/
def fpFma (f : Fmt) (c : FCtl) (negP negZ : Bool) (a b z : Nat) : Nat × FFlags :=
  let (_, va, fa) := fpOperand f c a
  let (_, vb, fb) := fpOperand f c b
  let (_, vz, fz) := fpOperand f c z
  let (r, fl) := (fmaEx c.mode (if negP then va.neg else va) vb (if negZ then vz.neg else vz)).round f c
  (r, fl ||| fa ||| fb ||| fz)

/-- Square root. -/
def fpSqrt (f : Fmt) (c : FCtl) (a : Nat) : Nat × FFlags :=
  let (_, va, fa) := fpOperand f c a
  let (r, fl) := (sqrtEx va).round f c
  (r, fl ||| fa)

/-- Minimum or maximum of R94: exact. -/
def fpMinMax (f : Fmt) (c : FCtl) (isMax : Bool) (a b : Nat) : Nat × FFlags :=
  let (ba, va, fa) := fpOperand f c a
  let (bb, vb, fb) := fpOperand f c b
  let (r, fl) := minMaxBits f isMax ba bb va vb
  (r, fl ||| fa ||| fb)

/-- A comparison of R94. -/
def fpCmp (f : Fmt) (c : FCtl) (k : FCmp) (a b : Nat) : Bool × FFlags :=
  let (_, va, fa) := fpOperand f c a
  let (_, vb, fb) := fpOperand f c b
  let (r, fl) := cmpVal k va vb
  (r, fl ||| fa ||| fb)

/-- Reciprocal estimate (R113). -/
def fpRcpe (f : Fmt) (c : FCtl) (a : Nat) : Nat × FFlags :=
  let (_, va, fa) := fpOperand f c a
  let (r, fl) := rcpeOp f c va
  (r, fl ||| fa)

/-- Reciprocal square-root estimate (R114). -/
def fpRsqe (f : Fmt) (c : FCtl) (a : Nat) : Nat × FFlags :=
  let (_, va, fa) := fpOperand f c a
  let (r, fl) := rsqeOp f c va
  (r, fl ||| fa)

/-- 2^x (R111, R112). -/
def fpExp2 (f : Fmt) (c : FCtl) (a : Nat) : Nat × FFlags :=
  let (_, va, fa) := fpOperand f c a
  let (r, fl) := if f = .ieee .f32 then exp2F32 c va else exp2Narrow f c va
  (r, fl ||| fa)

end Sys2Proof.Machine
end

