-- ==== Sys2Proof/Machine/System.lean ====
section
/-!
DEFINITION. Sys2Proof/Machine/System.lean: the system words of major k other than k.end, k.launch and k.egress,
and the vc words (06_sequencer_instructions.md R157 to R162, R165; 05_sequencer.md R130 to R132; 08_core.md R174).
-/

namespace Sys2Proof.Machine

open Sys2Proof

/-- `k.nop` (R157). -/
def execKNop (s : State) : Out := runUnit s fun s _ => .done s .on

/-- `k.trap`: a call; the unit completes, then cause 15 with the code (R126, R158). -/
def execKTrap (c : Reg) (s : State) : Out := runUnit s fun s _ => .call s .on { cause := 15, tval := c.zeroExtend 64 }

/-- `k.brk`: a call with cause 16; with brkstop set the launch stops instead, Q0 at the next unit (R158). -/
def execKBrk (s : State) : Out :=
  runUnit s fun s q =>
    let x := s.seq q
    if (s.part x.cur.partition).brkstop then .done (s.debugHalt x.cur.partition x.cur.seq) .on
    else .call s .on { cause := 16 }

/-! ### The claim area (R130 to R132) -/

/-- Bytes of the claim area. -/
def claimSize : Nat := 0x4800

/-- Bits as a number, the first least significant. -/
def bitsNat : List Bool → Nat
  | [] => 0
  | b :: rest => (if b then 1 else 0) + 2 * bitsNat rest

/-- The head of the claim area, offsets 0 to 0x3FF (R131). -/
def Seq.claimHead (x : Seq) : List Byte :=
  let k := x.shadow
  padTo 0x40
      (toBytes 8 x.grant.toNat ++ toBytes 8 x.csr.vl ++ toBytes 8 x.csr.vtype.toNat
        ++ toBytes 8 (k.sq.length + k.xa.length * 2 ^ 8 + k.xe.length * 2 ^ 16 + k.bq.length * 2 ^ 24)
        ++ toBytes 8 (bitsNat k.bq))
    ++ padTo 64 (wordsBytes k.xa) ++ padTo 64 (wordsBytes (k.xe.map XeEntry.val)) ++ padTo 0x340 (wordsBytes k.sq)

/-- The vector state of the claim area, offsets 0x400 to 0x47FF (R131). -/
def Core.claimBody (k : Core) (g : BitVec 4) : List Byte :=
  ((List.range 128).map fun i => toBytes 128 (if g.getLsbD (i / 32) then (FMap.get 0 k.vreg i).toNat else 0)).flatten
    ++ ((List.range 32).map fun i =>
        toBytes 16 (if g.getLsbD (i % 4) then (FMap.get 0 k.mask (8 * (i % 4) + i / 4)).toNat else 0)).flatten
    ++ ((List.range 32).map fun l =>
        toBytes 1 (if g.getLsbD (l / 8) then (FMap.get 0 k.laneFlags l).toNat else 0)).flatten
    ++ List.replicate 480 0

/-- `k.claim`: spills the frozen state and unfreezes the vector unit (R130, R159). -/
def execKClaim (s : State) : Out :=
  runUnit s fun s q =>
    let x := s.seq q
    let base := x.tr.claimbase.toNat
    if !x.tr.inTrap then s.illegal q
    else if x.tr.claimed then .done s .on
    else
      match s.storableFuel q (claimSize / 64) base claimSize with
      | some (c, a) => .trap s { cause := c, tval := a }
      | none =>
        match State.storeVaFuel q (claimSize / 64) s base (x.claimHead ++ (s.core (coreOf q)).claimBody x.grant) with
        | none => s.logFull q
        | some s => .done (s.modSeq q fun x => { x with tr := { x.tr with claimed := true } }) .on

/-- Bytes [o, o + n) of a claim area as a number. -/
def areaNat (b : List Byte) (o n : Nat) : Nat := ofBytes ((b.drop o).take n)

/-- `n` 8-byte entries of a claim area from `o` on. -/
def areaWords (b : List Byte) (o : Nat) (n : Nat) : List Word :=
  (List.range n).map fun i => BitVec.ofNat 64 (areaNat b (o + 8 * i) 8)

/-- The queues a claim area holds; an xe entry that stands where it was spilled, unchanged, keeps its poison (R131, log 17). None
when a count exceeds the depth of its queue. -/
def areaQueues (b : List Byte) (old : Queues) : Option Queues :=
  let n := areaNat b 0x18 8
  let ks := n % 32
  let ka := n / 2 ^ 8 % 16
  let ke := n / 2 ^ 16 % 16
  let kb := n / 2 ^ 24 % 16
  if 16 < ks ∨ 8 < ka ∨ 8 < ke ∨ 8 < kb then none
  else
    some
      { sq := areaWords b 0xC0 ks
        xa := areaWords b 0x40 ka
        xe := (List.range ke).map fun i =>
          let v : Word := BitVec.ofNat 64 (areaNat b (0x80 + 8 * i) 8)
          { val := v, bad := (old.xe[i]?).bind fun e => if e.val = v then e.bad else none }
        bq := (List.range kb).map fun i => areaNat b 0x20 8 / 2 ^ i % 2 == 1 }

/-- The core after the vector state of a claim area is reloaded into the granted groups: what is written is not poisoned (R131,
R181, log 107). -/
def Core.reload (k : Core) (g : BitVec 4) (b : List Byte) : Core :=
  { k with
    vreg := (List.range 128).foldl (fun (m : FMap (BitVec 1024)) i =>
      if g.getLsbD (i / 32) then FMap.set 0 m i (BitVec.ofNat 1024 (areaNat b (0x400 + 128 * i) 128)) else m) k.vreg
    vpois := FMap.keep k.vpois fun i => !g.getLsbD (i / 4096)
    maskPois := FMap.keep k.maskPois fun i => !g.getLsbD (i / 1024)
    mask := (List.range 32).foldl (fun (m : FMap (BitVec 128)) i =>
      if g.getLsbD (i % 4) then FMap.set 0 m (8 * (i % 4) + i / 4) (BitVec.ofNat 128 (areaNat b (0x4400 + 16 * i) 16))
      else m) k.mask
    laneFlags := (List.range 32).foldl (fun (m : FMap FFlags) l =>
      if g.getLsbD (l / 8) then FMap.set 0 m l (BitVec.ofNat 7 (areaNat b (0x4600 + l) 1)) else m) k.laneFlags }

/-- Reloads VL, VTYPE, the queue shadow and the vector state from a claim area (R131). A VTYPE that no vc word
grants reads as none, and VL is at most VLMAX (log 17). -/
def State.reclaimArea (s : State) (q : Nat) (b : List Byte) (k : Queues) : State :=
  let x := s.seq q
  let vt : Word := BitVec.ofNat 64 (areaNat b 0x10 8)
  let vt := if vtUsable vt then vt else 0
  let s := s.modCore (coreOf q) fun c => c.reload x.grant b
  s.modSeq q fun x =>
    { x with shadow := k, csr := { x.csr with vtype := vt, vl := Nat.min (areaNat b 8 8) (vlmaxOf vt x.grant) } }

/-- `k.eret` (R132, R159, log 93). -/
def execKEret (s : State) : Out :=
  runUnit s fun s q =>
    let x := s.seq q
    if !x.tr.inTrap then s.illegal q
    else if !x.tr.claimed then .done (s.leaveTrap q) .set
    else
      match s.readVa q x.tr.claimbase.toNat claimSize with
      | .wait s => .wait s
      | .bad c a => .trap s { cause := c, tval := a }
      | .ok b =>
        match areaQueues b x.shadow with
        | none => s.illegal q
        | some k => .done ((s.reclaimArea q b k).leaveTrap q) .set

/-- `k.wfi` (R160, log 94). -/
def execKWfi (s : State) : Out :=
  runUnit s fun s q =>
    let x := s.seq q
    if x.tr.inTrap then s.illegal q
    else if x.woken || x.pendingInt != 0 then .done s .on
    else .wait (s.modSeq q fun x => { x with wfi := some x.csr.units })

/-! ### Fences -/

/-- Whether every engine command, append and collective of a sequencer has signalled its completion (R20, R162). -/
def Seq.enginesQuiet (x : Seq) : Bool :=
  (x.tags.all fun e => e.2.count == 0) && x.appends.isEmpty && (x.chandles.all fun e => e.2.state != 0)

/-- The mark a fence leaves in the store buffer when only its later stores must wait (R162). -/
def fenceMark : PStore := { parts := [], ord := 0, release := true }

/-- Whether a physical address lies in a peer window (R316). -/
def isPeer (pa : Nat) : Bool := match regionOf pa with | .peer _ => true | _ => false

/-- Whether a store of the sequencer to a peer has not been acknowledged (R410). -/
def State.peerOpen (s : State) (q : Nat) : Bool :=
  ((s.seq q).stores.any fun st => st.pad.isNone && st.parts.any fun e => isPeer (s.canon e.1)) || (s.sent q).any fun r => isPeer r.pa

/-- `k.fence` (R162, R410): one of fabric scope waits until every earlier store to a peer has been acknowledged; else the earlier side's stores are performed before the word completes when later loads or engines
must wait for them; when only later stores must, a mark in the store buffer holds those back. Loads are performed
when their unit runs. -/
def execKFence (sc st : Reg) (s : State) : Out :=
  runUnit s fun s q =>
    let x := s.seq q
    let earlierStores := st.getLsbD 1 || !st.getLsbD 0
    let laterLoads := st.getLsbD 2 || !st.getLsbD 3
    let engines := st.getLsbD 4
    match (if sc = 5 then s.peerFault q else none) with
    | some r => r
    | none =>
      if engines && !x.enginesQuiet then .wait s
      else if sc = 5 && s.peerOpen q then .wait s
      else if earlierStores && s.storesOpen q then
        if laterLoads || engines || sc = 5 then .wait s
        else .done (s.modSeq q fun x => { x with stores := x.stores ++ [fenceMark] }) .on
      else .done s .on

/-! ### Lane groups and vtype -/

/-- Whether the sequencer holds matrix mode. -/
def State.matrixOn (s : State) (q : Nat) : Bool := (s.core (coreOf q)).holder == some q

/-- Groups that `n` elements need under a vtype (R165). -/
def groupsNeeded (per n held : Nat) : Nat := if per = 0 then 0 else Nat.min held ((n + per - 1) / per)

/-- `k.yield` (R165, R186, R187). -/
def execKYield (a : Reg) (s : State) : Out :=
  runUnit s fun s q =>
    if (s.seq q).tr.inTrap then s.illegal q
    else
      let s := s.applyReclaim q
      let x := s.seq q
      if s.matrixOn q then s.wordTrap q 23
      else
        let need := groupsNeeded (vtPer x.csr.vtype) (x.getS a).toNat (grants x.grant)
        .done (s.keepGroups q need) .on

/-- The vc words: VL from the request, or VLMAX without one (R174). -/
def setVl (d b : Reg) (request : Option Reg) (s : State) : Out :=
  runUnit s fun s q =>
    if (s.seq q).frozen then s.frozenTrap q 0
    else
      let s := s.applyReclaim q
      let x := s.seq q
      let vt := x.getS b
      if !vtUsable vt then s.wordTrap q 12
      else
        let most := vlmaxOf vt x.grant
        let vl := match request with | some a => Nat.min (x.getS a).toNat most | none => most
        .done (s.modSeq q fun x =>
          ({ x with csr := { x.csr with vtype := vt, vl := vl } }).setS d (BitVec.ofNat 64 vl)) .on

/-- `vc.setvl` (R174). -/
def execVcSetvl (d a b : Reg) (s : State) : Out := setVl d b (some a) s
/-- `vc.setvlmax` (R174). -/
def execVcSetvlmax (d b : Reg) (s : State) : Out := setVl d b none s

end Sys2Proof.Machine
end

