-- ==== Sys2Proof/Machine/Windows.lean ====
section
/-!
DEFINITION. Sys2Proof/Machine/Windows.lean: windows and the end of a sequencer: w.mark, w.info and k.end, opening a
window, window pre-emption and restoring a snapshot (14_die.md R301 to R304; 01_levels_and_work.md R20 to R22;
19_launch_tenancy.md R382, R383).
-/

namespace Sys2Proof.Machine

open Sys2Proof

/-! ### The waits of k.end and w.mark -/

/-- Step 1 of R20: every store acknowledged, every command, append and collective done. -/
def State.quiet (s : State) (q : Nat) : Bool := !s.storesOpen q && (s.seq q).enginesQuiet

/-- Raises the error a tag holds, and clears the tag's error and flags (R279). -/
def State.tagFault (s : State) (q t : Nat) : Option UnitRes :=
  let g := FMap.get ({} : EngTag) (s.seq q).tags t
  if g.cause = 0 then none
  else
    some (.trap (s.modSeq q fun x => { x with tags := FMap.set {} x.tags t { count := g.count } })
      { cause := g.cause, tval := g.addr })

/-- The first tag that holds an error. -/
def Seq.errorTag (x : Seq) : Option Nat := (x.tags.firstWhere fun _ g => g.cause != 0).map Prod.fst

/-- What a quiet sequencer raises at k.end or w.mark: a failed peer store, else a tag's error (R279, R411). -/
def State.heldFault (s : State) (q : Nat) : Option UnitRes :=
  match s.peerFault q with
  | some r => some r
  | none => match (s.seq q).errorTag with | some t => s.tagFault q t | none => none

/-! ### Opening a window -/

/-- Whether every sequencer of a launch has arrived at its mark, one past k.end counting as arrived (R302). -/
def State.allArrived (s : State) (p n : Nat) : Bool :=
  match s.launch? p n with
  | none => true
  | some l => l.ranges.all fun r => r.ended || (!r.lost && (s.seq r.q).mark == .arrived && (s.seq r.q).key == (p, n))

/-- Whether a live region of R266 or an implicit one holds a line, under the flags of a mark. -/
def Pad.lineLive (p : Pad) (flags : Word) (line : Nat) : Bool :=
  match p.regionOfLine line with
  | none => true
  | some k => flags.getLsbD k

/-- What a scratchpad holds in the lines that pass a test. -/
def Pad.saveLines (p : Pad) (num : Nat) (word : Word) (mine : Nat → Bool) : SavedRegion :=
  { num := num, word := word, lines := (List.range 2048).filter mine, bytes := FMap.keep p.sp fun a => mine (a / 2048), pois := FMap.keep p.spPois fun u => mine (u / 64) }

/-- The live regions of a scratchpad under the flags of a mark, and the implicit ones (R382). -/
def Pad.saveLive (p : Pad) (flags : Word) : List SavedRegion :=
  ((List.range 16).filter flags.getLsbD).map (fun k => p.saveLines k (p.regionWord k) fun line => p.regionOfLine line == some k)
    ++ [p.saveLines 16 0 fun line => p.regionOfLine line == none]

/-- Lays a saved region over the lines that pass a test: its bytes and its poison replace what they held. -/
def Pad.loadLines (p : Pad) (r : SavedRegion) (mine : Nat → Bool) : Pad :=
  { p with
    sp := r.bytes.foldl (fun m e => FMap.set 0 m e.1 e.2) (FMap.keep p.sp fun a => !mine (a / 2048))
    spPois := r.pois.foldl (fun m e => FMap.set false m e.1 e.2) (FMap.keep p.spPois fun u => !mine (u / 64)) }

/-- Writes live regions and their region words back (R382). -/
def Pad.loadLive (p : Pad) (rs : List SavedRegion) : Pad :=
  let p := rs.foldl (fun (p : Pad) r => if r.num < 16 then { p with region := FMap.set 0 p.region r.num r.word } else p) p
  let back (k line : Nat) : Bool := p.regionOfLine line == (if k < 16 then some k else none)
  rs.foldl (fun (p : Pad) r => p.loadLines r (back r.num)) p

/-- The flags of every sequencer of a launch in a cluster for a window, ORed: its live regions (R304). -/
def Launch.liveFlags (l : Launch) (c window : Nat) : Word :=
  l.snaps.foldl (fun f b => if b.window = window ∧ clusterOf b.q = c then f ||| b.flags else f) 0

/-- A free Undercroft ring pair of a partition (R388). -/
def State.freePair (s : State) (p : Nat) : Option Nat :=
  (List.range 8).find? fun k => (FMap.find? (s.part p).ringPairs k).isNone

/-- A launch is put to the tail of the queue of its priority, one lower when its budget ran out (R380). -/
def State.holdLaunch (s : State) (p n : Nat) : State :=
  match s.launch? p n with
  | none => s
  | some l =>
    let prio := if l.demote then l.prio - 1 else l.prio
    let s := s.modLaunch p n fun l => { l with held := true, prio := prio, demote := false }
    let s := s.modPart p fun b =>
      let qs := FMap.get [] b.queues prio
      { b with queues := FMap.set [] b.queues prio (if qs.contains n then qs else qs ++ [n]) }
    s.journal p n

/-- Window pre-emption of a launch whose sequencers have all arrived: live regions and handles are saved beside the snapshots, and every
slot is released, its bindings kept. Where a ring cannot take them the request waits for the immediate grade (R382, R383, log 40). -/
def State.preemptWindow (s : State) (p n : Nat) : State :=
  match s.launch? p n with
  | none => s
  | some l =>
    let save (b : Snap) : Snap :=
      if b.window = l.winno then
        { b with regions := (s.pad (clusterOf b.q)).saveLive (l.liveFlags (clusterOf b.q) l.winno) }
      else b
    let qs := s.seqsOf p n
    match (s.modLaunch p n fun l => { l with snaps := l.snaps.map save }).putBeside p n l.winno qs with
    | none => s
    | some s' => (qs.foldl (fun t q => t.freeSlot q) s').holdLaunch p n

/-- A block whose Larder part is dropped (R303). -/
def Snap.dropLarder (b : Snap) : Snap := { b with larder := none, flags := b.flags &&& ~~~ 0x10000, size := b.size - 2080 }

/-- Whether a lower-numbered sequencer of its core keeps the Larder that a block carries too (R303). -/
def Launch.yieldsLarder (l : Launch) (window : Nat) (b : Snap) : Bool :=
  b.window == window && b.larder.isSome && l.larderTaken b.q window

/-- Of several blocks of one core that carry the Larder, the lowest-numbered sequencer's keeps it (R303). -/
def Launch.oneLarder (l : Launch) (window : Nat) : Launch :=
  { l with snaps := l.snaps.map fun b => if l.yieldsLarder window b then b.dropLarder else b }

/-- The window of a launch whose every sequencer has arrived closes, and the next one opens; a posted mark request
pre-empts the launch (R302, R363, R382). -/
def State.openWindow (s : State) (p n : Nat) : State :=
  match s.launch? p n with
  | none => s
  | some l =>
    let w := l.winno + 1
    let qs := s.seqsOf p n
    let s1 := (l.snaps.filter (l.yieldsLarder w)).foldl (fun (s : State) b => s.ringPut p b.die l.ringPair b.pos b.dropLarder.bytes)
      (s.modLaunch p n fun l => ({ l with winno := w }).oneLarder w)
    let s1 := qs.foldl (fun t q =>
      t.modSeq q fun x => { x with mark := .opened, csr := { x.csr with winno := BitVec.ofNat 32 w } }) s1
    let pin (d : Nat) (t : Stream) : Stream :=
      if t.owner = some (p, n) then { t with apins := FMap.put t.apins w (s.streamCount d) } else t
    let s1 := { s1 with streams := s1.streams.mapVals pin }
    if qs.any (fun q => (s.seq q).markReq) then s1.preemptWindow p n else s1

/-- Once every sequencer of a launch has arrived, a logging launch opens its next window, and a gang launch with its mode off is
pre-empted whole (R18, R302, R382). -/
def State.tryOpen (s : State) (p n : Nat) : State :=
  match s.launch? p n with
  | none => s
  | some l =>
    if (s.seqsOf p n).any (fun q => (s.seq q).mark == .arrived) && s.allArrived p n then
      (if l.log ≠ 0 then s.openWindow p n else if l.gang then s.preemptWindow p n else s)
    else s

/-! ### w.info and w.mark -/

/-- `w.info` (R301). -/
def execWInfo (d : Reg) (s : State) : Out := seqUnit s fun x => x.setS d (x.csr.winno.zeroExtend 64)

/-- Steps 1 and 2 of R302 once the waits have ended: tag flags merge, queues drain, the link breaks. -/
def Seq.settle (x : Seq) : Seq :=
  let f := x.tags.foldl (fun f e => f ||| e.2.flags) (0 : FFlags)
  { x.orFlags f with tags := [], qs := {}, link := .none }

/-- The snapshot block that a w.mark writes: the state after the word (R303). -/
def State.markBlock (s : State) (q w : Nat) (vmask flags : Word) : Snap :=
  let s' := (s.movePc q .on).modSeq q fun x => { (x.retire .on) with csr := { (x.retire .on).csr with winno := BitVec.ofNat 32 w } }
  s'.makeSnap q w vmask flags

/-- A mode-off sequencer with a mark request stops at its w.mark, when a ring pair takes its block; one of a gang waits there, its
block written, until every one of the gang has come, and all are pre-empted together (R18, R382). -/
def State.stopAtMark (s : State) (q : Nat) (vmask flags : Word) : Option State :=
  let x := s.seq q
  let p := x.cur.partition
  let n := x.cur.seq
  match s.launch? p n with
  | none => none
  | some l =>
    let pair := match l.ringPair with | some k => some k | none => s.freePair p
    match pair with
    | none => none
    | some k =>
      let b := s.markBlock q 0 vmask flags
      let b := { b with regions := (s.pad (clusterOf q)).saveLive flags }
      let s := s.modPart p fun r => { r with ringPairs := FMap.put r.ringPairs k n }
      let s := s.modLaunch p n fun l => { l with ringPair := some k }
      ((s.putSnap p n b).bind fun s => if l.gang then some s else s.putBeside p n 0 [q]).map fun s =>
        if l.gang then (s.modSeq q fun x => { x with mark := .arrived }).tryOpen p n else (s.freeSlot q).holdLaunch p n

/-- `w.mark` (R301, R302, R382). -/
def execWMark (a b : Reg) (s : State) : Out :=
  runUnit s fun s q =>
    let x := s.seq q
    let vm := x.getS a
    let fl := x.getS b
    let p := x.cur.partition
    let n := x.cur.seq
    if x.tr.inTrap then s.illegal q
    else if vm.toNat / 2 ^ 32 ≠ 0 ∨ fl.toNat / 2 ^ 19 ≠ 0 then s.illegal q
    else if x.mark = .opened then .done (s.modSeq q fun x => { x with mark := .none }) .on
    else if x.mark = .arrived then .wait s
    else if !s.quiet q then .wait s
    else
      match s.heldFault q with
      | some r => r
      | none =>
        let full := s.logFull q
        let s := s.modSeq q Seq.settle
        if x.cur.log = 0 then
          if x.markReq then
            match s.stopAtMark q vm fl with
            | some s => if (s.seq q).live then .wait s else .gone s
            | none => .done s .on
          else .done s .on
        else if x.csr.winno = 0xFFFFFFFF then full
        else
          match s.putSnap p n (s.markBlock q (x.csr.winno.toNat + 1) vm fl) with
          | none => full
          | some s =>
            let s := (s.modSeq q fun x => { x with mark := .arrived }).tryOpen p n
            if (s.seq q).live then .wait s else .gone s

/-! ### k.end -/

/-- Marks the range of a sequencer ended (R20). -/
def Launch.endRange (l : Launch) (q : Nat) : Launch :=
  { l with ranges := l.ranges.map fun r => if r.q = q ∧ !r.ended then { r with ended := true } else r }

/-- The completion word with flags ORed in and one more sequencer ended (R20, R22). -/
def cwordEnd (flags v : Nat) : Nat :=
  (v % 2 ^ 16 ||| flags) + v / 2 ^ 16 % 2 ^ 16 * 2 ^ 16 + (v / 2 ^ 32 + 1) % 2 ^ 32 * 2 ^ 32

/-- Step 2's record: the OR into the completion word is logged as an atomic, or escapes (R306, R307). -/
def State.logEnd (s : State) (q pa : Nat) (attr : Word) : Option State :=
  let x := s.seq q
  let esc := escapeOf attr pa
  if !x.logs then some s
  else if esc ≠ 0 then s.escape q (homeDie pa) esc pa 8
  else
    s.appendRec x.cur.partition x.cur.seq (homeDie pa)
      { kind := 2, space := 0, writer := q, window := x.csr.winno.toNat, addr := pa, locs := locsFrom pa 8
        old := s.oldBytes 0 (locsFrom pa 8), size := recSize 8 }

/-- Steps 2 and 3 of k.end, which retires with them (R20, R21, R137). The flags of every lane that the sequencer holds are ORed before a
pending reclaim of R186 releases and zeroes any (DESIGN CHOICE, log 118). -/
def State.endSeq (s : State) (q p n : Nat) : State :=
  let f := (s.readFflags q).toNat
  let s := match s.setCword q p n (cwordEnd f) with | .ok s => s | .error _ => s
  let s := s.modSeq q fun x => { x with csr := { x.csr with units := x.csr.units + 1 } }
  let s := (s.modLaunch p n fun l => l.endRange q).releaseSlot q
  match s.launch? p n with
  | none => s
  | some l => if l.ranges.all Range.ended then s.completeLaunch q p n else s.tryOpen p n

/-- `k.end` (R20 to R22, R161, R279, R411). -/
def execKEnd (s : State) : Out :=
  runUnit s fun s q =>
    let x := s.seq q
    let p := x.cur.partition
    let n := x.cur.seq
    if x.tr.inTrap then s.illegal q
    else if !s.quiet q then .wait s
    else
      match s.heldFault q with
      | some r => r
      | none =>
        match s.launch? p n with
        | none => .gone (s.releaseSlot q)
        | some l =>
          match s.cwordAt q p l with
          | .error c => .gone (s.failLaunch p n c)
          | .ok t =>
            if s.needsFill t.pa 8 (aStore t.attr == 1) then .wait (s.fillFor t.pa 8 (aStore t.attr == 1))
            else if (s.badSector (dieOf q) t.pa 8).isSome then .gone (s.failLaunch p n 19)
            else if s.isFrozen t.pa ∨ s.writeHeld t.pa then .wait s
            else if FMap.get false s.hostLines (t.pa / 128) ∨ FMap.get false s.backInval (t.pa / 128) then
              .wait { s with
                hostLines := FMap.set false s.hostLines (t.pa / 128) false
                backInval := FMap.set false s.backInval (t.pa / 128) true }
            else
              match s.logEnd q t.pa t.attr with
              | none => s.logFull q
              | some s => .gone (s.endSeq q p n)

/-! ### Restoring a snapshot -/

/-- Where the groups of a snapshot go: the granted groups then and now, rank by rank. -/
def groupMap (old new : BitVec 4) : List (Nat × Nat) := (groupsOf old).zip (groupsOf new)

/-- Lays entries of a snapshot, `per` to a group, into a core's contents for the groups they go to. -/
def layGroups {α : Type} (gm : List (Nat × Nat)) (per : Nat) (saved base : FMap α) : FMap α :=
  saved.foldl (fun m e =>
    match gm.find? fun g => g.1 == e.1 / per with
    | some g => FMap.put m (g.2 * per + e.1 % per) e.2
    | none => m) (FMap.keep base fun i => !(gm.any fun g => g.2 == i / per))

/-- The core after a snapshot's vector state is restored (R304). -/
def Core.restoreVec (k : Core) (b : Snap) (gm : List (Nat × Nat)) : Core :=
  { k with
    vreg := layGroups gm 32 b.vregs k.vreg
    vpois := FMap.keep k.vpois fun i => !(gm.any fun g => g.2 == i / 4096)
    mask := layGroups gm 8 b.masks k.mask
    maskPois := FMap.keep k.maskPois fun i => !(gm.any fun g => g.2 == i / 1024)
    laneFlags := layGroups gm 8 b.laneFlags k.laneFlags }

/-- Matrix state of a snapshot taken up by a sequencer of a core: holder, format, MVL, flagged accumulators (R262,
R304, R383). -/
def Core.restoreMatrix (k : Core) (b : Snap) (q : Nat) : Core :=
  { k with
    holder := some q, accFmt := b.accFmt, mvl := b.mvl, acc0 := b.acc0, acc1 := b.acc1, accPois := [], progress := none
    lastLaunch := some (b.x.cur.partition, b.x.cur.seq) }

/-- The sequencer `q` after its snapshot is restored over its record `x`, under a grant (R303, R304). -/
def Seq.restore (x : Seq) (b : Snap) (g : BitVec 4) : Seq :=
  let y := b.x
  { x with
    a := y.a, s := y.s, grant := g, qs := {}, shadow := {}, link := .none, resume := true, mark := .none, watched := []
    arrived := [], tags := [], stores := [], markReq := false
    tr := { x.tr with
      tvec := y.tr.tvec, claimbase := y.tr.claimbase, tcmp := y.tr.tcmp, ie := y.tr.ie, pie := y.tr.pie
      dbpend := y.tr.dbpend, inTrap := false, claimed := false, qpend := 0 }
    csr := { x.csr with
      fctl := y.csr.fctl, fflags := y.csr.fflags, vtype := y.csr.vtype, vl := Nat.min y.csr.vl (vlmaxOf y.csr.vtype g)
      mskip := y.csr.mskip, skipcnt := y.csr.skipcnt, sampctl := y.csr.sampctl, sampbase := y.csr.sampbase
      dwbase := y.csr.dwbase, dwlen := y.csr.dwlen, units := y.csr.units, winno := BitVec.ofNat 32 b.window
      rstg0 := 0, rstg1 := 0, rstg2 := 0, rstg3 := 0 } }

/-- Restores a snapshot into sequencer `q` over its record, vector state and program counter queue; matrix state and
the Larder follow separately (R304). -/
def State.restoreSeq (s : State) (q : Nat) (b : Snap) (g : BitVec 4) : State :=
  let c := b.x.pc
  let s := s.modSeq q fun x => x.restore b g
  let s := s.modCore (coreOf q) fun k => k.restoreVec b (groupMap b.x.grant g)
  let pc := s.queueFrom q c.q0 c.q1 c.q2 c.enul c.d0 c.d1
  s.modSeq q fun x => { x with pc := pc }

end Sys2Proof.Machine
end

