-- ==== Sys2Proof/Machine/VCore.lean ====
section
/-!
DEFINITION. Sys2Proof/Machine/VCore.lean: elements of vector registers and masks, the chain slot, the elements a
unit acts on, and the walk over them that every elementwise word shares (08_core.md R169 to R172, R176, R178, R182 to R184;
02_words_and_opcode_map.md R35).
-/

namespace Sys2Proof.Machine

open Sys2Proof

/-! ### Elements (R170) -/

/-- First bit of local element `j` within its register slice, for elements of `ew` bits (R170). -/
def elemBit (ew j : Nat) : Nat :=
  let k := j % (1024 / ew)
  k % 8 * 128 + ew * (k / 8)

/-- Which register of its group holds local element `j`. -/
def elemReg (ew j : Nat) : Nat := j / (1024 / ew)

/-- Lane of local element `j`, within its lane group. -/
def elemLane (ew j : Nat) : Nat := j % (1024 / ew) % 8

/-- `n` bits from bit `b` of a slice. -/
def sliceGet (v : BitVec 1024) (b n : Nat) : Nat := (v.extractLsb' b n).toNat

/-- A slice with `n` bits from bit `b` replaced. -/
def sliceSet (v : BitVec 1024) (b n x : Nat) : BitVec 1024 :=
  let m : BitVec 1024 := (((BitVec.allOnes n).setWidth 1024) <<< b)
  (v &&& ~~~ m) ||| (((BitVec.ofNat n x).setWidth 1024) <<< b)

/-- Element `j` of group `g` in the register group at `r`. -/
def Core.elem (k : Core) (g r ew j : Nat) : Nat :=
  sliceGet (FMap.get 0 k.vreg (32 * g + r + elemReg ew j)) (elemBit ew j) ew

/-- Whether that element holds a poisoned byte (R181). -/
def Core.elemBad (k : Core) (g r ew j : Nat) : Bool :=
  match k.vpois with
  | [] => false
  | m => (firstBit m (4096 * g + 128 * (r + elemReg ew j) + elemBit ew j / 8) (ew / 8)).isSome

/-- Writes that element; its poison goes (R181). -/
def Core.setElem (k : Core) (g r ew j x : Nat) : Core :=
  let i := 32 * g + r + elemReg ew j
  { k with
    vreg := FMap.set 0 k.vreg i (sliceSet (FMap.get 0 k.vreg i) (elemBit ew j) ew x)
    vpois := match k.vpois with
      | [] => []
      | m => setBits m (4096 * g + 128 * (r + elemReg ew j) + elemBit ew j / 8) false (ew / 8) }

/-- Mask bit `j` of group `g` of mask register `m`. -/
def Core.maskBit (k : Core) (g m j : Nat) : Bool := (FMap.get 0 k.mask (8 * g + m)).getLsbD j

/-- Whether that mask bit is poisoned (R181). -/
def Core.maskBad (k : Core) (g m j : Nat) : Bool := FMap.get false k.maskPois (128 * (8 * g + m) + j)

/-- Writes that mask bit; its poison goes (R181). -/
def Core.setMask (k : Core) (g m j : Nat) (b : Bool) : Core :=
  let v := FMap.get 0 k.mask (8 * g + m)
  let o : BitVec 128 := 1 <<< j
  { k with
    mask := FMap.set 0 k.mask (8 * g + m) (if b then v ||| o else v &&& ~~~ o)
    maskPois := match k.maskPois with
      | [] => []
      | p => FMap.set false p (128 * (8 * g + m) + j) false }

/-! ### Positions -/

/-- A position of a granted group: rank, group, local index. -/
structure Pos where
  rank : Nat
  g : Nat
  j : Nat
deriving DecidableEq, Repr

/-- Positions [lo, lo + n) of a group. -/
def posRun (rank g lo : Nat) : Nat → List Pos
  | 0 => []
  | n + 1 => ⟨rank, g, lo⟩ :: posRun rank g (lo + 1) n

/-- A fault of one element: position, word of the unit, and the trap (R182). -/
structure VFault where
  p : Pos
  word : Nat
  cause : Nat
  tval : Word := 0
  sub : Nat := 0
  aside : Bool := false
  eapc : Option Word := none
deriving DecidableEq, Repr

/-- What a sampled record says of one memory word, but for its timing (R233). -/
structure MemNote where
  word : Nat
  kind : Nat
  mode : Nat
  sclass : Nat
  active : Nat := 0
  lines : List Nat := []
  pages : List Nat := []
  faulted : Bool := false
  pad : Bool := false
  lane : Bool := false
  comp : Bool := false
deriving DecidableEq, Repr

/-- A unit under way: the state, its core, the sequencer's number and program counter, the layout sampled at issue,
the chain slot with whether the word before wrote it, the faults met, and whether the unit must wait. -/
structure VWork where
  s : State
  /-- The state at the unit's issue, where s-registers are read (R189). -/
  orig : State
  k : Core
  q : Nat
  u : Word
  c : FCtl
  vt : Word
  vl : Nat
  groups : List (Nat × Nat)
  /-- Restart index of each group: positions below it are skipped (R183). -/
  skip : Nat → Nat
  /-- Where each group stops, when an element of the unit faults (R182). -/
  lim : Nat → Option Nat
  vz : FMap (BitVec 1024) := []
  vzIn : Bool := false
  /-- The slot that the word under way fills. -/
  out : FMap (BitVec 1024) := []
  word : Nat := 0
  linked : Bool := false
  faults : List VFault := []
  wait : Bool := false
  notes : List MemNote := []
  /-- The VL that a first-fault load of the unit has left, once it has been found (R224). -/
  ffVl : Option Nat := none
  /-- An mt.mul ends the unit: its reads of the scratchpad see no store of the unit, in any of its segments (R244, R343). -/
  mul : Bool := false

/-- Element width of the unit. -/
def VWork.ew (w : VWork) : Nat := vtEw w.vt
/-- LMUL of the unit. -/
def VWork.lm (w : VWork) : Nat := vtLmul w.vt
/-- Elements per group of the unit. -/
def VWork.per (w : VWork) : Nat := vtPer w.vt
/-- Global index of a position (R170). -/
def VWork.idx (w : VWork) (p : Pos) : Nat := p.rank * w.per + p.j

/-- Where the body of a group ends: its positions below VL, or its limit. -/
def VWork.stop (w : VWork) (rank g : Nat) : Nat :=
  let n := positionsBelow w.per w.vl rank
  match w.lim g with
  | some f => Nat.min n f
  | none => n

/-- The positions below VL that the unit acts on. -/
def VWork.body (w : VWork) : List Pos :=
  (w.groups.map fun e => posRun e.1 e.2 (w.skip e.2) (w.stop e.1 e.2 - w.skip e.2)).flatten

/-- Whether the unit stops nowhere: only then do scalar results and tail positions take effect (R182). -/
def VWork.whole (w : VWork) : Bool := w.groups.all fun e => (w.lim e.2).isNone

/-- The tail positions, which a unit that faults does not touch: they lie at or above f(g) in every group (R182, log 98). -/
def VWork.tail (w : VWork) : List Pos :=
  if w.whole then
    (w.groups.map fun e =>
      let n := positionsBelow w.per w.vl e.1
      posRun e.1 e.2 n (w.per - n)).flatten
  else []

/-- The position of a global index. -/
def VWork.posOf (w : VWork) (i : Nat) : Pos :=
  ⟨i / w.per, ((w.groups.find? fun e => e.1 == i / w.per).map Prod.snd).getD 0, i % w.per⟩

/-- Whether a position below VL is active under a mask field (R176). -/
def VWork.active (w : VWork) (m : MReg) (p : Pos) : Bool := m == 0 || w.k.maskBit p.g m.toNat p.j

/-! ### Sources and destinations -/

/-- Whether a source field stands for the chain slot (R35). -/
def VWork.isVz (w : VWork) (r : Reg) : Bool := w.vzIn && r == 31

/-- Whether the destination field stands for the chain slot (R35). -/
def VWork.toVz (w : VWork) (r : Reg) : Bool := w.linked && r == 31

/-- Element `j` of a source group, at a width (log 38). -/
def VWork.src (w : VWork) (r : Reg) (ew : Nat) (p : Pos) : Nat :=
  if w.isVz r then sliceGet (FMap.get 0 w.vz (16 * p.g + elemReg ew p.j)) (elemBit ew p.j) ew
  else w.k.elem p.g r.toNat ew p.j

/-- Whether a source element is poisoned. -/
def VWork.srcBad (w : VWork) (r : Reg) (ew : Nat) (p : Pos) : Bool := !w.isVz r && w.k.elemBad p.g r.toNat ew p.j

/-- Writes a destination element. -/
def VWork.put (w : VWork) (r : Reg) (ew : Nat) (p : Pos) (x : Nat) : VWork :=
  if w.toVz r then
    let i := 16 * p.g + elemReg ew p.j
    { w with out := FMap.set 0 w.out i (sliceSet (FMap.get 0 w.out i) (elemBit ew p.j) ew x) }
  else { w with k := w.k.setElem p.g r.toNat ew p.j x }

/-- Zeroes a destination element that is tail or inactive, when its policy says so; the chain slot reads zero there
anyway (R176, R178). -/
def VWork.rest (w : VWork) (zero : Bool) (r : Reg) (ew : Nat) (p : Pos) : VWork :=
  if zero && !w.toVz r then { w with k := w.k.setElem p.g r.toNat ew p.j 0 } else w

/-- ORs flags into the lane of an element laid out at a width (R191). -/
def VWork.flag (w : VWork) (ew : Nat) (p : Pos) (f : FFlags) : VWork :=
  { w with k := w.k.orLane (8 * p.g + elemLane ew p.j) f }

/-- ORs flags into the sequencer's scalar flags. -/
def VWork.scalarFlag (w : VWork) (f : FFlags) : VWork :=
  if f = 0 then w else { w with s := w.s.modSeq w.q fun x => x.orFlags f }

/-- Reads an s-register as the unit found it at issue (R189). -/
def VWork.getS (w : VWork) (r : Reg) : Word := (w.orig.seq w.q).getS r
/-- Writes an s-register. -/
def VWork.setS (w : VWork) (r : Reg) (v : Word) : VWork := { w with s := w.s.modSeq w.q fun x => x.setS r v }

/-- Records a fault of an element; the earliest word of an element decides (R182). -/
def VWork.fault (w : VWork) (f : VFault) : VWork :=
  if w.faults.any fun o => o.p == f.p then w else { w with faults := w.faults ++ [f] }

/-- Cause 19 at an element that reads a poisoned register (R181, R192). -/
def VWork.poison (w : VWork) (p : Pos) : VWork := w.fault { p := p, word := w.word, cause := 19 }

/-! ### The walk of an elementwise word -/

/-- What an elementwise word makes of one active element: its bits and flags, or nothing because a source is
poisoned. -/
abbrev ElemFn := VWork → Pos → Option (Nat × FFlags)

/-- The state as the loads of the unit see it: that of its issue, which holds no store of the unit, with the requests sent since
(R343). -/
def VWork.before (w : VWork) : State := { w.orig with requests := w.s.requests, ports := w.s.ports }

/-- Cause 19 at each element of the body that consumes a poisoned bit of one of some mask registers (R181, R192). -/
def VWork.maskPoison (w : VWork) (ms : List Nat) : VWork :=
  match w.k.maskPois with
  | [] => w
  | _ => w.body.foldl (fun o p => if ms.any fun m => w.k.maskBad p.g m p.j then o.poison p else o) w

/-- Runs an elementwise word whose destination is a register group at width `ew`: every source is read from the work
as it stood before the word (R191), inactive and tail positions follow R176. `extra` names tail positions past `per`
that a narrowing conversion leaves in its one register (R204). -/
def VWork.mapElems (w : VWork) (d : Reg) (ew : Nat) (m : MReg) (f : ElemFn) (extra : List Pos) : VWork :=
  let w1 := w.body.foldl (fun o p =>
    if w.active m p then
      match f w p with
      | some (x, fl) => (o.put d ew p x).flag ew p fl
      | none => o.poison p
    else o.rest (vtInactZero w.vt) d ew p) w
  (w.tail ++ extra).foldl (fun o p => o.rest (vtTailZero w.vt) d ew p) w1

/-- Runs a compare: bit i of a mask register per element, flags to the lane of va's element (R191, R196). -/
def VWork.mapMask (w : VWork) (d : Nat) (m : MReg) (f : VWork → Pos → Option (Bool × FFlags)) : VWork :=
  let w1 := w.body.foldl (fun o p =>
    if w.active m p then
      match f w p with
      | some (b, fl) => ({ o with k := o.k.setMask p.g d p.j b }).flag w.ew p fl
      | none => o.poison p
    else if vtInactZero w.vt then { o with k := o.k.setMask p.g d p.j false } else o) w
  w.tail.foldl (fun o p => if vtTailZero w.vt then { o with k := o.k.setMask p.g d p.j false } else o) w1

/-! ### Register-group fields -/

/-- Whether a register field may start a group of `n` registers, or stands for the chain slot (R35, R172). -/
def alignedGroup (r : Reg) (n : Nat) (isVz : Bool) : Bool := isVz || r.toNat % n == 0

/-- Whether two groups overlap; one that stands for the chain slot never does. -/
def groupsMeet (a : Reg) (na : Nat) (va : Bool) (b : Reg) (nb : Nat) (vb : Bool) : Bool :=
  !va && !vb && decide (a.toNat < b.toNat + nb ∧ b.toNat < a.toNat + na)

end Sys2Proof.Machine
end

