-- ==== Sys2Proof/Machine/VArith.lean ====
section
/-!
DEFINITION. Sys2Proof/Machine/VArith.lean: the element functions of majors v, vs, vi, vf, vfs, vcv and vw
(09_vector_instructions.md R193 to R208).
-/

namespace Sys2Proof.Machine

open Sys2Proof

/-! ### Integer elements -/

/-- The low `n` bits of a number as signed (R193). -/
def toSigned (n v : Nat) : Int := if v / 2 ^ (n - 1) % 2 = 1 then (v % 2 ^ n : Nat) - (2 ^ n : Nat) else (v % 2 ^ n : Nat)

/-- The low `n` bits of an integer. -/
def ofSigned (n : Nat) (x : Int) : Nat := wrapInt n x

/-- Leading zero bits of `v` in `n` bits. -/
def clzIn (n v : Nat) : Nat := if v = 0 then n else n - 1 - Nat.log2 v

/-- Rounding shift right of R195: ties upward, or to even. -/
def roundShr (even : Bool) (x : Int) (c : Nat) : Int :=
  if c = 0 then x
  else
    let h : Int := (2 ^ (c - 1) : Nat)
    let q := x / (2 ^ c : Nat)
    let r := x % (2 ^ c : Nat)
    if even then (if h < r ∨ (r = h ∧ q % 2 = 1) then q + 1 else q) else (x + h) / (2 ^ c : Nat)

/-- Relations of the integer compares (R196); none for a function that is no compare. -/
def intRel (fn : VIntFn) (n x y : Nat) : Option Bool :=
  match fn with
  | .cmpeq => some (x == y)
  | .cmpne => some (x != y)
  | .cmplt => some (decide (toSigned n x < toSigned n y))
  | .cmple => some (decide (toSigned n x ≤ toSigned n y))
  | .cmpltz => some (decide (x < y))
  | .cmplez => some (decide (x ≤ y))
  | .add | .sub | .rsub | .mul | .mulh | .mulhz | .mac | .nmac | .and | .or | .xor | .shl | .shr | .sra | .rshr | .rshre
  | .min | .max | .minz | .maxz | .abs | .avg | .div | .divz | .rem | .remz | .sel | .mv | .clz | .pop => none

/-- IntOp of R194 on `n`-bit elements, the result modulo 2^n; `z` is the old destination element. -/
def intOp (fn : VIntFn) (n x y z : Nat) : Nat :=
  let c := y % n
  let sx := toSigned n x
  let sy := toSigned n y
  match fn with
  | .add => (x + y) % 2 ^ n
  | .sub => (x + 2 ^ n - y) % 2 ^ n
  | .rsub => (y + 2 ^ n - x) % 2 ^ n
  | .mul => x * y % 2 ^ n
  | .mulh => ofSigned n (sx * sy / (2 ^ n : Nat))
  | .mulhz => x * y / 2 ^ n % 2 ^ n
  | .mac => (z + x * y) % 2 ^ n
  | .nmac => ofSigned n ((z : Int) - (x : Int) * y)
  | .and => x &&& y
  | .or => x ||| y
  | .xor => x ^^^ y
  | .shl => x * 2 ^ c % 2 ^ n
  | .shr => x / 2 ^ c
  | .sra => ofSigned n (sx / (2 ^ c : Nat))
  | .rshr => ofSigned n (roundShr false sx c)
  | .rshre => ofSigned n (roundShr true sx c)
  | .min => if sx < sy then x else y
  | .max => if sy < sx then x else y
  | .minz => Nat.min x y
  | .maxz => Nat.max x y
  | .abs => ofSigned n (sx.natAbs : Int)
  | .avg => ofSigned n ((sx + sy + 1) / 2)
  | .div => if y = 0 then 2 ^ n - 1 else ofSigned n (Int.tdiv sx sy)
  | .divz => if y = 0 then 2 ^ n - 1 else x / y
  | .rem => if y = 0 then x else ofSigned n (Int.tmod sx sy)
  | .remz => if y = 0 then x else x % y
  | .cmpeq | .cmpne | .cmplt | .cmple | .cmpltz | .cmplez => 0
  | .sel => x
  | .mv => y
  | .clz => clzIn n x
  | .pop => popBits n x

/-- Whether a function reads va's element. -/
def intReadsX : VIntFn → Bool
  | .mv => false
  | .add | .sub | .rsub | .mul | .mulh | .mulhz | .mac | .nmac | .and | .or | .xor | .shl | .shr | .sra | .rshr | .rshre
  | .min | .max | .minz | .maxz | .abs | .avg | .div | .divz | .rem | .remz
  | .cmpeq | .cmpne | .cmplt | .cmple | .cmpltz | .cmplez | .sel | .clz | .pop => true

/-- Whether a function reads the operand y. -/
def intReadsY : VIntFn → Bool
  | .abs | .clz | .pop => false
  | .add | .sub | .rsub | .mul | .mulh | .mulhz | .mac | .nmac | .and | .or | .xor | .shl | .shr | .sra | .rshr | .rshre
  | .min | .max | .minz | .maxz | .avg | .div | .divz | .rem | .remz
  | .cmpeq | .cmpne | .cmplt | .cmple | .cmpltz | .cmplez | .sel | .mv => true

/-- Whether a function reads the old destination element. -/
def intReadsZ : VIntFn → Bool
  | .mac | .nmac => true
  | .add | .sub | .rsub | .mul | .mulh | .mulhz | .and | .or | .xor | .shl | .shr | .sra | .rshr | .rshre
  | .min | .max | .minz | .maxz | .abs | .avg | .div | .divz | .rem | .remz
  | .cmpeq | .cmpne | .cmplt | .cmple | .cmpltz | .cmplez | .sel | .mv | .clz | .pop => false

/-- Whether a function shifts by its operand, which then is zero-extended in major vi (R189). -/
def intShifts : VIntFn → Bool
  | .shl | .shr | .sra | .rshr | .rshre => true
  | .add | .sub | .rsub | .mul | .mulh | .mulhz | .mac | .nmac | .and | .or | .xor
  | .min | .max | .minz | .maxz | .abs | .avg | .div | .divz | .rem | .remz
  | .cmpeq | .cmpne | .cmplt | .cmple | .cmpltz | .cmplez | .sel | .mv | .clz | .pop => false

/-- The operand y of an integer word at a position (R189). -/
def VWork.intY (w : VWork) (form : VForm) (fn : VIntFn) (b : Reg) (p : Pos) : Nat :=
  let n := w.ew
  match form with
  | .vv => w.src b n p
  | .vs => (w.getS b).toNat % 2 ^ n
  | .vi => if intShifts fn then b.toNat % 2 ^ n else (b.signExtend 64).toNat % 2 ^ n

/-- Whether an integer word reads a poisoned element at a position. sel reads both its operands, whichever its mask chooses
(R192, R197, log 108). -/
def VWork.intBad (w : VWork) (form : VForm) (fn : VIntFn) (d a b : Reg) (p : Pos) : Bool :=
  let n := w.ew
  let vv := form == .vv
  -- v.mv moves va; the field va is its source there
  (intReadsX fn && w.srcBad a n p) || (vv && fn == .mv && w.srcBad a n p)
    || (vv && intReadsY fn && fn != .mv && w.srcBad b n p) || (intReadsZ fn && w.srcBad d n p)

/-- An integer word of majors v, vs and vi (R194 to R197). -/
def VWork.runInt (w : VWork) (form : VForm) (fn : VIntFn) (d a b : Reg) (m : MReg) : VWork :=
  let n := w.ew
  match fn with
  | .cmpeq | .cmpne | .cmplt | .cmple | .cmpltz | .cmplez =>
    w.mapMask (d.toNat % 8) m fun w p =>
      if w.intBad form fn d a b p then none else (intRel fn n (w.src a n p) (w.intY form fn b p)).map fun r => (r, 0)
  | .sel =>
    w.mapElems d n 0 (fun w p =>
      if w.intBad form fn d a b p then none
      else some (if w.k.maskBit p.g m.toNat p.j then w.src a n p else w.intY form fn b p, 0)) []
  | .mv =>
    w.mapElems d n m (fun w p =>
      if w.intBad form fn d a b p then none
      else some ((match form with | .vv => w.src a n p | .vs => w.intY .vs fn b p | .vi => w.intY .vi fn b p), 0)) []
  | _ =>
    w.mapElems d n m (fun w p =>
      if w.intBad form fn d a b p then none
      else some (intOp fn n (w.src a n p) (w.intY form fn b p) (w.src d n p), 0)) []

/-! ### Floating elements -/

/-- Sign of an element's bits. -/
def signOf (f : Fmt) (x : Nat) : Bool := x / 2 ^ (f.width - 1) % 2 == 1

/-- An exact unary function of the bits: a NaN gives the canonical one, NV when it signals (R94, R199). -/
def fpSignOp (f : Fmt) (c : FCtl) (neg : Bool → Bool) (x : Nat) : Nat × FFlags :=
  let (b, v, fl) := fpOperand f c x
  if v.isNan then (f.nanBits, fl ||| sigNV v)
  else (b % 2 ^ (f.width - 1) + (if neg (signOf f b) then 2 ^ (f.width - 1) else 0), fl)

/-- sgnj: magnitude of x, sign of y (R199). -/
def fpSgnj (f : Fmt) (c : FCtl) (x y : Nat) : Nat × FFlags :=
  let (bx, vx, fx) := fpOperand f c x
  let (by', vy, fy) := fpOperand f c y
  let fl := fx ||| fy ||| sigNV vx ||| sigNV vy
  if vx.isNan then (f.nanBits, fl)
  else (bx % 2 ^ (f.width - 1) + (if signOf f by' then 2 ^ (f.width - 1) else 0), fl)

/-- The magnitude of a number. -/
def FpVal.mag : FpVal → FpVal
  | .nan s => .nan s
  | .inf _ => .inf false
  | .fin _ m e => .fin false m e

/-- maxm: the operand of larger magnitude, on equal ones max (R199). -/
def fpMaxm (f : Fmt) (c : FCtl) (x y : Nat) : Nat × FFlags :=
  let (bx, vx, fx) := fpOperand f c x
  let (by', vy, fy) := fpOperand f c y
  let fl := fx ||| fy
  if vx.isNan || vy.isNan then (f.nanBits, fl ||| sigNV vx ||| sigNV vy)
  else if ltVal vy.mag vx.mag then (bx, fl)
  else if ltVal vx.mag vy.mag then (by', fl)
  else
    let (r, f2) := minMaxBits f true bx by' vx vy
    (r, fl ||| f2)

/-- FOp of R199, but for the compares. -/
def fpOp (fn : VFpFn) (f : Fmt) (c : FCtl) (x y z : Nat) : Nat × FFlags :=
  match fn with
  | .add => fpAdd f c x y
  | .sub => fpSub f c x y
  | .mul => fpMul f c x y
  | .div => fpDiv f c x y
  | .fma => fpFma f c false false x y z
  | .fms => fpFma f c false true x y z
  | .fnma => fpFma f c true false x y z
  | .min => fpMinMax f c false x y
  | .max => fpMinMax f c true x y
  | .abs => fpSignOp f c (fun _ => false) x
  | .neg => fpSignOp f c (fun s => !s) x
  | .sqrt => fpSqrt f c x
  | .rcpe => fpRcpe f c x
  | .rsqe => fpRsqe f c x
  | .exp2 => fpExp2 f c x
  | .cmpeq | .cmplt | .cmple => (0, 0)
  | .class => (classBits f (f.decode x), 0)
  | .sgnj => fpSgnj f c x y
  | .maxm => fpMaxm f c x y

/-- The comparison of a floating compare. -/
def fpFnCmp : VFpFn → Option FCmp
  | .cmpeq => some .eq
  | .cmplt => some .lt
  | .cmple => some .le
  | .add | .sub | .mul | .div | .fma | .fms | .fnma | .min | .max | .abs | .neg | .sqrt | .rcpe | .rsqe | .exp2
  | .class | .sgnj | .maxm => none

/-- Whether a floating function reads y. -/
def fpReadsY : VFpFn → Bool
  | .abs | .neg | .sqrt | .rcpe | .rsqe | .exp2 | .class => false
  | .add | .sub | .mul | .div | .fma | .fms | .fnma | .min | .max | .cmpeq | .cmplt | .cmple | .sgnj | .maxm => true

/-- Whether a floating function reads the old destination element. -/
def fpReadsZ : VFpFn → Bool
  | .fma | .fms | .fnma => true
  | .add | .sub | .mul | .div | .min | .max | .abs | .neg | .sqrt | .rcpe | .rsqe | .exp2
  | .cmpeq | .cmplt | .cmple | .class | .sgnj | .maxm => false

/-- A floating word of majors vf and vfs (R198 to R201). -/
def VWork.runFp (w : VWork) (f : Fmt) (scalar : Bool) (fn : VFpFn) (d a b : Reg) (m : MReg) : VWork :=
  let n := w.ew
  let y (w : VWork) (p : Pos) : Nat := if scalar then (w.getS b).toNat % 2 ^ n else w.src b n p
  let bad (w : VWork) (p : Pos) : Bool :=
    w.srcBad a n p || (!scalar && fpReadsY fn && w.srcBad b n p) || (fpReadsZ fn && w.srcBad d n p)
  match fpFnCmp fn with
  | some k => w.mapMask (d.toNat % 8) m fun w p => if bad w p then none else some (fpCmp f w.c k (w.src a n p) (y w p))
  | none =>
    w.mapElems d n m (fun w p =>
      if bad w p then none else some (fpOp fn f w.c (w.src a n p) (y w p) (w.src d n p))) []

/-! ### Conversions and special words -/

/-- Registers of a conversion's destination group (R204). -/
def emul (lm ews ewd : Nat) : Nat := if ews ≤ lm * ewd then lm * ewd / ews else 1

/-- Positions past `per` in the one register of a conversion whose EMUL would lie below 1: tail positions (R204). -/
def VWork.extraTail (w : VWork) (ewd : Nat) : List Pos :=
  if w.ew ≤ w.lm * ewd ∨ w.whole = false then []
  else (w.groups.map fun e => posRun e.1 e.2 w.per (1024 / ewd - w.per)).flatten

/-- The control of a vcv word: one that reads no IEEE elements flushes no result (R100); the scale of qnt is always an operand that
flush_in applies to (R206). -/
def cvtCtl (fs : Fmt) (c : FCtl) : FCtl := if fs.isIeee then c else { c with flushOut := false }

/-- cvt and cvts (R205). -/
def VWork.runCvt (w : VWork) (fs fd : Fmt) (sat : Bool) (d a : Reg) (m : MReg) : VWork :=
  w.mapElems d fd.width m (fun w p =>
    if w.srcBad a w.ew p then none else some (convertElem fs fd (cvtCtl fs w.c) sat (w.src a w.ew p))) (w.extraTail fd.width)

/-- SatConvert of a product to a destination format (R206). -/
def qntElem (fs fd : Fmt) (c : FCtl) (x scale : Nat) : Nat × FFlags :=
  let f32 : Fmt := .ieee .f32
  let v0 := fs.decode x
  let (v, fa) := flushVal fs c v0
  let s0 := f32.decode scale
  let (sv, fb) := flushVal f32 c s0
  let fl := fa ||| fb ||| sigNV v0 ||| sigNV s0
  match mulEx v sv with
  | .nan f => (fd.nanBits, fl ||| f ||| (if fd.isInt then fNV else 0))
  | .inf neg _ => let (r, f) := fd.convert c true (.inf neg); (r, fl ||| f)
  | .val neg mm e _ => let (r, f) := fd.convert c true (.fin neg mm e); (r, fl ||| f)

/-- qnt (R206). -/
def VWork.runQnt (w : VWork) (fs fd : Fmt) (d a b : Reg) (m : MReg) : VWork :=
  w.mapElems d fd.width m (fun w p =>
    if w.srcBad a w.ew p then none
    else some (qntElem fs fd (cvtCtl fs w.c) (w.src a w.ew p) ((w.getS b).toNat % 2 ^ 32))) (w.extraTail fd.width)

/-- One element of a Hadamard stage: the sum, or the difference of partner and element (R207). -/
def hadElem (f : Fmt) (c : FCtl) (low : Bool) (x y : Nat) : Nat × FFlags :=
  match f with
  | .int _ _ => (if low then (x + y) % 2 ^ f.width else (y + 2 ^ f.width - x) % 2 ^ f.width, 0)
  | _ => if low then fpAdd f c x y else fpSub f c y x

/-- had (R207). -/
def VWork.runHad (w : VWork) (f : Fmt) (d a : Reg) (imm : Nat) (m : MReg) : VWork :=
  let n := w.ew
  w.mapElems d n m (fun w p =>
    let i := w.idx p
    let j := i ^^^ 2 ^ imm
    let pp := w.posOf j
    if w.srcBad a n p then none
    else if w.vl ≤ j ∨ !w.active m pp then some (w.src a n p, 0)
    else if w.srcBad a n pp then none
    else some (hadElem f w.c (decide (i < j)) (w.src a n p) (w.src a n pp))) []

/-- hash (R208). -/
def VWork.runHash (w : VWork) (d a b : Reg) (m : MReg) : VWork :=
  w.mapElems d 64 m (fun w p =>
    if w.srcBad a 64 p || w.srcBad b 64 p then none
    else some ((hash64 (BitVec.ofNat 64 (w.src a 64 p)) (BitVec.ofNat 64 (w.src b 64 p))).toNat, 0)) []

/-- iota (R208). -/
def VWork.runIota (w : VWork) (d b : Reg) (m : MReg) : VWork :=
  w.mapElems d w.ew m (fun w p => some (((w.getS b).toNat + w.idx p) % 2 ^ w.ew, 0)) []

/-! ### Widening and narrowing -/

/-- An exact value clamped to a signed or unsigned width, with sat when that changes it (R203). -/
def clampTo (signed : Bool) (n : Nat) (x : Int) : Nat × FFlags := intToInt true signed n x

/-- The functions of R203: `n` the narrow width, `x` and `y` narrow, `W` the wide destination or source element. -/
def wideOp (fn : VwFn) (n x y W c : Nat) : Nat × FFlags :=
  let t := 2 * n
  let sx := toSigned n x
  let sy := toSigned n y
  match fn with
  | .wmac => (ofSigned t ((W : Int) + sx * sy), 0)
  | .wmacz => ((W + x * y) % 2 ^ t, 0)
  | .wmacsz => (ofSigned t ((W : Int) + sx * (y : Int)), 0)
  | .wadd => (ofSigned t (sx + sy), 0)
  | .waddz => (x + y, 0)
  | .wmul => (ofSigned t (sx * sy), 0)
  | .nsat => clampTo true n (toSigned t W)
  | .nsatz => clampTo false n (W : Int)
  | .nrshr => clampTo true n (roundShr false (toSigned t W) c)

/-- Whether the destination of a vw function is the wide group. -/
def vwWidens : VwFn → Bool
  | .wmac | .wmacz | .wmacsz | .wadd | .waddz | .wmul => true
  | .nsat | .nsatz | .nrshr => false

/-- Whether a vw function adds to its destination. -/
def vwAccumulates : VwFn → Bool
  | .wmac | .wmacz | .wmacsz => true
  | .wadd | .waddz | .wmul | .nsat | .nsatz | .nrshr => false

/-- A word of major vw (R202, R203). -/
def VWork.runWide (w : VWork) (fn : VwFn) (d a b : Reg) (m : MReg) : VWork :=
  let n := w.ew
  if vwWidens fn then
    w.mapElems d (2 * n) m (fun w p =>
      if w.srcBad a n p || w.srcBad b n p || (vwAccumulates fn && w.srcBad d (2 * n) p) then none
      else some (wideOp fn n (w.src a n p) (w.src b n p) (w.src d (2 * n) p) 0)) []
  else
    w.mapElems d n m (fun w p =>
      if w.srcBad a (2 * n) p then none else some (wideOp fn n 0 0 (w.src a (2 * n) p) b.toNat)) []

end Sys2Proof.Machine
end

