-- ==== Sys2Proof/Machine/VPerm.lean ====
section
/-!
DEFINITION. Sys2Proof/Machine/VPerm.lean: the words of major vp and CanonicalSum (09_vector_instructions.md R209 to
R215; 04_numbers.md R107).
-/

namespace Sys2Proof.Machine

open Sys2Proof

/-! ### CanonicalSum (R107) -/

/-- A combining operation with the flags it raises. -/
abbrev CombOp := Nat → Nat → Nat × FFlags

/-- One level of the tree: neighbours combine, an absent one passes its partner on. -/
def pairUp (op : CombOp) : List (Option Nat) → List (Option Nat) × FFlags
  | [] => ([], 0)
  | [a] => ([a], 0)
  | a :: b :: rest =>
    let (l, f) := pairUp op rest
    match a, b with
    | none, none => (none :: l, f)
    | some x, none => (some x :: l, f)
    | none, some y => (some y :: l, f)
    | some x, some y => let (r, g) := op x y; (some r :: l, f ||| g)

/-- The six levels over 64 leaves. -/
def treeUp (op : CombOp) : Nat → List (Option Nat) → List (Option Nat) × FFlags
  | 0, l => (l, 0)
  | n + 1, l =>
    let (l1, f) := pairUp op l
    let (l2, g) := treeUp op n l1
    (l2, f ||| g)

/-- CanonicalSum over the leaves, absent ones none, group by group of 64; the fuel bounds the groups. -/
def canonicalFuel (op : CombOp) : Nat → Nat × FFlags → List (Option Nat) → Nat × FFlags
  | 0, acc, _ => acc
  | n + 1, (acc, f), l =>
    match l with
    | [] => (acc, f)
    | _ =>
      let (t, g) := treeUp op 6 ((l.take 64) ++ List.replicate (64 - (l.take 64).length) none)
      let r := match t with
        | some x :: _ => let (a, h) := op acc x; (a, f ||| g ||| h)
        | _ => (acc, f ||| g)
      canonicalFuel op n r (l.drop 64)

/-- CanonicalSum (R107). -/
def canonicalSum (op : CombOp) (init : Nat) (l : List (Option Nat)) : Nat × FFlags :=
  canonicalFuel op (l.length / 64 + 1) (init, 0) l

/-! ### Elements by global index -/

/-- An element of a source by global index. -/
def VWork.srcAt (w : VWork) (r : Reg) (i : Nat) : Nat := w.src r w.ew (w.posOf i)
/-- Whether that element is poisoned. -/
def VWork.srcBadAt (w : VWork) (r : Reg) (i : Nat) : Bool := w.srcBad r w.ew (w.posOf i)

/-- A moving word: what active position p takes, as the index of the source element, zero, or itself untouched
(R210). -/
inductive Take
  | elem (r : Reg) (i : Nat)
  | zero
  | keep
deriving DecidableEq, Repr

/-- Runs a moving word (R210). An element that slup leaves unchanged holds zero in the chain slot of a linked word, as an inactive
one does; the same holds of every element that insrt does not write (log 109). -/
def VWork.runMove (w : VWork) (d : Reg) (m : MReg) (f : VWork → Pos → Take) : VWork :=
  let w1 := w.body.foldl (fun o p =>
    if w.active m p then
      match f w p with
      | .elem r i => if w.srcBadAt r i then o.poison p else o.put d w.ew p (w.srcAt r i)
      | .zero => o.put d w.ew p 0
      | .keep => o
    else o.rest (vtInactZero w.vt) d w.ew p) w
  w.tail.foldl (fun o p => o.rest (vtTailZero w.vt) d w.ew p) w1

/-- The global indices of the body's active positions, ascending. -/
def VWork.actives (w : VWork) (m : MReg) : List Nat := (w.body.filter fun p => w.active m p).map w.idx

/-- cmpr (R211). -/
def VWork.runCmpr (w : VWork) (d a : Reg) (m : MReg) : VWork :=
  let is := w.actives m
  let w1 := is.foldl (fun o i => if w.srcBadAt a i then o.poison (w.posOf i) else o) w
  let w2 := (is.zip (List.range is.length)).foldl (fun o e => o.put d w.ew (w.posOf e.2) (w.srcAt a e.1)) w1
  (w.body ++ w.tail).foldl (fun o p => if w.idx p < is.length then o else o.rest (vtTailZero w.vt) d w.ew p) w2

/-- expd (R211). -/
def VWork.runExpd (w : VWork) (d a : Reg) (m : MReg) : VWork :=
  let is := w.actives m
  let w1 := (is.zip (List.range is.length)).foldl (fun o e =>
    if w.srcBadAt a e.2 then o.poison (w.posOf e.1) else o.put d w.ew (w.posOf e.1) (w.srcAt a e.2)) w
  let w2 := w.body.foldl (fun o p => if w.active m p then o else o.rest (vtInactZero w.vt) d w.ew p) w1
  w.tail.foldl (fun o p => o.rest (vtTailZero w.vt) d w.ew p) w2

/-! ### Sorting (R212) -/

/-- The sort key of an element: signed or unsigned integers, or IEEE numbers with every NaN last. -/
def sortKey (f : Fmt) (x : Nat) : Int :=
  match f with
  | .int s _ => if s then toSigned f.width x else (x : Int)
  | _ =>
    if (f.decode x).isNan then (2 ^ f.width : Nat)
    else
      let m : Int := ((x % 2 ^ (f.width - 1) : Nat) : Int)
      if signOf f x then -m - 1 else m

/-- An element as sort and merge write it: every NaN canonical. -/
def sortOut (f : Fmt) (x : Nat) : Nat := if !f.isInt && (f.decode x).isNan then f.nanBits else x

/-- Inserts before the first element that is not smaller. -/
def insertKey (f : Fmt) (x : Nat) : List Nat → List Nat
  | [] => [x]
  | y :: rest => if sortKey f x ≤ sortKey f y then x :: y :: rest else y :: insertKey f x rest

/-- The elements in ascending key order, equal keys in their order (R212). -/
def stableSort (f : Fmt) (l : List Nat) : List Nat := l.foldr (insertKey f) []

/-- The first `n` steps of the merge of R212. -/
def mergeKeys (f : Fmt) : Nat → List Nat → List Nat → List Nat
  | 0, _, _ => []
  | n + 1, a, b =>
    match a, b with
    | x :: as, y :: bs => if sortKey f y < sortKey f x then y :: mergeKeys f n a bs else x :: mergeKeys f n as b
    | x :: as, [] => x :: mergeKeys f n as []
    | [], y :: bs => y :: mergeKeys f n [] bs
    | [], [] => []

/-- NV when an element is a signalling NaN. -/
def sortFlags (f : Fmt) (l : List Nat) : FFlags := if !f.isInt && l.any (fun x => (f.decode x).isSig) then fNV else 0

/-- sort, or merge with a second source (R212). -/
def VWork.runSort (w : VWork) (f : Fmt) (d a : Reg) (b : Option Reg) (m : MReg) : VWork :=
  let is := List.range w.vl
  let xs := is.map (w.srcAt a)
  let ys := match b with | some b => is.map (w.srcAt b) | none => []
  let bad (i : Nat) : Bool := w.srcBadAt a i || (match b with | some b => w.srcBadAt b i | none => false)
  let w1 := is.foldl (fun o i => if bad i then o.poison (w.posOf i) else o) w
  let out := match b with | some _ => mergeKeys f w.vl xs ys | none => stableSort f xs
  let w2 := w.body.foldl (fun o p =>
    if w.active m p then o.put d w.ew p (sortOut f (out.getD (w.idx p) 0)) else o.rest (vtInactZero w.vt) d w.ew p) w1
  (w.tail.foldl (fun o p => o.rest (vtTailZero w.vt) d w.ew p) w2).scalarFlag (sortFlags f (xs ++ ys))

/-! ### Reductions and scans -/

/-- Operation of an integer or floating reduction (R213); FCTL's flush_in has acted on the inputs (R100). -/
def redOp (fn : VpFn) (f : Fmt) (c : FCtl) : CombOp :=
  match fn with
  | .rmax => fun a b => (if f.signed then (if toSigned f.width b < toSigned f.width a then a else b) else Nat.max a b, 0)
  | .rmin => fun a b => (if f.signed then (if toSigned f.width a < toSigned f.width b then a else b) else Nat.min a b, 0)
  | .rand => fun a b => (a &&& b, 0)
  | .ror => fun a b => (a ||| b, 0)
  | .frsum | .fscan => fpAdd f { c with flushIn := false }
  | .frmax => fpMinMax f { c with flushIn := false } true
  | .frmin => fpMinMax f { c with flushIn := false } false
  | .rsum | .scan | .slup | .sldn | .rgat | .cmpr | .expd | .xchg | .sort | .merge | .mand | .mor | .mxor | .mnot
  | .mpop | .mffs | .mfirst | .bcast | .ext | .insrt => fun a b => ((a + b) % 2 ^ f.width, 0)

/-- Whether a reduction adds floating numbers, and so flushes its inputs (R100). -/
def redFlushes (fn : VpFn) : Bool :=
  match fn with
  | .frsum | .fscan => true
  | .slup | .sldn | .rgat | .cmpr | .expd | .xchg | .sort | .merge | .rsum | .rmax | .rmin | .rand | .ror
  | .frmax | .frmin | .scan | .mand | .mor | .mxor | .mnot | .mpop | .mffs | .mfirst | .bcast | .ext | .insrt => false

/-- A reduction input with the flushing that applies. -/
def redIn (fn : VpFn) (f : Fmt) (c : FCtl) (x : Nat) : Nat × FFlags :=
  if redFlushes fn then let (b, _, fl) := fpOperand f c x; (b, fl) else (x, 0)

/-- A result element extended to 64 bits: an integer by its signedness, a float with zeros (R210, R213). -/
def extendElem (f : Fmt) (x : Nat) : Word :=
  BitVec.ofNat 64 (if f.isInt && f.signed then ofSigned 64 (toSigned f.width x) else x)

/-- The leaves of a reduction or scan: active elements below VL after flushing, with the flags of that. -/
def VWork.leaves (w : VWork) (fn : VpFn) (f : Fmt) (a : Reg) (m : MReg) : List (Option Nat) × FFlags :=
  let is := w.actives m
  let l := (List.range w.vl).map fun i => if is.contains i then some (redIn fn f w.c (w.srcAt a i)) else none
  (l.map fun e => e.map Prod.fst, l.foldl (fun fl e => match e with | some x => fl ||| x.2 | none => fl) 0)

/-- Faults of poisoned active sources. -/
def VWork.poisonActive (w : VWork) (a : Reg) (m : MReg) : VWork :=
  (w.actives m).foldl (fun o i => if w.srcBadAt a i then o.poison (w.posOf i) else o) w

/-- A reduction (R213). -/
def VWork.runReduce (w : VWork) (fn : VpFn) (f : Fmt) (d a b : Reg) (m : MReg) : VWork :=
  let (ls, fl) := w.leaves fn f a m
  let (init, fi) := redIn fn f w.c ((w.getS b).toNat % 2 ^ f.width)
  let (r, fr) := canonicalSum (redOp fn f w.c) init ls
  ((w.poisonActive a m).setS d (extendElem f r)).scalarFlag (fl ||| fi ||| fr)

/-- A scan (R214). The flush of fscan's init sets its flag whenever VL is above 0, also with no active element (log 110). -/
def VWork.runScan (w : VWork) (fn : VpFn) (f : Fmt) (d a b : Reg) (m : MReg) : VWork :=
  let (ls, fl) := w.leaves fn f a m
  let (init, fi) := redIn fn f w.c ((w.getS b).toNat % 2 ^ f.width)
  let w1 := (w.poisonActive a m).scalarFlag (fl ||| fi)
  let w2 := w.body.foldl (fun o p =>
    if w.active m p then
      let (r, fr) := canonicalSum (redOp fn f w.c) init (ls.take (w.idx p + 1))
      (o.put d w.ew p r).scalarFlag fr
    else o.rest (vtInactZero w.vt) d w.ew p) w1
  w.tail.foldl (fun o p => o.rest (vtTailZero w.vt) d w.ew p) w2

/-! ### Mask operations (R215) -/

/-- Writes every mask bit below VL; the tail policy above (log 39). -/
def VWork.runMask (w : VWork) (d : Nat) (f : VWork → Pos → Bool) : VWork :=
  let w1 := w.body.foldl (fun o p => { o with k := o.k.setMask p.g d p.j (f w p) }) w
  w.tail.foldl (fun o p => if vtTailZero w.vt then { o with k := o.k.setMask p.g d p.j false } else o) w1

/-- The global indices below VL whose bit of a mask register is set, ascending. -/
def VWork.setBitsOf (w : VWork) (r : Nat) : List Nat :=
  (List.range w.vl).filter fun i => w.k.maskBit (w.posOf i).g r (w.posOf i).j

/-- Writes a scalar result of a word of a unit that runs whole. -/
def VWork.putS (w : VWork) (r : Reg) (v : Word) : VWork := if w.whole then w.setS r v else w

/-- A word of major vp with VL above 0 (R209 to R215). -/
def VWork.runPerm (w : VWork) (f : Fmt) (fn : VpFn) (d a b : Reg) (m : MReg) : VWork :=
  let dm := d.toNat % 8
  let am := a.toNat % 8
  let bm := b.toNat % 8
  let off := (w.getS b).toNat
  match fn with
  | .slup => w.runMove d m fun w p => if off ≤ w.idx p then .elem a (w.idx p - off) else .keep
  | .sldn => w.runMove d m fun w p => if w.idx p + off < w.vl then .elem a (w.idx p + off) else .zero
  | .rgat =>
    (w.body.foldl (fun o p => if w.active m p && w.srcBad b w.ew p then o.poison p else o) w).runMove d m fun w p =>
      let i := w.src b w.ew p
      if i < w.vl then .elem a i else .zero
  | .cmpr => w.runCmpr d a m
  | .expd => w.runExpd d a m
  | .xchg =>
    w.runMove d m fun w p =>
      let i := w.idx p ^^^ 2 ^ b.toNat
      if i < w.vl then .elem a i else .elem a (w.idx p)
  | .sort => w.runSort f d a none m
  | .merge => w.runSort f d a (some b) m
  | .rsum | .rmax | .rmin | .rand | .ror | .frsum | .frmax | .frmin => w.runReduce fn f d a b m
  | .scan | .fscan => w.runScan fn f d a b m
  | .mand => w.runMask dm fun w p => w.k.maskBit p.g am p.j && w.k.maskBit p.g bm p.j
  | .mor => w.runMask dm fun w p => w.k.maskBit p.g am p.j || w.k.maskBit p.g bm p.j
  | .mxor => w.runMask dm fun w p => w.k.maskBit p.g am p.j != w.k.maskBit p.g bm p.j
  | .mnot => w.runMask dm fun w p => !w.k.maskBit p.g am p.j
  | .mpop => w.putS d (BitVec.ofNat 64 (w.setBitsOf am).length)
  | .mffs => w.putS d (match w.setBitsOf am with | [] => BitVec.allOnes 64 | i :: _ => BitVec.ofNat 64 i)
  | .mfirst => let n := (w.getS a).toNat; w.runMask dm fun w p => decide (w.idx p < n)
  | .bcast => w.runMove d m fun w _ => if off < w.vl then .elem a off else .zero
  | .ext =>
    if w.vl ≤ off then w.setS d 0
    else if w.srcBadAt a off then w.poison (w.posOf off)
    else w.setS d (extendElem f (w.srcAt a off))
  | .insrt =>
    if w.vl ≤ off then w else w.put d w.ew (w.posOf off) ((w.getS a).toNat % 2 ^ w.ew)

/-- A word of major vp with VL = 0: only scalar results (R175, R213, R215). `f` is none while VTYPE is 0. -/
def VWork.permEmpty (w : VWork) (f : Option Fmt) (fn : VpFn) (d b : Reg) : VWork :=
  match fn with
  | .rsum | .rmax | .rmin | .rand | .ror | .frsum | .frmax | .frmin =>
    match f with
    | none => w.setS d (w.getS b)
    | some f =>
      let (init, fi) := redIn fn f w.c ((w.getS b).toNat % 2 ^ f.width)
      (w.setS d (extendElem f init)).scalarFlag fi
  | .mpop => w.setS d 0
  | .mffs => w.setS d (BitVec.allOnes 64)
  | .ext => w.setS d 0
  | .slup | .sldn | .rgat | .cmpr | .expd | .xchg | .sort | .merge | .scan | .fscan | .mand | .mor | .mxor | .mnot
  | .mfirst | .bcast | .insrt => w

end Sys2Proof.Machine
end

