-- ==== Sys2Proof/Machine/VMem.lean ====
section
/-!
DEFINITION. Sys2Proof/Machine/VMem.lean: vector memory words: element addresses and checks, formats and block scales,
vld, vst and the linked pair (10_vector_memory.md R216 to R229; 04_numbers.md R104 to R106; 14_die.md R306).
-/

namespace Sys2Proof.Machine

open Sys2Proof

/-- Where an element lies: lane-private offset, scratchpad offset, or a translated address. -/
inductive VPlace
  | lane (o : Nat)
  | pad (o : Nat)
  | glob (t : Xlat)
deriving DecidableEq, Repr

/-- Steps 1 to 6 of R221 for an element of `ms` bytes. -/
def VWork.locate (w : VWork) (ea ms : Nat) (wr vlk : Bool) : Except Nat VPlace :=
  let last := (ea + ms - 1) % 2 ^ 64
  match windowOf ea with
  | .outside => .error 6
  | .lane =>
    if laneBase + 4096 < ea + ms then .error 6
    else if ea % ms ≠ 0 then .error 3
    else if vlk then .error 5 else .ok (.lane (ea - laneBase))
  | .padBeyond =>
    if windowOf last = .lane then .error 6 else if ea % ms ≠ 0 then .error 3 else .error 7
  | .pad =>
    if ea % ms ≠ 0 then .error 3
    else
      let o := ea - padBase
      if padSize < o + ms ∨ !(w.s.pad (clusterOf w.q)).sameRegion (o / 2048) ((o + ms - 1) / 2048) then .error 7
      else if vlk then .error 5 else .ok (.pad o)
  | .global =>
    if windowOf last ≠ .global then .error 6
    else if ea % ms ≠ 0 then .error 3
    else
      let x := w.s.seq w.q
      match w.s.translate (coreOf w.q) x.cur.asid x.cur.partition ea ms (if wr then .write else .read) with
      | .error c => .error c
      | .ok t =>
        if wr && aStore t.attr == 3 then .error 5
        else if vlk && (regionOf t.pa != .device || aOrd t.attr == 2) then .error 5
        else .ok (.glob t)

/-- The format attributes that govern an element (R219, R222): code, geometry, scale kind, scale_delta, and the base of
R105 in the address space of the element. -/
structure VFormat where
  fmt : Byte := 0xFF
  geom : Nat := 0
  skind : Bool := false
  delta : Nat := 0
  base : Nat := 0
deriving DecidableEq, Repr

/-- The attributes of a place; vlk words and coded pages move raw bytes (R222). -/
def VWork.formatOf (w : VWork) (pl : VPlace) (vlk : Bool) : VFormat :=
  match pl with
  | .lane _ => {}
  | .pad o =>
    let p := w.s.pad (clusterOf w.q)
    match p.regionOfLine (o / 2048) with
    | none => {}
    | some k =>
      let r := p.regionWord k
      { fmt := r.extractLsb' 23 8, geom := fld r 31 2, skind := r.getLsbD 33, delta := fld r 34 5, base := fld r 0 11 * 2048 }
  | .glob t =>
    if vlk || aStore t.attr == 2 then {}
    else { fmt := aFmt t.attr, geom := aGeom t.attr, skind := aSkind t.attr, delta := aDelta t.attr, base := t.base }

/-- Memory element size of a format: that of the element width for raw and for a reserved code (R219). -/
def VWork.msOf (w : VWork) (f : VFormat) : Nat :=
  match Fmt.ofCode f.fmt with
  | some g => g.bytes
  | none => w.ew / 8

/-- Step 7 of R221, but for the companion: the format is known, its size is the unit's, a scale is allowed. -/
def VWork.formatOk (w : VWork) (f : VFormat) (ms : Nat) : Bool :=
  (f.fmt == 0xFF || (Fmt.ofCode f.fmt).isSome) && w.msOf f == ms
    && (f.geom == 0
      || ((match Fmt.ofCode f.fmt with | some (.int _ lg) => lg == 3 | some (.b8 _ _ _) => true | _ => false)
          && (match Fmt.ofCode (vtFmt w.vt) with | some g => !g.isInt | none => false) && decide (12 ≤ f.delta)))

/-- Elements of a block (R104). -/
def blockSize (geom : Nat) : Nat := 8 * 2 ^ geom

/-- The outcome of reading something for an element: a value, a fault with TVAL, or a wait in a state. -/
inductive Got (α : Type)
  | ok (v : α)
  | bad (cause : Nat) (tval : Word)
  | wait (s : State)

/-- The value of a scale code (R104). -/
def scaleVal (skind : Bool) (n : Nat) : FpVal :=
  if skind then decodeIeee .h n else if n = 255 then .nan false else .fin false 1 ((n : Int) - 127)

/-- Asks for what a read of [pa, pa + n) needs: a request to a window, or a fill that is made when the unit waits. -/
def VWork.ask (w : VWork) (pa n attr : Nat) (comp : Bool) : State :=
  let s := w.before
  if isRemote pa then s.request (.seq w.q) pa n false attr []
  else { s with requests := s.requests ++ [fillMark w.q pa n comp] }

/-- Asks for the table words that translate an address, where they must first be filled; none where they need not be (R322, R333). -/
def VWork.askTables (w : VWork) (ea : Nat) : Option State :=
  let s := w.before
  if s.tablesWait w.q ea then
    some { s with requests := s.requests ++ (s.walkAt (coreOf w.q) (s.seq w.q).cur.asid ea).map fun a => fillMark w.q a 8 false }
  else none

/-- Reads the block scale of an element at `a`, an address in the space of its mapping (R105). -/
def VWork.scale (w : VWork) (pl : VPlace) (f : VFormat) (ea ms : Nat) : Got (Option FpVal) :=
  if f.geom = 0 then .ok none
  else
    let n := if f.skind then 2 else 1
    let a := match pl with | .pad o => o | .lane o => o | .glob _ => ea
    let at_ := f.base + 2 ^ f.delta + (a - f.base) / ms / blockSize f.geom * n
    match pl with
    | .lane _ => .ok none
    | .pad _ =>
      let p := w.before.pad (clusterOf w.q)
      let here : Word := BitVec.ofNat 64 (padBase + at_)
      if padSize < at_ + n then .bad 7 (BitVec.ofNat 64 ea)
      else if (match p.regionOfLine (at_ / 2048) with | none => false | some k => fld (p.regionWord k) 23 8 != 255) then .bad 12 here
      else if w.before.padReadWaits w.q then .wait w.before
      else if (p.bad 0 0 at_ n).isSome then .bad 19 (BitVec.ofNat 64 ea)
      else .ok (some (scaleVal f.skind (ofBytes (p.read 0 0 at_ n))))
    | .glob _ =>
      let here : Word := BitVec.ofNat 64 at_
      let x := w.s.seq w.q
      if windowOf at_ ≠ .global then .bad 5 here
      else
        match w.askTables at_ with
        | some s => .wait s
        | none =>
        match w.s.translate (coreOf w.q) x.cur.asid x.cur.partition at_ n .read with
        | .error c => .bad c here
        | .ok t =>
          if aFmt t.attr ≠ 0xFF then .bad 12 here
          else if w.before.loadWaits w.q (aOrd t.attr == 1) false then .wait w.before
          else
            match w.before.readAny (.seq w.q) w.q t.pa n (aStore t.attr == 1) with
            | .ok b => .ok (some (scaleVal f.skind (ofBytes b)))
            | .bad c tv => .bad c (tv.getD (BitVec.ofNat 64 ea))
            | .need => .wait (w.ask t.pa n (aOrd t.attr) (aStore t.attr == 1))
            | .pend => .wait w.before

/-! ### Conversions in and out (R106, R222) -/

/-- A number rounded into a format, exact bits with more to follow when sticky (R98, R102, R103). -/
def convertEx (f : Fmt) (c : FCtl) (sat neg : Bool) (m : Nat) (e : Int) (sticky : Bool) : Nat × FFlags :=
  if !sticky then f.convert c sat (.fin neg m e)
  else
    match f with
    | .int s lg =>
      let (n, _) := roundInt c.mode neg m e true
      let x : Int := if neg then -(n : Int) else (n : Int)
      let w := 2 ^ lg
      if x < intMin s w then (wrapInt w (intMin s w), fNX ||| fSAT)
      else if intMax s w < x then (wrapInt w (intMax s w), fNX ||| fSAT)
      else (wrapInt w x, fNX)
    | .b8 true infs p =>
      if neg then roundUnsignedNeg f p infs sat c.mode m e true else roundFin f c.mode c.flushOut sat false m e true
    | _ => roundFin f c.mode c.flushOut sat neg m e true

/-- A NaN in a format: 0 with NV in an integer one (R101, R102). -/
def nanIn (f : Fmt) : Nat × FFlags := if f.isInt then (0, fNV) else (f.nanBits, 0)

/-- A loaded element: from the mapping's format to efmt; a block scale is the value of R104 and is not flushed (R106; log 19). -/
def loadElem (f : VFormat) (vf : Fmt) (vcode : Byte) (c : FCtl) (sc : Option FpVal) (bits : Nat) : Nat × FFlags :=
  match Fmt.ofCode f.fmt, sc with
  | none, _ => (bits, 0)
  | some fs, none => if f.fmt = vcode then (bits, 0) else convertElem fs vf c false bits
  | some fs, some s =>
    let v := fs.decode bits
    if v.isNan || s.isNan then (vf.nanBits, sigNV s)
    else
      match mulEx v s with
      | .nan g => (vf.nanBits, g)
      | .inf neg _ => vf.convert c c.sat (.inf neg)
      | .val neg m e _ => vf.convert c c.sat (.fin neg m e)

/-- A stored element: from efmt to the mapping's format. -/
def storeElem (f : VFormat) (vf : Fmt) (vcode : Byte) (c : FCtl) (sc : Option FpVal) (bits : Nat) : Nat × FFlags :=
  match Fmt.ofCode f.fmt, sc with
  | none, _ => (bits, 0)
  | some fd, none => if f.fmt = vcode then (bits, 0) else convertElem vf fd c false bits
  | some fd, some s =>
    let x0 := vf.decode bits
    let (x, fl) := flushVal vf c x0
    let isZero (v : FpVal) : Bool := match v with | .fin _ m _ => m == 0 | .nan _ => false | .inf _ => false
    let isInf (v : FpVal) : Bool := match v with | .inf _ => true | .nan _ => false | .fin _ _ _ => false
    let neg := x.isNeg != s.isNeg
    if x0.isNan || s.isNan then let (r, g) := nanIn fd; (r, fl ||| g ||| sigNV x0 ||| sigNV s)
    else if (isZero x && isZero s) || (isInf x && isInf s) then let (r, g) := nanIn fd; (r, fl ||| g ||| fNV)
    else if isZero s then let (r, g) := fd.convert c c.sat (.inf neg); (r, fl ||| g ||| fDZ)
    else if isInf s then let (r, g) := fd.convert c c.sat (.fin neg 0 0); (r, fl ||| g)
    else
      match divEx x s with
      | .nan g => let (r, h) := nanIn fd; (r, fl ||| g ||| h)
      | .inf n _ => let (r, g) := fd.convert c c.sat (.inf n); (r, fl ||| g)
      | .val n m e st => let (r, g) := convertEx fd c c.sat n m e st; (r, fl ||| g)

/-! ### Addresses -/

/-- Address of field `f` of a position (R220). -/
def VWork.eaOf (w : VWork) (o : VMem) (ms : Nat) (p : Pos) (f : Nat) : Nat :=
  let x := w.s.seq w.q
  let base := (x.getA o.a).toNat
  let i := w.idx p
  let fs := o.nf.toNat + 1
  match o.mode with
  | .unit => (base + (i * fs + f) * ms) % 2 ^ 64
  | .stride => (base + i * (x.getA o.x).toNat + f * ms) % 2 ^ 64
  | .index => (base + w.src o.x w.ew p) % 2 ^ 64
  | .ff => (base + i * ms) % 2 ^ 64

/-- The memory element size of a word (R219). In mode 10 the lowest active element is that of the elements the unit does, those
skipped on a resumption left out, and it is EW / 8 when that element has no usable mapping (log 111). -/
def VWork.unitMs (w : VWork) (o : VMem) (wr vlk : Bool) : Nat :=
  if vlk then w.ew / 8
  else
    let at_ : Option Nat := match o.mode with
      | .index => (w.body.find? fun p => w.active o.m p).map fun p => w.eaOf o 1 p 0
      | _ => some ((w.s.seq w.q).getA o.a).toNat
    match at_ with
    | none => w.ew / 8
    | some a =>
      match w.locate a 1 wr false with
      | .error _ => w.ew / 8
      | .ok pl => w.msOf (w.formatOf pl false)

/-- An element's place, format and scale after every check of R221 and the watch, but for the data's poison. -/
structure VTarget where
  place : VPlace
  fmt : VFormat
  sc : Option FpVal

/-- The checks of R221, steps 1 to 7, and the watch (R224, R312), for one element. R221 does not place the watch: it comes after step 7
and before the data's poison of step 8 (DESIGN CHOICE, log 119). -/
def VWork.target (w : VWork) (ea ms : Nat) (wr vlk : Bool) : Got VTarget :=
  let here : Word := BitVec.ofNat 64 ea
  match w.askTables ea with
  | some s => .wait s
  | none =>
  match w.locate ea ms wr vlk with
  | .error c => .bad c here
  | .ok pl =>
    let f := w.formatOf pl vlk
    if !w.formatOk f ms then .bad 12 here
    else
      match w.scale pl f ea ms with
      | .bad c tv => .bad c tv
      | .wait s => .wait s
      | .ok sc => if (w.s.seq w.q).watches wr ea ms then .bad 17 here else .ok ⟨pl, f, sc⟩

/-- Lane of a position among the core's 32. -/
def VWork.laneOf (w : VWork) (p : Pos) : Nat := 8 * p.g + elemLane w.ew p.j

/-- The bytes of a lane-private run. -/
def Core.laneRead (k : Core) (ln o n : Nat) : List Byte := readBytes k.sram (ln * 4096 + o) n

/-- Whether an element is performed in order: one of a .eo word, or on an SO page (R227). -/
def orderedAt (o : VMem) : VPlace → Bool
  | .glob t => o.ord == .elem || aOrd t.attr == 1
  | .lane _ => false
  | .pad _ => o.ord == .elem

/-- Number of an element's field among the reads of a unit. -/
def VWork.elemKey (w : VWork) (p : Pos) (f : Nat) : Nat := 1 + f + 8 * (w.idx p + 4096 * w.word)

/-- The read of an ordered element that the unit has sent, or has performed while a later element waits (R227). -/
def VWork.kept (w : VWork) (p : Pos) (f : Nat) : Option Req :=
  w.s.requests.find? fun r => r.owner == .seq w.q && !r.write && r.va == w.elemKey p f

/-- Whether a stride access may travel by packets: nf = 0, a stride of at least 128 bytes, no order between its elements (R323). -/
def VWork.packetWord (w : VWork) (o : VMem) : Bool :=
  o.mode == .stride && o.nf == 0 && o.ord != .elem && decide (128 ≤ ((w.s.seq w.q).getA o.x).toInt.natAbs)

/-- Where the active elements of a word lie in RC and UO pages of device memory: their translations, in element order. -/
def VWork.packetPlaces (w : VWork) (o : VMem) (ms : Nat) (wr : Bool) : List Xlat :=
  (w.body.filter fun p => w.active o.m p).filterMap fun p =>
    match w.locate (w.eaOf o ms p 0) ms wr false with
    | .ok (.glob t) => if regionOf t.pa = .device ∧ aOrd t.attr ≠ 1 then some t else none
    | _ => none

/-- The elements of a word that packets carry: those of each page, or run of a range entry, with at least 8 active elements
(R323). -/
def VWork.packetElems (w : VWork) (o : VMem) (ms : Nat) (wr : Bool) : List Xlat :=
  if w.packetWord o then
    let l := w.packetPlaces o ms wr
    l.filter fun t => decide (8 ≤ (l.filter fun u => u.base == t.base).length)
  else []

/-- Whether a packet's read of [pa, pa + n) returns poison: a sector is bad, or on a compressed page sector 0, which yields the form,
cannot be read (R325, R329). -/
def State.packetBad (s : State) (d pa n : Nat) (comp : Bool) : Bool :=
  (s.badSector d pa n).isSome || (comp && !s.inCache (pa / 32) && s.readFails (pa / 128 * 4))

/-- Reads an element's bytes as they stand at the unit's issue (R221, step 8; R226, R343). An element that a packet carries is read
by its base die (R323, R325). A poisoned word of lane-private SRAM gives what R133 says of a load's fault, cause 9 with the element's
address, where R181 names cause 19 and TVAL 0 (DESIGN CHOICE, log 120). -/
def VWork.fetchNow (w : VWork) (o : VMem) (pl : VPlace) (p : Pos) (f ea ms : Nat) : Got Nat :=
  let here : Word := BitVec.ofNat 64 ea
  let s := w.before
  match pl with
  | .lane o =>
    let k := w.orig.core (coreOf w.q)
    let a := w.laneOf p * 4096 + o
    if (firstBit k.sramPois (a / 4) ((a + ms - 1) / 4 + 1 - a / 4)).isSome then .bad 19 here
    else .ok (ofBytes (k.laneRead (w.laneOf p) o ms))
  | .pad o =>
    let pd := s.pad (clusterOf w.q)
    if s.padReadWaits w.q then .wait s
    else if (pd.bad 0 0 o ms).isSome then .bad 19 here else .ok (ofBytes (pd.read 0 0 o ms))
  | .glob t =>
    let attr := aOrd t.attr + (if o.ord == .sync then 4 else 0)
    if s.loadWaits w.q (aOrd t.attr == 1) false then .wait s
    else if orderedAt o pl && isRemote t.pa then
      if s.ownOpen w.q t.pa ms then .wait s else .wait (s.request (.seq w.q) t.pa ms false attr [] (w.elemKey p f))
    else
      let comp := aStore t.attr == 1
      if s.needsFill t.pa ms comp && (w.packetElems o ms false).contains t then
        if s.rowHeld t.pa then .wait s
        else if s.packetBad (dieOf w.q) t.pa ms comp then .bad 19 here
        else .ok (ofBytes (s.readGlob w.q t.pa ms))
      else
        match s.readAny (.seq w.q) w.q t.pa ms comp with
        | .ok b => .ok (ofBytes b)
        | .bad c tv => .bad c (tv.getD here)
        | .need => .wait (w.ask t.pa ms attr comp)
        | .pend => .wait s

/-- Reads an element's bytes: an ordered element waits while an earlier one does, and is read once (R227, R345). -/
def VWork.fetchElem (w : VWork) (o : VMem) (pl : VPlace) (p : Pos) (f ea ms : Nat) : Got Nat :=
  if !orderedAt o pl then w.fetchNow o pl p f ea ms
  else
    match w.kept p f with
    | none => if w.wait then .wait w.before else w.fetchNow o pl p f ea ms
    | some r =>
      match r.result r.pa ms with
      | .ok b => .ok (ofBytes b)
      | .bad c tv => .bad c (tv.getD (BitVec.ofNat 64 ea))
      | .need => .wait w.before
      | .pend => .wait w.before

/-- A field as read: where it lies, how it is held there, and its bits. -/
structure VRaw where
  t : VTarget
  bits : Nat

/-- Reads field `f` of a position. Of a lost peer a load reports the address that faulted (R126, R133). -/
def VWork.readField (w : VWork) (o : VMem) (ms : Nat) (vlk : Bool) (p : Pos) (f : Nat) : Got VRaw :=
  let ea := w.eaOf o ms p f
  let fail (c : Nat) (tv : Word) : Got VRaw := .bad c (if c = 20 then BitVec.ofNat 64 ea else tv)
  match w.target ea ms false vlk with
  | .bad c tv => fail c tv
  | .wait s => .wait s
  | .ok t =>
    match w.fetchElem o t.place p f ea ms with
    | .bad c tv => fail c tv
    | .wait s => .wait s
    | .ok v => .ok ⟨t, v⟩

/-- Reads the fields `f` up of a position; the first that fails decides. -/
def VWork.readFields (w : VWork) (o : VMem) (ms : Nat) (vlk : Bool) (p : Pos) : Nat → Nat → Got (List VRaw)
  | _, 0 => .ok []
  | f, n + 1 =>
    match w.readField o ms vlk p f with
    | .bad c tv => .bad c tv
    | .wait s => .wait s
    | .ok v =>
      match VWork.readFields w o ms vlk p (f + 1) n with
      | .bad c tv => .bad c tv
      | .wait s => .wait s
      | .ok vs => .ok (v :: vs)

/-- A field as efmt holds it, with its flags (R106, R222). -/
def VWork.loaded (w : VWork) (r : VRaw) : Nat × FFlags :=
  match Fmt.ofCode (vtFmt w.vt) with
  | none => (r.bits, 0)
  | some vf => loadElem r.t.fmt vf (vtFmt w.vt) w.c r.t.sc r.bits

/-- Keeps the reads of an ordered element until the unit ends: the element has been performed (R227). -/
def VWork.keepReads (w : VWork) (o : VMem) (ms : Nat) (p : Pos) (l : List VRaw) : VWork :=
  (l.zip (List.range l.length)).foldl (fun (w : VWork) e =>
    if !orderedAt o e.1.t.place || (w.kept p e.2).isSome then w
    else
      let r : Req :=
        { owner := .seq w.q, port := 255, tag := 0, pa := 0, len := ms, write := false, va := w.elemKey p e.2
          answer := some (.data (toBytes ms e.1.bits)) }
      { w with s := { w.s with requests := w.s.requests ++ [r] } }) w

/-- The fault of a load's element: through the queue as cause 9, but for causes 12 and 17 (R133, R185, R224, log 35). -/
def VWork.loadFault (w : VWork) (p : Pos) (c : Nat) (tv : Word) : VFault :=
  if c = 12 ∨ c = 17 then { p := p, word := w.word, cause := c, tval := tv, aside := true, eapc := some w.u }
  else { p := p, word := w.word, cause := 9, sub := c, tval := tv, eapc := some (w.u + BitVec.ofNat 64 (4 * w.word)) }

/-- Stride class of a sampled record (R233). -/
def VWork.sclass (w : VWork) (o : VMem) (ms : Nat) : Nat :=
  match o.mode with
  | .index => 5
  | .unit => 0
  | .ff => 0
  | .stride =>
    let st := ((w.s.seq w.q).getA o.x).toInt
    if st = (ms * (o.nf.toNat + 1) : Nat) then 0 else if st = 0 then 1 else if st < 0 then 4 else if st < 128 then 2 else 3

/-- Adds to a list what it does not hold. -/
def addNew (l : List Nat) (x : Nat) : List Nat := if l.contains x then l else l ++ [x]

/-- The note of a memory word: what its elements touch (R233). Lines are counted by generic address, and what a block scale reads is not
counted (DESIGN CHOICE, log 121). -/
def VWork.note (w : VWork) (o : VMem) (ms kind : Nat) (wr vlk : Bool) : MemNote :=
  let n0 : MemNote :=
    { word := w.word, kind := kind, mode := (match o.mode with | .unit => 0 | .stride => 1 | .index => 2 | .ff => 3)
      sclass := w.sclass o ms }
  w.body.foldl (fun n p =>
    if w.active o.m p then
      (List.range (o.nf.toNat + 1)).foldl (fun (n : MemNote) f =>
        let ea := w.eaOf o ms p f
        match w.locate ea ms wr vlk with
        | .error _ => n
        | .ok pl =>
          let n := { n with lines := addNew n.lines (ea / 128) }
          match pl with
          | .lane _ => { n with lane := true }
          | .pad _ => { n with pad := true }
          | .glob t => { n with pages := addNew n.pages t.base, comp := n.comp || aStore t.attr == 1 }) { n with active := n.active + 1 }
    else n) n0

/-- Adds a note when the sequencer samples. -/
def VWork.sample (w : VWork) (o : VMem) (ms kind : Nat) (wr vlk : Bool) : VWork :=
  if (w.s.seq w.q).csr.sampctl.getLsbD 0 then { w with notes := w.notes ++ [w.note o ms kind wr vlk] } else w

/-! ### vld -/

/-- The pad accesses of a memory word meet their banks (R265). -/
def VWork.meetPad (w : VWork) (o : VMem) (ms : Nat) : VWork :=
  { w with s := w.s.modSeq w.q fun x => w.body.foldl (fun (x : Seq) p =>
      if w.active o.m p then
        (List.range (o.nf.toNat + 1)).foldl (fun (x : Seq) f =>
          let ea := w.eaOf o ms p f
          if windowOf ea = .pad then x.meetBanks (ea - padBase) ms else x) x
      else x) x }

/-- Whether the offset of an element is poisoned (R181). -/
def VWork.offBad (w : VWork) (o : VMem) (p : Pos) : Bool := o.mode == .index && w.srcBad o.x w.ew p

/-- A word of segments never names the chain slot (R217). -/
def VWork.noSlot (w : VWork) (o : VMem) : VWork := if o.nf = 0 then w else { w with linked := false, vzIn := false }

/-- Where a first-fault load ends: the first active position that fails, and with what; none when it must wait. -/
def VWork.firstFail (o : VMem) (ms : Nat) : VWork → List Pos → Got (Option (Pos × Nat))
  | _, [] => .ok none
  | w, p :: rest =>
    if w.active o.m p then
      match w.readFields o ms false p 0 1 with
      | .bad c _ => .ok (some (p, c))
      | .wait s => .wait s
      | .ok rs => VWork.firstFail o ms (w.keepReads o ms p rs) rest
    else VWork.firstFail o ms w rest

/-- VL reduced by a first-fault load, for this unit and every later one (R224). -/
def VWork.lowerVl (w : VWork) (n : Nat) : VWork :=
  { w with vl := n, s := w.s.modSeq w.q fun x => { x with csr := { x.csr with vl := n } } }

/-- Whether an active element lies below a global index. -/
def VWork.activeBelow (w : VWork) (m : MReg) (i : Nat) : Bool := (List.range i).any fun k => w.active m (w.posOf k)

/-- The elements of a load, each field into its own register group (R220 to R222). -/
def VWork.loadAll (w : VWork) (o : VMem) (ms : Nat) (vlk : Bool) : VWork :=
  let w := w.noSlot o
  let fs := o.nf.toNat + 1
  let reg (f : Nat) : Reg := BitVec.ofNat 5 (o.d.toNat + f * w.lm)
  let w1 := w.body.foldl (fun t p =>
    if w.active o.m p then
      if w.offBad o p then t.poison p
      else
      match ({ w with s := t.s, wait := t.wait } : VWork).readFields o ms vlk p 0 fs with
      | .wait s => { t with s := s, wait := true }
      | .bad c tv => t.fault (w.loadFault p c tv)
      | .ok rs =>
        let t := t.keepReads o ms p rs
        let vs := rs.map w.loaded
        ((vs.zip (List.range fs)).foldl (fun t e => t.put (reg e.2) w.ew p e.1.1) t).flag w.ew p (vs.foldl (fun f e => f ||| e.2) 0)
    else (List.range fs).foldl (fun t f => t.rest (vtInactZero w.vt) (reg f) w.ew p) t) w
  w.tail.foldl (fun t p => (List.range fs).foldl (fun t f => t.rest (vtTailZero w.vt) (reg f) w.ew p) t) w1

/-- The elements of a vld, the VL of a first-fault load settled. -/
def VWork.loadRest (w : VWork) (o : VMem) (ms : Nat) : VWork :=
  let w1 := ((w.sample o ms 0 false false).meetPad o ms).loadAll o ms false
  let es := w.packetElems o ms false
  let part (c : Bool) : List Nat := (es.filter fun t => (aStore t.attr == 1) == c).map Xlat.pa
  { w1 with s := (w1.s.packetRead (part false) false).packetRead (part true) true }

/-- `vld` (R220 to R224). A first-fault load settles VL once for its unit; a lost peer, cause 20, is none of its checks. VL stays lowered
where a later word of the unit traps at an element below it (DESIGN CHOICE, log 122). -/
def VWork.runLoad (w : VWork) (o : VMem) : VWork :=
  let ms := w.unitMs o false false
  if o.mode = .ff then
    match w.ffVl with
    | some n => (if n < w.vl then w.lowerVl n else w).loadRest o ms
    | none =>
      match w.firstFail o ms w.body with
      | .wait s => { w with s := s, wait := true }
      | .bad _ _ => w
      | .ok none => ({ w with ffVl := some w.vl } : VWork).loadRest o ms
      | .ok (some (p, c)) =>
        if c = 12 ∨ c = 17 ∨ c = 20 ∨ !w.activeBelow o.m (w.idx p) then ({ w with ffVl := some w.vl } : VWork).loadRest o ms
        else (({ w with ffVl := some (w.idx p) } : VWork).lowerVl (w.idx p)).loadRest o ms
  else w.loadRest o ms

/-! ### vst -/

/-- One field of one element to be stored. -/
structure SPart where
  p : Pos
  i : Nat
  place : VPlace
  bytes : List Byte
  flags : FFlags := 0
  /-- A packet carries it (R323). -/
  packet : Bool := false

/-- Prepares a field's store: its checks, then the bits in the mapping's format (R221, R222). -/
def VWork.storeField (w : VWork) (o : VMem) (ms : Nat) (vlk : Bool) (p : Pos) (f : Nat) : Got SPart :=
  let ea := w.eaOf o ms p f
  match w.target ea ms true vlk with
  | .bad c tv => .bad c tv
  | .wait s => .wait s
  | .ok t =>
    let r : Reg := BitVec.ofNat 5 (o.d.toNat + f * w.lm)
    let x := w.src r w.ew p
    let (v, fl) := match Fmt.ofCode (vtFmt w.vt) with
      | none => (x, 0)
      | some vf => storeElem t.fmt vf (vtFmt w.vt) w.c t.sc x
    .ok { p := p, i := w.idx p, place := t.place, bytes := toBytes ms v, flags := fl }

/-- Prepares fields `f` up of a position. -/
def VWork.storeFields (w : VWork) (o : VMem) (ms : Nat) (vlk : Bool) (p : Pos) : Nat → Nat → Got (List SPart)
  | _, 0 => .ok []
  | f, n + 1 =>
    match w.storeField o ms vlk p f with
    | .bad c tv => .bad c tv
    | .wait s => .wait s
    | .ok v =>
      match VWork.storeFields w o ms vlk p (f + 1) n with
      | .bad c tv => .bad c tv
      | .wait s => .wait s
      | .ok vs => .ok (v :: vs)

/-- Whether one log record may hold two neighbouring parts: one page or region, one home die, and elements that follow
each other; of a segment with a stride the fields of one element; of elements performed in order each has its own (R227, R305, R306,
log 86). -/
def SPart.joins (pd : Pad) (o : VMem) (a b : SPart) : Bool :=
  let index := o.mode == .index
  (index || decide (b.i ≤ a.i + 1)) && !(o.mode == .stride && o.nf != 0 && a.i != b.i) && !(orderedAt o a.place || orderedAt o b.place) &&
  match a.place, b.place with
  | .lane _, .lane _ => true
  | .pad x, .pad y => pd.sameRegion (Nat.min x y / 2048) (Nat.max x y / 2048)
  | .glob s, .glob t =>
    homeDie s.pa == homeDie t.pa && escapeOf s.attr s.pa == escapeOf t.attr t.pa && aOrd s.attr == aOrd t.attr
      && (index || s.base == t.base) && a.packet == b.packet
  | _, _ => false

/-- Cuts parts into runs. -/
def cutRuns (j : SPart → SPart → Bool) : List SPart → List (List SPart)
  | [] => []
  | p :: rest =>
    match cutRuns j rest with
    | [] => [[p]]
    | [] :: rs => [p] :: rs
    | (q :: r) :: rs => if j p q then (p :: q :: r) :: rs else [p] :: (q :: r) :: rs

/-- Physical writes of a run. -/
def runParts (r : List SPart) : List (Nat × List Byte) :=
  r.filterMap fun a => match a.place with | .glob t => some (t.pa, a.bytes) | .lane _ => none | .pad _ => none

/-- Generic addresses of those writes. -/
def runVas (r : List SPart) : List Nat :=
  r.filterMap fun a => match a.place with | .glob t => some t.va | .lane _ => none | .pad _ => none

/-- Bytes of a run. -/
def runBytes (r : List SPart) : Nat := (r.map fun a => a.bytes.length).sum

/-- Writes lane-private bytes; the poison of a 32-bit word written whole goes. -/
def Core.laneWrite (k : Core) (a : Nat) (bytes : List Byte) : Core :=
  { k with
    sram := writeBytes k.sram a bytes
    sramPois := match k.sramPois with
      | [] => []
      | m => setBits m ((a + 3) / 4) false ((a + bytes.length) / 4 - (a + 3) / 4) }

/-- A store of the unit under way, with the elements of a run (R343). -/
def VWork.unitStore (w : VWork) (o : VMem) (r : List SPart) : PStore :=
  let u := (w.orig.seq w.q).csr.units.toNat + 1
  { parts := [], ord := 0, inOrder := o.ord == .elem, unit := u, word := w.word, elems := r.map SPart.i
    second := (w.s.seq w.q).stores.any fun e => e.unit == u && e.word != w.word }

/-- Puts a run of a vst where it goes: lane-private SRAM at once, the scratchpad at once unless it must follow earlier stores,
memory into the store buffer, with the log record the run needs (R226, R268, R306, R307, R343). None when a ring cannot take it. -/
def VWork.storeRun (w : VWork) (o : VMem) (r : List SPart) : Option VWork :=
  match r with
  | [] => some w
  | h :: _ =>
    let x := w.s.seq w.q
    let p := x.cur.partition
    let n := x.cur.seq
    let index := o.mode == .index
    let ms := h.bytes.length
    let stride := match o.mode with | .stride => if o.nf = 0 then (x.getA o.x).toNat else ms | .unit => ms | .ff => ms | .index => 0
    let kind := if index then 4 else 3
    let extra := runExtra r.length (Nat.log2 ms) stride
    let size := kindSize kind extra (runBytes r)
    let rec0 : LogRec :=
      { kind := kind, space := 0, writer := w.q, window := x.csr.winno.toNat, addr := 0, extra := extra, size := size }
    match h.place with
    | .lane _ =>
      let locs := (r.map fun a => match a.place with
        | .lane o => locsFrom (laneLoc (coreOf w.q) (w.laneOf a.p) o) a.bytes.length
        | .pad _ => [] | .glob _ => []).flatten
      let old := locs.map fun a => FMap.get 0 w.k.sram (a % 131072)
      let s? := if x.logs then
          w.s.appendRec p n (dieOf w.q) { rec0 with space := 2, addr := locs.headD 0, locs := locs, old := old, range := x.cur.start }
        else some w.s
      s?.map fun s =>
        { w with
          s := s
          k := r.foldl (fun k a => match a.place with
            | .lane o => k.laneWrite (w.laneOf a.p * 4096 + o) a.bytes
            | .pad _ => k | .glob _ => k) w.k }
    | .pad _ =>
      let c := clusterOf w.q
      let offs := (r.map fun a => match a.place with
        | .pad o => locsFrom o a.bytes.length | .lane _ => [] | .glob _ => []).flatten
      if !w.mul && w.orig.padNow w.q && x.stores.length == (w.orig.seq w.q).stores.length then
        (w.s.logPad p n x.cur.log x.csr.winno.toNat w.q c kind extra offs).map fun s =>
          { w with s := r.foldl (fun s a => match a.place with
            | .pad o => s.modPad c fun d => d.write 0 0 o a.bytes
            | .lane _ => s | .glob _ => s) s }
      else
        let parts := r.filterMap fun a => match a.place with | .pad o => some (o, a.bytes) | .lane _ => none | .glob _ => none
        (w.s.bufferPad w.q kind extra { w.unitStore o r with parts := parts }).map fun s => { w with s := s }
    | .glob t =>
      let esc := escapeOf t.attr t.pa
      let d := homeDie t.pa
      let peer := match regionOf t.pa with | .peer _ => true | _ => false
      let mk (r : List SPart) (e : Option LogRec) : PStore :=
        { w.unitStore o r with
          parts := runParts r, vas := runVas r, ord := aOrd t.attr, release := o.ord == .sync && peer
          inOrder := o.ord == .elem || aOrd t.attr == 1, entry := e, comp := aStore t.attr == 1
          packet := h.packet }
      let push (s : State) (l : List PStore) : State := s.modSeq w.q fun y => { y with stores := y.stores ++ l }
      if !x.logs then some { w with s := push w.s (r.map fun a => mk [a] none) }
      else if esc ≠ 0 then
        (w.s.escape w.q d esc t.pa (runBytes r)).map fun s => { w with s := push s (r.map fun a => mk [a] none) }
      else
        (w.s.reserve p n d size).map fun s => { w with s := push s [mk r (some { rec0 with addr := t.pa })] }

/-- Puts runs one after another; one that a ring cannot take faults at its first element (R308). -/
def VWork.storeRuns (w : VWork) (o : VMem) : List (List SPart) → VWork
  | [] => w
  | r :: rest =>
    match w.storeRun o r with
    | some w => VWork.storeRuns w o rest
    | none =>
      match r with
      | [] => VWork.storeRuns w o rest
      | h :: _ =>
        VWork.storeRuns (w.fault
          { p := h.p, word := w.word, cause := 13, tval := (w.s.seq w.q).csr.winno.zeroExtend 64 }) o rest

/-- `vst` (R220 to R227). -/
def VWork.runStore (w : VWork) (o : VMem) : VWork :=
  let ms := w.unitMs o true false
  let w := ((w.sample o ms 1 true false).meetPad o ms).noSlot o
  let fs := o.nf.toNat + 1
  let reg (f : Nat) : Reg := BitVec.ofNat 5 (o.d.toNat + f * w.lm)
  let (w1, parts) := w.body.foldl (fun (t : VWork × List SPart) p =>
    if w.active o.m p then
      if w.offBad o p then (t.1.poison p, t.2)
      else
      match ({ w with s := t.1.s } : VWork).storeFields o ms false p 0 fs with
      | .wait s => ({ t.1 with s := s, wait := true }, t.2)
      | .bad c tv => (t.1.fault { p := p, word := w.word, cause := c, tval := tv, aside := true, eapc := some w.u }, t.2)
      | .ok l =>
        if (List.range fs).any fun f => w.srcBad (reg f) w.ew p then (t.1.poison p, t.2)
        else (t.1.flag w.ew p (l.foldl (fun f a => f ||| a.flags) 0), t.2 ++ l)
    else t) (w, [])
  let inPad := parts.any fun a => match a.place with | .pad _ => true | .lane _ => false | .glob _ => false
  let open_ := w1.s.storesOpen w.q
  if o.ord = .sync ∧ inPad ∧ w.orig.storesOpen w.q then { w1 with wait := true }
  else
    let w2 := if o.ord = .sync ∧ open_ then
        { w1 with s := w1.s.modSeq w.q fun y => { y with stores := y.stores ++ [fenceMark] } }
      else w1
    let carried := w.packetElems o ms true
    let parts := parts.map fun a => match a.place with | .glob t => { a with packet := carried.contains t } | .lane _ => a | .pad _ => a
    w2.storeRuns o (cutRuns (SPart.joins (w.s.pad (clusterOf w.q)) o) parts)

/-! ### The linked pair (R228, R229) -/

/-- The operands of a vlk word as those of an indexed access. -/
def vlkMem (d a x : Reg) (m : MReg) : VMem := { d := d, a := a, x := x, m := m, mode := .index, nf := 0, ord := .plain }

/-- Physical lines of the active elements, in ascending order of their lowest element. -/
def VWork.linkLines (w : VWork) (o : VMem) (wr : Bool) : List Nat :=
  w.body.foldl (fun l p =>
    if w.active o.m p then
      match w.locate (w.eaOf o (w.ew / 8) p 0) (w.ew / 8) wr true with
      | .ok (.glob t) => addNew l (t.pa / 128)
      | _ => l
    else l) []

/-- `vlk.gl` (R228). -/
def VWork.runLinkGet (w : VWork) (d a x : Reg) (m : MReg) : VWork :=
  let o := vlkMem d a x m
  let w := w.sample o (w.ew / 8) 2 false true
  let w1 := w.loadAll o (w.ew / 8) true
  let g := ((w.s.seq w.q).gen + 1) % 32
  let ls := w.linkLines o false
  let s := ls.foldl (fun s l => s.tagLine w.q g l) w1.s
  { w1 with s := s.modSeq w.q fun y => { y with gen := g, link := .vector ls g } }

/-- What a vlk.sc does about the stores of earlier words of its own unit: as a release it comes after them, so they are performed with
it (R178, R343, R344). Where the host holds a line of one, or its home cannot take it yet, the unit waits. -/
inductive OwnStores
  | ok (s : State)
  | wait (s : State)

/-- Performs the stores of a unit's earlier words, in order. Those to a window are sent and not awaited (DESIGN CHOICE, log 34). -/
def State.performOwn (q : Nat) : List PStore → State → OwnStores
  | [], s => .ok (s.modSeq q fun x => { x with stores := [] })
  | st :: rest, s =>
    match s.hostLine st with
    | some pa => .wait (s.sendBackInval pa)
    | none => if s.homeBusy st then .wait s else State.performOwn q rest (s.commitStore q st)

/-- The stores of the unit's earlier words are performed, or the unit waits on the line that one of them needs. -/
def VWork.performEarlier (w : VWork) : VWork :=
  match State.performOwn w.q (w.s.seq w.q).stores w.s with
  | .ok s => { w with s := s }
  | .wait s => { w with s := s, wait := true }

/-- Whether a line is in a sequencer's vector link set with its generation's tag (R229). -/
def VWork.lineHeld (w : VWork) (l : Nat) : Bool :=
  match (w.s.seq w.q).link with
  | .vector ls g => ls.contains l && w.s.tagHeld w.q g l
  | .none => false
  | .scalar _ _ => false

/-- `vlk.sc` (R229), after the stores of its unit's earlier words. All lines are tested in one step, of which the rule's order between
them leaves the choice (log 34); a later word of the unit that names m finds the bits cleared that the rule writes at retirement (DESIGN
CHOICE, log 123). -/
def VWork.runLinkPut (w : VWork) (d a x : Reg) (m : MReg) : VWork :=
  let o := vlkMem d a x m
  let ms := w.ew / 8
  if w.orig.storesOpen w.q then { w with wait := true }
  else
    let w := w.sample o ms 3 true true
    let (w1, parts) := w.body.foldl (fun (t : VWork × List SPart) p =>
      if w.active m p then
        if w.offBad o p then (t.1.poison p, t.2)
        else
        match ({ w with s := t.1.s } : VWork).storeFields o ms true p 0 1 with
        | .wait s => ({ t.1 with s := s, wait := true }, t.2)
        | .bad c tv => (t.1.fault { p := p, word := w.word, cause := c, tval := tv, aside := true, eapc := some w.u }, t.2)
        | .ok l => if w.srcBad d w.ew p then (t.1.poison p, t.2) else (t.1, t.2 ++ l)
      else t) (w, [])
    let xl (a : SPart) : Option Xlat := match a.place with | .glob t => some t | .lane _ => none | .pad _ => none
    let lineOf (a : SPart) : Nat := match xl a with | some t => t.pa / 128 | none => 0
    let lines := parts.foldl (fun l a => addNew l (lineOf a)) []
    let w1 := w1.performEarlier
    let held := lines.filter w1.lineHeld
    let w2 := lines.foldl (fun (t : VWork) l =>
      let mine := parts.filter fun a => lineOf a == l
      if held.contains l then
        match mine with
        | [] => t
        | h :: _ =>
          if t.s.isFrozen (128 * l) ∨ t.s.writeHeld (128 * l) then { t with wait := true }
          else if t.s.hostHolds (128 * l) then { t with s := t.s.sendBackInval (128 * l), wait := true }
          else
            match t.s.atomicStore w.q ((xl h).map Xlat.attr |>.getD 0) (runParts mine) with
            | some s => { t with s := s }
            | none => t.fault { p := h.p, word := w.word, cause := 13, tval := (w.s.seq w.q).csr.winno.zeroExtend 64 }
      else mine.foldl (fun t a => { t with k := t.k.setMask a.p.g m.toNat a.p.j false }) t) w1
    { w2 with s := w2.s.modSeq w.q fun y => { y with link := .none } }

end Sys2Proof.Machine
end

