-- ==== Sys2Proof/Machine/Matrix.lean ====
section
/-!
DEFINITION. Sys2Proof/Machine/Matrix.lean: the matrix unit: mode, descriptors, accumulator words, tile multiply, coded
tiles, the Larder, the skip gate and provenance (11_matrix.md R235 to R262; 04_numbers.md R109, R110).
-/

namespace Sys2Proof.Machine

open Sys2Proof

/-! ### Accumulators -/

/-- The accumulator that a field names. -/
def Core.acc (k : Core) (c : Bool) : FMap (BitVec 32) := if c then k.acc1 else k.acc0

/-- Replaces an accumulator. -/
def Core.setAcc (k : Core) (c : Bool) (m : FMap (BitVec 32)) : Core := if c then { k with acc1 := m } else { k with acc0 := m }

/-- The values of `n` consecutive keys from `i` on. -/
def denseFrom (i : Nat) : Nat → FMap (BitVec 32) → List Nat
  | 0, _ => []
  | n + 1, m =>
    match m with
    | [] => 0 :: denseFrom (i + 1) n []
    | (x, v) :: rest => if x = i then v.toNat :: denseFrom (i + 1) n rest else 0 :: denseFrom (i + 1) n ((x, v) :: rest)

/-- Cuts a list into `n` rows of 128. -/
def rowsOf : Nat → List Nat → List (List Nat)
  | 0, _ => []
  | n + 1, l => l.take 128 :: rowsOf n (l.drop 128)

/-- An accumulator as 128 rows of 128. -/
def accRows (m : FMap (BitVec 32)) : List (List Nat) := rowsOf 128 (denseFrom 0 16384 m)

/-- Rows as an accumulator: zeros are not listed. -/
def accOf (rows : List (List Nat)) : FMap (BitVec 32) :=
  let l := rows.flatten
  ((List.range l.length).zip l).filterMap fun e => if e.2 % 2 ^ 32 = 0 then none else some (e.1, BitVec.ofNat 32 e.2)

/-- Whether an accumulator holds a poisoned element that passes a test on row and column (R181). -/
def Core.accBad (k : Core) (c : Bool) (p : Nat → Nat → Bool) : Bool :=
  k.accPois.any fun e => e.1 / 16384 == (if c then 1 else 0) && p (e.1 / 128 % 128) (e.1 % 128)

/-- Takes the poison of elements of an accumulator that are overwritten. -/
def Core.accClear (k : Core) (c : Bool) (p : Nat → Nat → Bool) : Core :=
  { k with accPois := FMap.keep k.accPois fun e => !(e / 16384 == (if c then 1 else 0) && p (e / 128 % 128) (e % 128)) }

/-! ### Numeric provenance (R260, R261) -/

/-- NPV0 to NPV3. -/
structure Npv where
  n0 : Word := 0
  n1 : Word := 0
  n2 : Word := 0
  n3 : Word := 0
deriving DecidableEq, Repr

/-- The records of a sequencer. -/
def Csrs.npv (c : Csrs) : Npv := ⟨c.npv0, c.npv1, c.npv2, c.npv3⟩

/-- Writes the records of a sequencer. -/
def Csrs.setNpv (c : Csrs) (v : Npv) : Csrs := { c with npv0 := v.n0, npv1 := v.n1, npv2 := v.n2, npv3 := v.n3 }

/-- The record of an event (R260). -/
def npvWord (kind i j k : Nat) (fa fb : Byte) (op : Nat) : Word :=
  BitVec.ofNat 64 (1 + 2 * kind + 2 ^ 8 * i + 2 ^ 16 * j + 2 ^ 24 * (k % 65536) + 2 ^ 40 * fa.toNat + 2 ^ 48 * fb.toNat + 2 ^ 56 * op)

/-- Counts an event in NPV3, saturating. -/
def npvCount (w : Word) (n : Nat) : Word := if fld w (16 * n) 16 = 0xFFFF then w else w + BitVec.ofNat 64 (2 ^ (16 * n))

/-- Records an event of NPV`n`: the first stands, every one counts. -/
def Npv.event (v : Npv) (n : Nat) (r : Word) : Npv :=
  let v := { v with n3 := npvCount v.n3 n }
  match n with
  | 0 => if v.n0.getLsbD 0 then v else { v with n0 := r }
  | 1 => if v.n1.getLsbD 0 then v else { v with n1 := r }
  | _ => if v.n2.getLsbD 0 then v else { v with n2 := r }

/-! ### Rank-one updates (R109, R245) -/

/-- What a rank-one update adds: formats of A and B, their codes, the operation, sign, k, whether elements that held
NaN or infinity before count, and whether the accumulator is binary32. -/
structure Mac where
  flt : Bool
  fa : Fmt
  fb : Fmt
  ca : Byte
  cb : Byte
  op : Nat
  neg : Bool
  k : Nat
  first : Bool

/-- Whether a number is infinite. -/
def FpVal.isInf : FpVal → Bool
  | .inf _ => true
  | .nan _ => false
  | .fin _ _ _ => false

/-- acc ± a × b in binary32: one rounding, nearest even, subnormals kept (R109). -/
def Mac.float (c : Mac) (i j acc a b : Nat) (v : Npv) : Nat × Npv :=
  let f32 : Fmt := .ieee .f32
  let x := if c.neg then (c.fa.decode a).neg else c.fa.decode a
  let y := c.fb.decode b
  let z := f32.decode acc
  let (r, _) := (fmaEx .rne x y z).round f32 FCtl.rne
  let o := f32.decode r
  let w (kind : Nat) : Word := npvWord kind i j c.k c.ca c.cb c.op
  if o.isNan && (c.first || !z.isNan) then
    let prod := match mulEx x y with | .nan _ => true | .inf _ _ => false | .val _ _ _ _ => false
    (r, v.event 0 (w (if x.isNan || y.isNan then 0 else if prod || !z.isNan then 1 else 2)))
  else if o.isInf && (c.first || !z.isInf) then (r, v.event 1 (w (if x.isInf || y.isInf then 0 else if z.isInf then 2 else 1)))
  else (r, v)

/-- An integer element by its format's signedness. -/
def intElem (f : Fmt) (x : Nat) : Int := if f.signed then toSigned f.width x else ((x % 2 ^ f.width : Nat) : Int)

/-- acc ± a × b in s32, modulo 2^32 (R109, R260). -/
def Mac.int (c : Mac) (i j acc a b : Nat) (v : Npv) : Nat × Npv :=
  let p := intElem c.fa a * intElem c.fb b
  let r := toSigned 32 acc + (if c.neg then -p else p)
  (ofSigned 32 r, if r < -(2 ^ 31 : Int) ∨ (2 ^ 31 : Int) ≤ r then v.event 2 (npvWord 1 i j c.k c.ca c.cb c.op) else v)

/-- One element of a rank-one update. -/
def Mac.elem (c : Mac) (i j acc a b : Nat) (v : Npv) : Nat × Npv :=
  if c.flt then c.float i j acc a b v else c.int i j acc a b v

/-- A row: columns that B covers; the others keep their values. -/
def Mac.row (c : Mac) (i a : Nat) : Nat → List Nat → List Nat → Npv → List Nat × Npv
  | j, x :: xs, b :: bs, v =>
    let (r, v) := c.elem i j x a b v
    let (rs, v) := Mac.row c i a (j + 1) xs bs v
    (r :: rs, v)
  | _, xs, _, v => (xs, v)

/-- The rows that A covers; the others keep their values. -/
def Mac.rows (c : Mac) (bs : List Nat) : Nat → List (List Nat) → List Nat → Npv → List (List Nat) × Npv
  | i, r :: rs, a :: as, v =>
    let (r, v) := c.row i a 0 r bs v
    let (rs, v) := Mac.rows c bs (i + 1) rs as v
    (r :: rs, v)
  | _, rs, _, v => (rs, v)

/-- Whether a format pairs with the accumulator format as A or B (R240). -/
def abFormat (accFmt : Byte) (f : Fmt) : Bool :=
  if accFmt = 0x42 then
    (match f with | .int _ _ => false | .ieee k => k != .f64 | .b8 _ _ _ => true)
  else (match f with | .int _ lg => lg == 3 | .ieee _ => false | .b8 _ _ _ => false)

/-! ### Descriptors (R242, R243) -/

/-- A scratchpad operand: offset, format, pitches, rotation; of a coded B `bp` is the length. -/
structure Desc where
  off : Nat
  code : Byte
  f : Fmt
  pitch : Nat
  rot : Nat
  bp : Nat
  coded : Bool := false
deriving DecidableEq, Repr

/-- Reads a descriptor; none breaks a must-be-zero field or names a reserved code: cause 12. -/
def readDesc (w0 w1 : Word) (coded : Bool) : Option Desc :=
  match Fmt.ofCode (w0.extractLsb' 24 8) with
  | none => none
  | some f =>
    let p := fld w0 32 16
    let r := fld w0 48 3
    if fld w0 22 2 ≠ 0 ∨ fld w0 51 13 ≠ 0 ∨ (if coded then fld w1 32 32 else fld w1 24 40) ≠ 0 ∨ (coded ∧ (p ≠ 0 ∨ r ≠ 0)) then none
    else
      some
        { off := fld w0 0 22, code := w0.extractLsb' 24 8, f := f, pitch := p, rot := r, coded := coded
          bp := if coded then fld w1 0 32 else if fld w1 0 24 = 0 then 8 * p else fld w1 0 24 }

/-- Offset of row `r` of a plain operand (R243). -/
def Desc.rowAt (d : Desc) (r : Nat) : Nat := d.off + r / 8 * d.bp + r % 8 * d.pitch

/-- The first line of the maximal run of lines without a region that ends at a line. -/
def Pad.runStart (p : Pad) : Nat → Nat
  | 0 => 0
  | l + 1 => if (p.regionOfLine l).isNone then Pad.runStart p l else l + 1

/-- The region of a line: its number, and for an implicit one 16 and the first line of its run (R266). -/
def Pad.regionId (p : Pad) (line : Nat) : Nat :=
  match p.regionOfLine line with
  | some k => k
  | none => match p.region with | [] => 16 | _ => 16 + p.runStart line

/-- The first byte of [a, a + n) that lies beyond 4 MiB or outside the region `home`; the fuel bounds the lines. -/
def Pad.beyond (p : Pad) (home : Nat) : Nat → Nat → Nat → Option Nat
  | 0, _, _ => none
  | k + 1, a, n =>
    if n = 0 then none
    else if padSize ≤ a ∨ p.regionId (a / 2048) ≠ home then some a
    else
      let m := Nat.min n (2048 - a % 2048)
      Pad.beyond p home k (a + m) (n - m)

/-- The smaller of two found numbers. -/
def minFound : Option Nat → Option Nat → Option Nat
  | some a, some b => some (Nat.min a b)
  | some a, none => some a
  | none, o => o

/-- Check 1 of R243: alignment. -/
def Desc.misaligned (d : Desc) : Bool :=
  if d.coded then d.off % 4 != 0
  else
    let es := d.f.bytes
    d.off % es != 0 || d.pitch % es != 0 || d.bp % es != 0

/-- Check 2 of R243: the lowest offset out of range. -/
def Desc.outside (d : Desc) (p : Pad) (rows cols : Nat) : Option Nat :=
  let home := p.regionId (d.off / 2048)
  if d.coded then p.beyond home 2050 d.off d.bp
  else
    (List.range rows).foldl (fun o r => minFound o (p.beyond home (cols * d.f.bytes / 2048 + 2) (d.rowAt r) (cols * d.f.bytes))) none

/-- Check 3 of R243: the region's format is neither raw nor that of the operand without a scale. -/
def Desc.wrongRegion (d : Desc) (p : Pad) : Bool :=
  !d.coded &&
  match p.regionOfLine (d.off / 2048) with
  | none => false
  | some k =>
    let w := p.regionWord k
    fld w 23 8 != 0xFF && (w.extractLsb' 23 8 != d.code || fld w 31 2 != 0)

/-- The checks of R243 on several operands: each on every operand before the next (R249). The cause, and TVAL when
it is an address. -/
def padChecks (p : Pad) (ops : List (Desc × Nat × Nat)) : Option (Nat × Option Word) :=
  match ops.find? fun o => o.1.misaligned with
  | some o => some (3, some (BitVec.ofNat 64 (padBase + o.1.off)))
  | none =>
    match ops.findSome? fun o => o.1.outside p o.2.1 o.2.2 with
    | some a => some (7, some (BitVec.ofNat 64 (padBase + a)))
    | none => if ops.any fun o => o.1.wrongRegion p then some (12, none) else none

/-- Reads `n` elements of a row of a plain operand, or the generic address of the first poisoned one. -/
def Desc.read (d : Desc) (p : Pad) (r : Nat) : Nat → Nat → Except Word (List Nat)
  | _, 0 => .ok []
  | c, n + 1 =>
    let es := d.f.bytes
    let o := d.rowAt r + c * es
    match p.bad d.rot r o es with
    | some b => .error (BitVec.ofNat 64 (padBase + b))
    | none =>
      match Desc.read d p r (c + 1) n with
      | .error e => .error e
      | .ok l => .ok (ofBytes (p.read d.rot r o es) :: l)

/-- Reads `n` rows from row `r` on. -/
def Desc.readRows (d : Desc) (p : Pad) (cols : Nat) : Nat → Nat → Except Word (List (List Nat))
  | _, 0 => .ok []
  | r, n + 1 =>
    match d.read p r 0 cols with
    | .error e => .error e
    | .ok l =>
      match Desc.readRows d p cols (r + 1) n with
      | .error e => .error e
      | .ok ls => .ok (l :: ls)

/-! ### Coded tiles (R253 to R255) -/

/-- cum of a set: the sum of the frequencies below a symbol (R257). -/
def LarderSet.cum (l : LarderSet) (s : Nat) : Nat := (l.freq.take s).sum

/-- The slot map of a set (R257): the symbol of a slot, with its frequency and cum. -/
def slotOf (x : Nat) : Nat → Nat → List Nat → Nat × Nat × Nat
  | s, c, f :: rest => if x < c + f then (s, f, c) else slotOf x (s + 1) (c + f) rest
  | s, c, [] => (s, 0, c)

/-- TVAL of cause 11 (R255). -/
def tileTval (sub stream row : Nat) : Word := BitVec.ofNat 64 (sub + 2 ^ 8 * stream + 2 ^ 16 * (row % 65536))

/-- A marker (R253): the head, and the init and woff of each stream. -/
structure Marker where
  row : Nat
  next : Nat
  last : Nat
  words : Nat
  init : List Nat
  woff : List Nat
deriving DecidableEq, Repr

/-- Reads bytes of a scratchpad run, or the generic address of the first poisoned one. -/
def Pad.bytesAt (p : Pad) (o n : Nat) : Except Word (List Byte) :=
  match p.bad 0 0 o n with
  | some b => .error (BitVec.ofNat 64 (padBase + b))
  | none => .ok (p.read 0 0 o n)

/-- A 32-bit number of a run of bytes. -/
def word32 (b : List Byte) (o : Nat) : Nat := ofBytes ((b.drop o).take 4)

/-- The marker in 272 bytes. -/
def markerOf (b : List Byte) : Marker where
  row := word32 b 0
  next := word32 b 4
  last := word32 b 8
  words := word32 b 12
  init := (List.range 32).map fun t => word32 b (16 + 8 * t)
  woff := (List.range 32).map fun t => word32 b (20 + 8 * t)

/-- Whether numbers ascend. -/
def ascending : List Nat → Bool
  | a :: b :: rest => a ≤ b && ascending (b :: rest)
  | _ => true

/-- The marker checks of subcode 2 (R255), at `rel` from the tile's start. -/
def Marker.broken (m : Marker) (rel len row : Nat) (final : Bool) : Bool :=
  m.row != row || m.next % 4 != 0 || decide (m.next < 272 + 2 * m.words) || decide (len < rel + m.next)
    || !ascending m.woff || decide (m.words < m.woff.getD 31 0) || (final && rel + m.next != len)

/-- A stream under way: state, next word and limit. -/
structure Strm where
  x : Nat
  p : Nat
  lim : Nat
deriving DecidableEq, Repr

/-- One symbol of a stream (R254); none reads past the stream's limit. `h` is the 16-bit word at an index. -/
def Strm.symbol (l : LarderSet) (h : Nat → Nat) (s : Strm) : Option (Nat × Strm) :=
  let (sym, f, c) := slotOf (s.x % 4096) 0 0 l.freq
  let x := (f * (s.x / 4096) + s.x % 4096 - c) % 2 ^ 32
  if x < 2 ^ 16 then
    if s.lim ≤ s.p then none else some (sym, { s with x := x * 2 ^ 16 + h s.p, p := s.p + 1 })
  else some (sym, { s with x := x })

/-- The symbols of a row from column `j` on: the codes and the streams, or the stream that ran over. -/
def decodeRow (l : LarderSet) (h : Nat → Nat) : Nat → Nat → List Strm → Except Nat (List Nat × List Strm)
  | _, 0, ss => .ok ([], ss)
  | j, n + 1, ss =>
    let t := j % 32
    match (ss.getD t ⟨0, 0, 0⟩).symbol l h with
    | none => .error t
    | some (sym, s) =>
      match decodeRow l h (j + 1) n (ss.set t s) with
      | .error t => .error t
      | .ok (r, ss) => .ok (sym :: r, ss)

/-- `n` rows of a segment. -/
def decodeRows (l : LarderSet) (h : Nat → Nat) (mvl : Nat) : Nat → List Strm → Except Nat (List (List Nat) × List Strm)
  | 0, ss => .ok ([], ss)
  | n + 1, ss =>
    match decodeRow l h 0 mvl ss with
    | .error t => .error t
    | .ok (r, ss) =>
      match decodeRows l h mvl n ss with
      | .error t => .error t
      | .ok (rs, ss) => .ok (r :: rs, ss)

/-- The index of the first element that passes a test, from `i` on. -/
def firstIndex {α : Type} (p : α → Bool) : Nat → List α → Option Nat
  | _, [] => none
  | i, a :: rest => if p a then some i else firstIndex p (i + 1) rest

/-- Decodes the segment whose marker lies at `rel` from the tile's start (R254, R255): its rows and the next
marker, or cause and TVAL. R255 ranks no poison: that of the marker comes before its checks, and that of any word of the segment's
streams after these and before the symbols are decoded (DESIGN CHOICE, log 124). -/
def decodeSegment (p : Pad) (d : Desc) (l : LarderSet) (mvl row n rel : Nat) (final : Bool) :
    Except (Nat × Word) (List (List Nat) × Nat) :=
  if d.bp < rel + 272 then .error (11, tileTval 2 0 row)
  else
    match p.bytesAt (d.off + rel) 272 with
    | .error a => .error (19, a)
    | .ok b =>
      let m := markerOf b
      if m.broken rel d.bp row final then .error (11, tileTval 2 0 row)
      else
        match firstIndex (fun x => decide (x < 2 ^ 16)) 0 m.init with
        | some t => .error (11, tileTval 3 t row)
        | none =>
          match p.bytesAt (d.off + rel + 272) (2 * m.words) with
          | .error a => .error (19, a)
          | .ok body =>
            let h (i : Nat) : Nat := ofBytes ((body.drop (2 * i)).take 2)
            let lims := m.woff.drop 1 ++ [m.words]
            let ss := (m.init.zip (m.woff.zip lims)).map fun e => (⟨e.1, e.2.1, e.2.2⟩ : Strm)
            match decodeRows l h mvl n ss with
            | .error t => .error (11, tileTval 2 t row)
            | .ok (rows, ss) =>
              match firstIndex (fun (s : Strm) => s.x != m.last || s.p != s.lim) 0 ss with
              | some t => .error (11, tileTval 4 t row)
              | none => .ok (rows, rel + m.next)

/-- The marker of segment `s`: the `next` fields of those before it followed, or cause and TVAL. -/
def markerAt (p : Pad) (d : Desc) (row : Nat) : Nat → Nat → Except (Nat × Word) Nat
  | 0, rel => .ok rel
  | s + 1, rel =>
    if d.bp < rel + 8 then .error (11, tileTval 2 0 row)
    else
      match p.bytesAt (d.off + rel + 4) 4 with
      | .error a => .error (19, a)
      | .ok b => markerAt p d row s (rel + ofBytes b)

/-! ### Words that run in one step -/

/-- What a matrix word comes to at its issue or its effect. -/
inductive MatRes
  | ok (w : VWork)
  | trap (cause : Nat) (tval : Option Word)

/-- The descriptor pair in s[sd], s[sd + 1]. -/
def VWork.desc (w : VWork) (sd : Reg) (coded : Bool) : Option Desc := readDesc (w.getS sd) (w.getS (sd + 1)) coded

/-- Formats that m.st writes (R247). -/
def stFormat (accFmt : Byte) (f : Fmt) : Bool :=
  if accFmt = 0x42 then (match f with | .int _ _ => false | .ieee k => k != .f64 | .b8 _ _ _ => true)
  else (match f with | .int _ lg => lg ≤ 5 | .ieee _ => false | .b8 _ _ _ => false)

/-- Formats that m.ld reads (R247). -/
def ldFormat (accFmt : Byte) (f : Fmt) : Bool :=
  stFormat accFmt f && (match f with | .int s lg => s || lg != 5 | .ieee _ => true | .b8 _ _ _ => true)

/-- Issue checks of m.st and m.ld (R243, R247). -/
def VWork.imageCheck (w : VWork) (sd : Reg) (ok : Byte → Fmt → Bool) : Option (Nat × Option Word) :=
  match w.desc sd false with
  | none => some (12, none)
  | some d =>
    if !ok w.k.accFmt d.f then some (12, none)
    else padChecks (w.s.pad (clusterOf w.q)) [(d, w.k.mvl, w.k.mvl)]

/-- VLMAX of the unit. -/
def VWork.vlmax (w : VWork) : Nat := w.groups.length * w.per

/-- Issue checks of m.rdrow, m.rdcol and m.wrrow (R238, R246). -/
def VWork.rowCheck (w : VWork) (sd : Reg) : Option (Nat × Option Word) :=
  if w.vlmax < w.k.mvl then some (23, none)
  else if w.ew ≠ 32 then some (12, none)
  else if w.k.mvl ≤ (w.getS sd).toNat then some (23, none)
  else none

/-- Elements 0 to MVL - 1 of a register operand, or nothing when one is poisoned (R241). -/
def VWork.vecOperand (w : VWork) (r : Reg) : Option (List Nat) :=
  let ps := (List.range w.k.mvl).map w.posOf
  if ps.any fun p => w.srcBad r w.ew p then none else some (ps.map fun p => w.src r w.ew p)

/-- m.opa and m.ops (R245). -/
def VWork.runOuter (w : VWork) (sub c : Bool) (a b : Reg) : MatRes :=
  match Fmt.ofCode (vtFmt w.vt) with
  | none => .trap 12 none
  | some f =>
    if w.k.accBad c (fun i j => decide (i < w.k.mvl ∧ j < w.k.mvl)) then .trap 19 (some 0)
    else
      match w.vecOperand a, w.vecOperand b with
      | some xs, some ys =>
        let m : Mac :=
          { flt := w.k.accFmt == 0x42, fa := f, fb := f, ca := vtFmt w.vt, cb := vtFmt w.vt, op := if sub then 4 else 3
            neg := sub, k := 0, first := true }
        let (rows, v) := m.rows ys 0 (accRows (w.k.acc c)) xs {}
        .ok { w with k := w.k.setAcc c (accOf rows), s := w.s.modSeq w.q fun x => { x with csr := x.csr.setNpv v } }
      | _, _ => .trap 19 (some 0)

/-- Element [i][j] of an accumulator. -/
def Core.accElem (k : Core) (c : Bool) (i j : Nat) : Nat := ((accRows (k.acc c)).getD i []).getD j 0

/-- m.rdrow and m.rdcol (R246). -/
def VWork.runReadRow (w : VWork) (col c : Bool) (a sd : Reg) : MatRes :=
  let x := (w.getS sd).toNat
  let at_ (e : Nat) : Nat × Nat := if col then (e, x) else (x, e)
  if w.k.accBad c (fun i j => if col then decide (j = x ∧ i < w.k.mvl) else decide (i = x ∧ j < w.k.mvl)) then .trap 19 (some 0)
  else
    let w1 := (List.range w.k.mvl).foldl (fun (o : VWork) e => o.put a 32 (w.posOf e) (w.k.accElem c (at_ e).1 (at_ e).2)) w
    let tail := (List.range (w.vlmax - w.k.mvl)).map fun e => w.posOf (w.k.mvl + e)
    .ok (tail.foldl (fun (o : VWork) p => o.rest (vtTailZero w.vt) a 32 p) w1)

/-- m.wrrow (R246). -/
def VWork.runWriteRow (w : VWork) (c : Bool) (a sd : Reg) : MatRes :=
  let x := (w.getS sd).toNat
  match w.vecOperand a with
  | none => .trap 19 (some 0)
  | some vs =>
    let rows := accRows (w.k.acc c)
    let rows := rows.set x ((vs.take 128) ++ (rows.getD x []).drop vs.length)
    .ok { w with k := (w.k.setAcc c (accOf rows)).accClear c fun i j => decide (i = x ∧ j < w.k.mvl) }

/-- One element that m.st writes (R247). -/
def stElem (accFmt : Byte) (f : Fmt) (c : FCtl) (x : Nat) : Nat × FFlags :=
  convertElem (if accFmt = 0x42 then .ieee .f32 else .int true 5) f { c with flushIn := false, flushOut := false } false x

/-- A row of m.st: bytes of each element, flags, and the clamps recorded (R247, R260). -/
def storeRow (accFmt code : Byte) (f : Fmt) (c : FCtl) (i : Nat) : Nat → List Nat → Npv → List (List Byte) × FFlags × Npv
  | _, [], v => ([], 0, v)
  | j, x :: xs, v =>
    let (b, fl) := stElem accFmt f c x
    let v := if fl &&& fSAT ≠ 0 then v.event 2 (npvWord 0 i j 0 accFmt code 8) else v
    let (bs, g, v) := storeRow accFmt code f c i (j + 1) xs v
    (toBytes f.bytes b :: bs, fl ||| g, v)

/-- Writes the elements of a row of m.st, in ascending j, to the scratchpad. -/
def Desc.write (d : Desc) (r : Nat) : Nat → List (List Byte) → Pad → Pad
  | _, [], p => p
  | c, b :: bs, p => Desc.write d r (c + 1) bs (p.write d.rot r (d.rowAt r + c * d.f.bytes) b)

/-- A row that m.st stores: logged as a scratchpad store and written, or put into the store buffer behind a store of its unit that
waits there (R118, R244, R344). None when a ring is full. -/
def State.storeMatRow (s : State) (q : Nat) (d : Desc) (i : Nat) (bs : List (List Byte)) (locs : List Nat) : Option State :=
  let x := s.seq q
  let cl := clusterOf q
  if s.padNow q then
    (s.logFlat x.cur.partition x.cur.seq x.cur.log x.csr.winno.toNat q cl 1 locs).map fun s => s.modPad cl (d.write i 0 bs)
  else
    s.bufferPad q 3 (flatExtra locs.length)
      { parts := (List.range bs.length).map fun j => (rotate d.rot i (d.rowAt i + j * d.f.bytes), bs.getD j []), ord := 0 }

/-- m.st row by row from row `i` on (R244, R247). None when a ring is full. -/
def storeImage (q : Nat) (code : Byte) (d : Desc) (accFmt : Byte) (c : FCtl) :
    Nat → List (List Nat) → State → FFlags → Npv → Option (State × FFlags × Npv)
  | _, [], s, fl, v => some (s, fl, v)
  | i, r :: rs, s, fl, v =>
    let (bs, g, v) := storeRow accFmt code d.f c i 0 r v
    match s.storeMatRow q d i bs ((locsFrom (d.rowAt i) (r.length * d.f.bytes)).map (rotate d.rot i)) with
    | none => none
    | some s => storeImage q code d accFmt c (i + 1) rs s (fl ||| g) v

/-- m.st (R247). -/
def VWork.runMst (w : VWork) (c : Bool) (sd : Reg) : MatRes :=
  match w.desc sd false with
  | none => .trap 12 none
  | some d =>
    if w.k.accBad c (fun i j => decide (i < w.k.mvl ∧ j < w.k.mvl)) then .trap 19 (some 0)
    else
      let rows := ((accRows (w.k.acc c)).take w.k.mvl).map fun r => r.take w.k.mvl
      match storeImage w.q d.code d w.k.accFmt w.c 0 rows w.s 0 {} with
      | none => .trap 13 (some ((w.s.seq w.q).csr.winno.zeroExtend 64))
      | some (s, fl, v) => .ok (({ w with s := s.modSeq w.q fun x => { x with csr := x.csr.setNpv v } }).scalarFlag fl)

/-- Lays `new` over the first columns of a row. -/
def overRow (new old : List Nat) : List Nat := new ++ old.drop new.length

/-- m.ld (R247). It reads the scratchpad as it stands at the unit's issue: no load returns a store of its own unit (R244, R343). -/
def VWork.runMld (w : VWork) (c : Bool) (sd : Reg) : MatRes :=
  match w.desc sd false with
  | none => .trap 12 none
  | some d =>
    let n := Nat.min w.k.mvl 128
    match d.readRows (w.orig.pad (clusterOf w.q)) n 0 n with
    | .error a => .trap 19 (some a)
    | .ok rows =>
      let dst : Fmt := if w.k.accFmt = 0x42 then .ieee .f32 else .int true 5
      let new := rows.map fun r => r.map fun x => (convertElem d.f dst FCtl.rne false x).1
      let old := accRows (w.k.acc c)
      let out := ((new.zip old).map fun e => overRow e.1 e.2) ++ old.drop n
      .ok { w with k := (w.k.setAcc c (accOf out)).accClear c fun i j => decide (i < n ∧ j < n) }

/-! ### Tile multiply -/

/-- An mt.mul as its operands stand: K, B, A when it has a descriptor, formats and codes. -/
structure Mul where
  kk : Nat
  bd : Desc
  ad : Option Desc
  fa : Fmt
  ca : Byte
deriving DecidableEq, Repr

/-- Checks 1 to 3 of R249 on the operands `ops`, which are s[sd] to s[sd + 4]: what they say. -/
def VWork.mulRead (w : VWork) (a : Reg) (fn : BitVec 3) (ops : List Word) : Except (Nat × Option Word) Mul :=
  let ad := fn.getLsbD 0
  let cb := fn.getLsbD 1
  let sk := fn.getLsbD 2
  let o (i : Nat) : Word := ops.getD i 0
  let mvl := w.k.mvl
  if !ad && decide (w.vlmax < mvl) then .error (23, none)
  else
    match readDesc (o 0) (o 1) cb, (if ad then (readDesc (o 2) (o 3) false).map fun d => (some d, d.f, d.code)
        else (Fmt.ofCode (vtFmt w.vt)).map fun f => (none, f, vtFmt w.vt)) with
    | some bd, some (ado, fa, ca) =>
      if !abFormat w.k.accFmt fa || !abFormat w.k.accFmt bd.f || (cb && !bd.f.isB8) then .error (12, none)
      else
        let kk := fld (o 4) 0 16
        if fld (o 4) 16 48 ≠ 0 ∨ (!ad ∧ 32 < a.toNat + kk * w.lm) ∨ (sk ∧ w.groups.length * 32 < (kk + 31) / 32) then .error (23, none)
        else .ok { kk := kk, bd := bd, ad := ado, fa := fa, ca := ca }
    | _, _ => .error (12, none)

/-- The checks of R249, which an mt.mul makes at its issue; `row` is where it stands. -/
def VWork.mulSetup (w : VWork) (set : BitVec 2) (a : Reg) (fn : BitVec 3) (ops : List Word) (row : Nat) :
    Except (Nat × Option Word) Mul :=
  match w.mulRead a fn ops with
  | .error e => .error e
  | .ok u =>
    match padChecks (w.s.pad (clusterOf w.q)) ((u.bd, u.kk, w.k.mvl) :: (match u.ad with | some d => [(d, u.kk, w.k.mvl)] | none => [])) with
    | some e => .error e
    | none =>
      if fn.getLsbD 1 && !(FMap.get ({} : LarderSet) w.k.larder set.toNat).valid then .error (11, some (tileTval 1 0 row)) else .ok u

/-- Columns `k0` up of an A in registers: column k is the group a + k × LMUL (R248); none when one is poisoned. -/
def VWork.regColumns (w : VWork) (a : Reg) : Nat → Nat → Option (List (List Nat))
  | _, 0 => some []
  | k, n + 1 =>
    let r := a.toNat + k * w.lm
    let ps := (List.range w.k.mvl).map w.posOf
    if ps.any fun p => w.k.elemBad p.g r w.ew p.j then none
    else (VWork.regColumns w a (k + 1) n).map fun l => (ps.map fun p => w.k.elem p.g r w.ew p.j) :: l

/-- Whether a K-block is gated (R259), or its bound is poisoned. -/
def VWork.gated (w : VWork) (sk : Bool) (b : Reg) (blk : Nat) : Option Bool :=
  let m := (w.s.seq w.q).csr.mskip
  if !sk || !m.getLsbD 31 then some false
  else
    let g := ((w.groups.find? fun e => e.1 == blk / 32).map Prod.snd).getD 0
    if w.k.elemBad g b.toNat 32 (blk % 32) then none
    else some (cmpVal .lt (decodeIeee .f32 (w.k.elem g b.toNat 32 (blk % 32))) (decodeIeee .f32 (fld m 32 32))).1

/-- What a segment of an mt.mul comes to. -/
inductive MulRes
  | done (w : VWork)
  | more (w : VWork)
  | trap (w : VWork) (cause : Nat) (tval : Word)

/-- Adds the rows of a segment, k ascending. -/
def addSegment (m : Mac) : List (List Nat × List Nat) → List (List Nat) → Npv → List (List Nat) × Npv
  | [], rows, v => (rows, v)
  | (a, b) :: rest, rows, v =>
    let (rows, v) := m.rows b 0 rows a v
    addSegment { m with k := m.k + 1, first := false } rest rows v

/-- The rows of B and columns of A of the segment at `row` (R250), without the stores of its own unit (R244, R343): cause and TVAL on
a fault. -/
def VWork.mulFetch (w : VWork) (u : Mul) (set : BitVec 2) (a : Reg) (row n : Nat) :
    Except (Nat × Word) (List (List Nat) × List (List Nat)) :=
  let p := w.orig.pad (clusterOf w.q)
  let mvl := w.k.mvl
  let bs : Except (Nat × Word) (List (List Nat)) :=
    if u.bd.coded then
      match markerAt p u.bd row (row / 8) 0 with
      | .error e => .error e
      | .ok rel =>
        match decodeSegment p u.bd (FMap.get {} w.k.larder set.toNat) mvl row n rel (decide (u.kk ≤ row + 8)) with
        | .error e => .error e
        | .ok (rows, _) => .ok rows
    else
      match u.bd.readRows p mvl row n with
      | .error e => .error (19, e)
      | .ok rows => .ok rows
  match bs with
  | .error e => .error e
  | .ok brows =>
    match u.ad with
    | some d => (match d.readRows p mvl row n with | .error e => .error (19, e) | .ok rows => .ok (brows, rows))
    | none => (match w.regColumns a row n with | none => .error (19, 0) | some cs => .ok (brows, cs))

/-- One segment of mt.mul at `row` (R250, R259, R261): a gated one leaves the accumulator unread. `fresh` says that no row has been
added since issue; `recs` are the sampled records that the unit writes when it ends (R232). -/
def VWork.mulSegment (w : VWork) (u : Mul) (set : BitVec 2) (c : Bool) (a b : Reg) (fn : BitVec 3) (pos : Nat)
    (ops : List Word) (row : Nat) (fresh : Bool) (recs : List (List Byte)) : MulRes :=
  let n := Nat.min 8 (u.kk - row)
  let stopAt (w : VWork) (r : Nat) (fr : Bool) (o : List Word) : VWork :=
    { w with k := { w.k with progress := some { unit := w.u, position := pos, row := r, ops := o, fresh := fr, recs := recs } } }
  let fail (cause : Nat) (tval : Word) : MulRes := .trap (stopAt w row fresh []) cause tval
  match w.mulFetch u set a row n with
  | .error (cs, tv) => fail cs tv
  | .ok (brows, arows) =>
    match w.gated (fn.getLsbD 2) b (row / 32) with
    | none => fail 19 0
    | some gate =>
      if !gate && w.k.accBad c (fun i j => decide (i < w.k.mvl ∧ j < w.k.mvl)) then fail 19 0
      else
        let x := w.s.seq w.q
        let w1 := if gate then
            if row % 32 = 0 then { w with s := w.s.setSeq w.q { x with csr := { x.csr with skipcnt := x.csr.skipcnt + 1 } } } else w
          else
            let m : Mac :=
              { flt := w.k.accFmt == 0x42, fa := u.fa, fb := u.bd.f, ca := u.ca, cb := u.bd.code, op := 0x10 + fn.toNat
                neg := false, k := row, first := fresh }
            let (rows, v) := addSegment m (arows.zip brows) (accRows (w.k.acc c)) x.csr.npv
            { w with k := w.k.setAcc c (accOf rows), s := w.s.setSeq w.q { x with csr := x.csr.setNpv v } }
        if row + 8 < u.kk then .more (stopAt w1 (row + 8) (fresh && gate) ops)
        else .done { w1 with k := { w1.k with progress := none } }

/-! ### Matrix mode -/

/-- A matrix word in a trap handler, or by a sequencer that does not hold matrix mode (R130, R238). -/
def State.matrixGuard (s : State) (q pos : Nat) : Option UnitRes :=
  if (s.seq q).tr.inTrap then some (s.frozenTrap q pos)
  else if !s.matrixOn q then some (s.wordTrap q 23 pos) else none

/-- MVL that a request gives (R236). -/
def mvlOf (r : Word) : Nat := if fld r 0 8 = 0 ∨ 128 < fld r 0 8 then 128 else fld r 0 8

/-- Gives matrix mode to a sequencer for a request (R180, R236). -/
def State.giveMatrix (s : State) (q : Nat) (r : Word) : State :=
  let x := s.seq q
  let key := (x.cur.partition, x.cur.seq)
  s.modCore (coreOf q) fun k =>
    { k with
      waiters := k.waiters.filter fun w => w != q
      holder := some q, mvl := mvlOf r, accFmt := r.extractLsb' 8 8
      acc0 := [], acc1 := [], accPois := [], progress := none, lastLaunch := some key
      larder := if k.lastLaunch = some key then k.larder else k.larder.mapVals fun _ (l : LarderSet) => { l with valid := false } }

/-- Whether a request of m.on is malformed (R236). -/
def onBad (r : Word) : Bool := fld r 17 47 != 0 || (fld r 8 8 != 0x25 && fld r 8 8 != 0x42)

/-- `m.on` (R236). -/
def execMOn (sd : Reg) (s : State) : Out :=
  runUnit s fun s q =>
    let x := s.seq q
    let r := x.getS sd
    let k := s.core (coreOf q)
    if x.tr.inTrap then s.frozenTrap q 0
    else if onBad r then s.wordTrap q 12
    else if k.holder = some q then s.wordTrap q 23
    else if k.holder.isSome ∨ (k.waiters.head?).getD q ≠ q then
      if r.getLsbD 16 then .done (s.modSeq q fun x => x.setS sd 0) .on
      else if k.waiters.contains q then .wait s
      else .wait (s.modCore (coreOf q) fun k => { k with waiters := k.waiters ++ [q] })
    else .done ((s.giveMatrix q r).modSeq q fun x => x.setS sd (BitVec.ofNat 64 (mvlOf r))) .on

/-- `m.off` (R237). -/
def execMOff (s : State) : Out :=
  runUnit s fun s q =>
    match s.matrixGuard q 0 with
    | some r => r
    | none => .done (s.modCore (coreOf q) fun k => k.matrixOff q) .on

/-- Reads the 256 frequencies of m.ldtab halfword by halfword under the checks of R143. -/
def State.readTable (s : State) (q va : Nat) : Nat → Nat → VaRead
  | _, 0 => .ok []
  | i, n + 1 =>
    match s.readVa q ((va + 2 * i) % 2 ^ 64) 2 with
    | .ok b =>
      match State.readTable s q va (i + 1) n with
      | .ok r => .ok (b ++ r)
      | .bad c a => .bad c a
      | .wait t => .wait t
    | .bad c a => .bad c a
    | .wait t => .wait t

/-- `m.ldtab` (R257). -/
def execMLdtab (set : BitVec 2) (sd : Reg) (s : State) : Out :=
  runUnit s fun s q =>
    match s.matrixGuard q 0 with
    | some r => r
    | none =>
      let va := ((s.seq q).getS sd).toNat
      if va % 2 ≠ 0 then .trap s { cause := 3, tval := BitVec.ofNat 64 va }
      else
        match s.readTable q va 0 256 with
        | .wait s => .wait s
        | .bad c a => .trap s { cause := c, tval := a }
        | .ok b =>
          let fs := (List.range 256).map fun i => ofBytes ((b.drop (2 * i)).take 2)
          let put (l : LarderSet) (s : State) : State :=
            s.modCore (coreOf q) fun k => { k with larder := FMap.set {} k.larder set.toNat l }
          if fs.sum ≠ 4096 then
            .trap (put { valid := false, freq := (FMap.get ({} : LarderSet) (s.core (coreOf q)).larder set.toNat).freq } s)
              { cause := 11, tval := tileTval 1 0 0 }
          else .done (put { valid := true, freq := fs } s) .on

end Sys2Proof.Machine
end

