-- ==== Sys2Proof/Machine/VUnit.lean ====
section
/-!
DEFINITION. Sys2Proof/Machine/VUnit.lean: a unit of vector and matrix words: its checks, its elements with the restart
vector of a fault, the chain slot, sampled records, and the tile multiply that may end it (02_words_and_opcode_map.md R33
to R35; 08_core.md R172, R175 to R184; 09_vector_instructions.md R190; 10_vector_memory.md R217, R218, R230 to R234;
11_matrix.md R249 to R252).
-/

namespace Sys2Proof.Machine

open Sys2Proof

/-! ### Fields of a word -/

/-- Whether a permutation word reads va as a register group (R49, R209). -/
def permA : VpFn → Bool
  | .slup | .sldn | .rgat | .cmpr | .expd | .xchg | .sort | .merge | .rsum | .rmax | .rmin | .rand | .ror | .frsum | .frmax
  | .frmin | .scan | .fscan | .bcast | .ext => true
  | .mand | .mor | .mxor | .mnot | .mpop | .mffs | .mfirst | .insrt => false

/-- Whether a permutation word reads vb as a register group. -/
def permB : VpFn → Bool
  | .rgat | .merge => true
  | .slup | .sldn | .cmpr | .expd | .xchg | .sort | .rsum | .rmax | .rmin | .rand | .ror | .frsum | .frmax | .frmin
  | .scan | .fscan | .bcast | .ext | .mand | .mor | .mxor | .mnot | .mpop | .mffs | .mfirst | .insrt => false

/-- Whether a permutation word writes a register group. -/
def permD : VpFn → Bool
  | .slup | .sldn | .rgat | .cmpr | .expd | .xchg | .sort | .merge | .scan | .fscan | .bcast | .insrt => true
  | .rsum | .rmax | .rmin | .rand | .ror | .frsum | .frmax | .frmin | .ext | .mand | .mor | .mxor | .mnot | .mpop | .mffs
  | .mfirst => false

/-- Whether a permutation word is a mask operation, 0x12 to 0x18 (R184). -/
def permMask : VpFn → Bool
  | .mand | .mor | .mxor | .mnot | .mpop | .mffs | .mfirst => true
  | .slup | .sldn | .rgat | .cmpr | .expd | .xchg | .sort | .merge | .rsum | .rmax | .rmin | .rand | .ror | .frsum | .frmax
  | .frmin | .scan | .fscan | .bcast | .ext | .insrt => false

/-- Whether an integer function is a compare. -/
def intCompares : VIntFn → Bool
  | .cmpeq | .cmpne | .cmplt | .cmple | .cmpltz | .cmplez => true
  | .add | .sub | .rsub | .mul | .mulh | .mulhz | .mac | .nmac | .and | .or | .xor | .shl | .shr | .sra | .rshr | .rshre
  | .min | .max | .minz | .maxz | .abs | .avg | .div | .divz | .rem | .remz | .sel | .mv | .clz | .pop => false

/-- The register group that a word writes (R35). -/
def destOf : CWord → Option Reg
  | .int _ fn d _ _ _ => if intCompares fn then none else some d
  | .fp _ fn d _ _ _ => if (fpFnCmp fn).isSome then none else some d
  | .cvt _ d _ _ => some d
  | .qnt d _ _ _ => some d
  | .had d _ _ _ => some d
  | .hash d _ _ _ => some d
  | .iota d _ _ => some d
  | .perm fn d _ _ _ => if permD fn then some d else none
  | .wide _ d _ _ _ => some d
  | .load o => some o.d
  | .linkGet d _ _ _ => some d
  | .mrdrow _ a _ => some a
  | .mrdcol _ a _ => some a
  | .store _ | .linkPut _ _ _ _ | .mzero _ | .mop _ _ _ _ | .mwrrow _ _ _ | .mst _ _ | .mld _ _ | .mmul _ _ _ _ _ _ => none

/-- The register groups that a word reads, the addend and the data of a store among them, each with the registers it takes
(R35, R172): the wide side of a vw word has twice LMUL. -/
def sourcesOf (lm : Nat) : CWord → List (Reg × Nat)
  | .int form fn d a b _ =>
    (if intReadsX fn || (form == .vv && fn == .mv) then [(a, lm)] else [])
      ++ (if form == .vv && intReadsY fn && fn != .mv then [(b, lm)] else []) ++ (if intReadsZ fn then [(d, lm)] else [])
  | .fp sc fn d a b _ => (a, lm) :: ((if !sc && fpReadsY fn then [(b, lm)] else []) ++ (if fpReadsZ fn then [(d, lm)] else []))
  | .cvt _ _ a _ => [(a, lm)]
  | .qnt _ a _ _ => [(a, lm)]
  | .had _ a _ _ => [(a, lm)]
  | .hash _ a b _ => [(a, lm), (b, lm)]
  | .perm fn _ a b _ => (if permA fn then [(a, lm)] else []) ++ (if permB fn then [(b, lm)] else [])
  | .wide fn d a b _ =>
    if vwWidens fn then [(a, lm), (b, lm)] ++ (if vwAccumulates fn then [(d, 2 * lm)] else []) else [(a, 2 * lm)]
  | .load o => if o.mode = .index then [(o.x, lm)] else []
  | .store o => (o.d, lm) :: (if o.mode = .index then [(o.x, lm)] else [])
  | .linkGet _ _ x _ => [(x, lm)]
  | .linkPut d _ x _ => [(d, lm), (x, lm)]
  | .mop _ _ a b => [(a, lm), (b, lm)]
  | .mwrrow _ a _ => [(a, lm)]
  | .mmul _ _ a _ _ fn => if fn.getLsbD 0 then [] else [(a, lm)]
  | .iota _ _ _ | .mzero _ | .mrdrow _ _ _ | .mrdcol _ _ _ | .mst _ _ | .mld _ _ => []

/-- The mask registers that a word consumes: its predicate, and the operands of a mask operation (R176, R197, R215). -/
def masksOf : CWord → List Nat
  | .int _ fn _ _ _ m => if m != 0 || fn == .sel then [m.toNat] else []
  | .perm fn _ a b m =>
    (if m != 0 then [m.toNat] else [])
      ++ (match fn with
        | .mand | .mor | .mxor => [a.toNat % 8, b.toNat % 8]
        | .mnot | .mpop | .mffs => [a.toNat % 8]
        | .slup | .sldn | .rgat | .cmpr | .expd | .xchg | .sort | .merge | .rsum | .rmax | .rmin | .rand | .ror | .frsum | .frmax
        | .frmin | .scan | .fscan | .bcast | .ext | .insrt | .mfirst => [])
  | .fp _ _ _ _ _ m | .cvt _ _ _ m | .qnt _ _ _ m | .had _ _ _ m | .hash _ _ _ m | .iota _ _ m | .wide _ _ _ _ m
  | .linkGet _ _ _ m | .linkPut _ _ _ m => if m != 0 then [m.toNat] else []
  | .load o => if o.m != 0 then [o.m.toNat] else []
  | .store o => if o.m != 0 then [o.m.toNat] else []
  | .mzero _ | .mop _ _ _ _ | .mrdrow _ _ _ | .mwrrow _ _ _ | .mrdcol _ _ _ | .mst _ _ | .mld _ _ | .mmul _ _ _ _ _ _ => []

/-- Registers of the group that a word writes, under a vtype (R172, R202, R204). With dfmt reserved EMUL is undefined and any register
passes, for cause 12 follows (DESIGN CHOICE, log 126). -/
def destSize (vt : Word) (lm : Nat) : CWord → Nat
  | .wide fn _ _ _ _ => if vwWidens fn then 2 * lm else lm
  | .cvt _ _ _ _ | .qnt _ _ _ _ => if vtEw vt = 0 ∨ codeWidth (vtDfmt vt) = 0 then 1 else emul lm (vtEw vt) (codeWidth (vtDfmt vt))
  | .int _ _ _ _ _ _ | .fp _ _ _ _ _ _ | .had _ _ _ _ | .hash _ _ _ _ | .iota _ _ _ | .perm _ _ _ _ _ | .load _ | .store _
  | .linkGet _ _ _ _ | .linkPut _ _ _ _ | .mzero _ | .mop _ _ _ _ | .mrdrow _ _ _ | .mwrrow _ _ _ | .mrdcol _ _ _ | .mst _ _
  | .mld _ _ | .mmul _ _ _ _ _ _ => lm

/-- Whether a unit that holds the word completes whole or not at all (R184). So do units with the matrix words that take a whole vector
operand: R182 is of units whose every word acts elementwise (log 125). -/
def isWhole : CWord → Bool
  | .perm fn _ _ _ _ => !permMask fn
  | .had _ _ _ _ | .linkGet _ _ _ _ | .linkPut _ _ _ _ | .mop _ _ _ _ | .mwrrow _ _ _ => true
  | .int _ _ _ _ _ _ | .fp _ _ _ _ _ _ | .cvt _ _ _ _ | .qnt _ _ _ _ | .hash _ _ _ _ | .iota _ _ _ | .wide _ _ _ _ _
  | .load _ | .store _ | .mzero _ | .mrdrow _ _ _ | .mrdcol _ _ _ | .mst _ _ | .mld _ _ | .mmul _ _ _ _ _ _ => false

/-! ### Decode checks (R172, R217) -/

/-- A word of a unit with its place: position, whether it is linked, whether the word before wrote vz. -/
structure Placed where
  w : CWord
  pos : Nat
  linked : Bool
  vzIn : Bool
deriving DecidableEq, Repr

/-- The words of a unit with their places. -/
def placeFrom (pos : Nat) (vzIn : Bool) : List CWord → List Placed
  | [] => []
  | [w] => [⟨w, pos, false, vzIn⟩]
  | w :: rest => ⟨w, pos, true, vzIn⟩ :: placeFrom (pos + 1) (destOf w == some 31) rest

/-- Whether a segment word's groups end below v32 (R217). -/
def segmentOk (lm : Nat) : CWord → Bool
  | .load o => o.nf == 0 || decide (o.d.toNat + (o.nf.toNat + 1) * lm ≤ 32)
  | .store o => o.nf == 0 || decide (o.d.toNat + (o.nf.toNat + 1) * lm ≤ 32)
  | _ => true

/-- Alignment of every register-group field (R172, R204, R217): a field that stands for vz is exempt (log 37). -/
def Placed.aligned (e : Placed) (vt : Word) : Bool :=
  let lm := if vt = 0 then 1 else vtLmul vt
  segmentOk lm e.w
    && (match destOf e.w with | some d => alignedGroup d (destSize vt lm e.w) (e.linked && d == 31) | none => true)
    && (sourcesOf lm e.w).all fun r => alignedGroup r.1 r.2 (e.vzIn && r.1 == 31)

/-- The first of some linked words, at positions from `pos` on, whose register groups are not aligned under a vtype. The decoder
checks words in order, so such a word comes before a later word that is illegal or breaks the convoy (R34, R136, R172, log 99). -/
noncomputable def firstMisaligned (vt : Word) (pos : Nat) (vzIn : Bool) : List IWord → Option (IWord × Nat)
  | [] => none
  | w :: rest =>
    match (decodeWord w).bind Instr.toCWord with
    | none => none
    | some (_, c) =>
      if Placed.aligned ⟨c, pos, true, vzIn⟩ vt then firstMisaligned vt (pos + 1) (destOf c == some 31) rest else some (w, pos)

/-! ### Format and overlap checks (R190) -/

/-- The format check of a word's family: whether cause 12 is avoided. -/
def familyOk (vt : Word) (w : CWord) : Bool :=
  match Fmt.ofCode (vtFmt vt) with
  | none => (match w with | .perm fn _ _ _ _ => permMask fn | _ => w.isMatrix)
  | some f =>
    match w with
    | .int _ _ _ _ _ _ => f.isInt
    | .fp _ fn _ _ _ _ => f.isIeee && !(fn == .exp2 && f == .ieee .f64)
    | .cvt _ _ _ _ | .qnt _ _ _ _ => (Fmt.ofCode (vtDfmt vt)).isSome
    | .had _ _ _ _ => f.isInt || f.isIeee
    | .hash _ _ _ _ => f.isInt && f.width == 64
    | .iota _ _ _ => f.isInt
    | .perm fn _ _ _ _ =>
      (match fn with
       | .rsum | .rmax | .rmin | .rand | .ror | .scan => f.isInt
       | .frsum | .frmax | .frmin | .fscan => f.isIeee
       | .slup | .sldn | .rgat | .cmpr | .expd | .xchg | .sort | .merge | .bcast | .ext | .insrt => f.isInt || f.isIeee
       | .mand | .mor | .mxor | .mnot | .mpop | .mffs | .mfirst => true)
    | .wide _ _ _ _ _ => f.isInt && decide (f.width ≤ 32)
    | .linkGet _ _ _ _ | .linkPut _ _ _ _ => f.isInt && decide (32 ≤ f.width)
    | .load _ | .store _ | .mzero _ | .mop _ _ _ _ | .mrdrow _ _ _ | .mwrrow _ _ _ | .mrdcol _ _ _ | .mst _ _ | .mld _ _
    | .mmul _ _ _ _ _ _ => true

/-- Whether two groups of a word overlap against the rules: cause 10. -/
def Placed.overlaps (e : Placed) (vt : Word) : Bool :=
  let lm := vtLmul vt
  let meets (d : Reg) (nd : Nat) (r : Reg) (nr : Nat) : Bool := groupsMeet d nd (e.linked && d == 31) r nr (e.vzIn && r == 31)
  match e.w with
  | .wide fn d a b _ => if vwWidens fn then meets d (2 * lm) a lm || meets d (2 * lm) b lm else meets d lm a (2 * lm)
  | .cvt _ d a _ => vtEw vt != codeWidth (vtDfmt vt) && meets d (destSize vt lm e.w) a lm
  | .qnt d a _ _ => vtEw vt != codeWidth (vtDfmt vt) && meets d (destSize vt lm e.w) a lm
  | .perm fn d a b _ =>
    permD fn && fn != .insrt && ((permA fn && meets d lm a lm) || (permB fn && meets d lm b lm))
  | .load o => o.mode == .index && meets o.d lm o.x lm
  | .linkGet d _ x _ => meets d lm x lm
  | _ => false

/-- Issue checks of a matrix word (R238, R240, R243, R246, R247). -/
def VWork.matrixCheck (w : VWork) : CWord → Option (Nat × Option Word)
  | .mzero _ => none
  | .mop _ _ _ _ =>
    if w.vlmax < w.k.mvl then some (23, none)
    else if (match Fmt.ofCode (vtFmt w.vt) with | some f => abFormat w.k.accFmt f | none => false) then none else some (12, none)
  | .mrdrow _ _ sd => w.rowCheck sd
  | .mrdcol _ _ sd => w.rowCheck sd
  | .mwrrow _ _ sd => w.rowCheck sd
  | .mst _ sd => w.imageCheck sd stFormat
  | .mld _ sd => w.imageCheck sd ldFormat
  | .mmul t _ a _ sd fn =>
    match w.mulSetup t a fn ((List.range 5).map fun i => w.getS (sd + BitVec.ofNat 5 i)) 0 with
    | .error e => some e
    | .ok _ => none
  | .int _ _ _ _ _ _ | .fp _ _ _ _ _ _ | .cvt _ _ _ _ | .qnt _ _ _ _ | .had _ _ _ _ | .hash _ _ _ _ | .iota _ _ _
  | .perm _ _ _ _ _ | .wide _ _ _ _ _ | .load _ | .store _ | .linkGet _ _ _ _ | .linkPut _ _ _ _ => none

/-- Steps 2 and 3 of R190 for one word, and a matrix word's own checks: the cause, and TVAL when it is no word. -/
def VWork.check (w : VWork) (e : Placed) : Option (Nat × Option Word) :=
  if e.w.isMatrix then
    if w.k.holder ≠ some w.q then some (23, none) else w.matrixCheck e.w
  else if w.vt = 0 then none
  else if !familyOk w.vt e.w then some (12, none)
  else if e.overlaps w.vt then some (10, none)
  else none

/-- The first word of a unit that fails, with its failure. -/
def VWork.checkAll (w : VWork) : List Placed → Option (Nat × Nat × Option Word)
  | [] => none
  | e :: rest =>
    match w.check e with
    | some (c, tv) => some (e.pos, c, tv)
    | none => VWork.checkAll w rest

/-! ### Running the words -/

/-- The effect of a vector word with VL above 0 (R193 to R229). -/
def VWork.effect (w : VWork) (x : CWord) : VWork :=
  let w := w.maskPoison (masksOf x)
  match Fmt.ofCode (vtFmt w.vt) with
  | none => w
  | some f =>
    match x with
    | .int form fn d a b m => w.runInt form fn d a b m
    | .fp sc fn d a b m => w.runFp f sc fn d a b m
    | .cvt sat d a m => (match Fmt.ofCode (vtDfmt w.vt) with | some fd => w.runCvt f fd sat d a m | none => w)
    | .qnt d a b m => (match Fmt.ofCode (vtDfmt w.vt) with | some fd => w.runQnt f fd d a b m | none => w)
    | .had d a i m => w.runHad f d a i.toNat m
    | .hash d a b m => w.runHash d a b m
    | .iota d b m => w.runIota d b m
    | .perm fn d a b m => w.runPerm f fn d a b m
    | .wide fn d a b m => w.runWide fn d a b m
    | .load o => w.runLoad o
    | .store o => w.runStore o
    | .linkGet d a x m => w.runLinkGet d a x m
    | .linkPut d a x m => w.runLinkPut d a x m
    | .mzero _ | .mop _ _ _ _ | .mrdrow _ _ _ | .mwrrow _ _ _ | .mrdcol _ _ _ | .mst _ _ | .mld _ _ | .mmul _ _ _ _ _ _ => w

/-- The note of a memory word; none for another word. -/
def VWork.noteOf (w : VWork) (x : CWord) : Option MemNote :=
  match x with
  | .load o => some (w.note o (w.unitMs o false false) 0 false false)
  | .store o => some (w.note o (w.unitMs o true false) 1 true false)
  | .linkGet d a x m => some (w.note (vlkMem d a x m) (w.ew / 8) 2 false true)
  | .linkPut d a x m => some (w.note (vlkMem d a x m) (w.ew / 8) 3 true true)
  | _ => none

/-- A word with VL = 0: scalar results, and the link of a vlk word over no line (R175, R228, R229). -/
def VWork.emptyEffect (w : VWork) (x : CWord) : VWork :=
  let w := match w.noteOf x with | some n => { w with notes := w.notes ++ [n] } | none => w
  match x with
  | .perm fn d _ b _ => w.permEmpty (Fmt.ofCode (vtFmt w.vt)) fn d b
  | .linkGet _ _ _ _ =>
    let g := ((w.s.seq w.q).gen + 1) % 32
    { w with s := w.s.modSeq w.q fun y => { y with gen := g, link := .vector [] g } }
  | .linkPut _ _ _ _ =>
    if w.orig.storesOpen w.q then { w with wait := true } else { w with s := w.s.modSeq w.q fun y => { y with link := .none } }
  | _ => w

/-- Runs the vector words of a unit in word order, the chain slot passing from each to the next (R35, R178, log 36). -/
def VWork.runWords (w : VWork) (es : List Placed) : VWork :=
  es.foldl (fun (w : VWork) (e : Placed) =>
    let w := { w with word := e.pos, linked := e.linked, vzIn := e.vzIn, out := [] }
    let w := if w.vl = 0 then w.emptyEffect e.w else w.effect e.w
    { w with vz := w.out }) w

/-- Where a group stops: the lowest local index that faults in it (R182). -/
def limOf (fs : List VFault) (g : Nat) : Option Nat :=
  fs.foldl (fun o f => if f.p.g = g then minFound o (some f.p.j) else o) none

/-- Runs the words again and again from the unit's issue, each time with the elements at and above the faults met so
far left out, until no new fault is met (R182). -/
def VWork.passes (w : VWork) (es : List Placed) : Nat → List VFault → VWork × List VFault
  | 0, fs => ({ w with lim := limOf fs }.runWords es, fs)
  | n + 1, fs =>
    let r := { w with lim := limOf fs }.runWords es
    if r.wait || r.faults.isEmpty then (r, fs) else VWork.passes { w with ffVl := r.ffVl } es n (fs ++ r.faults)

/-- The fault of the lowest global index (R182). -/
def VWork.lowest (w : VWork) (fs : List VFault) : Option VFault :=
  fs.foldl (fun o f =>
    match o with
    | none => some f
    | some b => if w.idx f.p < w.idx b.p then some f else some b) none

/-- The restart vector (R182): f(g) of each granted group. -/
def VWork.restart (w : VWork) (fs : List VFault) : Nat × Nat × Nat × Nat :=
  let f (g : Nat) : Nat :=
    match w.groups.find? fun e => e.2 == g with
    | none => 0
    | some e => (limOf fs g).getD (positionsBelow w.per w.vl e.1)
  (f 0, f 1, f 2, f 3)

/-! ### Sampled records (R230 to R234) -/

/-- Bytes of a sampled record (R233). -/
def sampleBytes (s : State) (q : Nat) (n : MemNote) : List Byte :=
  let x := s.seq q
  let t (i : Nat) : Nat := if x.cur.det then 0 else Config.timing s.tick (4 * n.word + i)
  let b (v : Bool) (k : Nat) : Nat := if v then 2 ^ k else 0
  toBytes 8 x.pc.q0.toNat ++ toBytes 4 x.csr.units.toNat ++ toBytes 1 (n.word + 4 * n.kind + 16 * n.mode) ++ toBytes 1 n.sclass
    ++ toBytes 2 n.active ++ toBytes 2 n.lines.length ++ toBytes 2 n.pages.length ++ toBytes 2 (t 0)
    ++ toBytes 2 (Nat.min 0xFFFF (t 1)) ++ toBytes 4 (if n.active = 0 then 0 else Nat.min 0xFFFFFFFF (t 2))
    ++ toBytes 4 (b n.faulted 0 + b n.pad 1 + b n.lane 2 + b n.comp 3 + b x.cur.det 4)

/-- Stores 32 bytes plainly, neither logged nor checked for a watch; none when the store faults (R232, log 42). -/
def State.plainStore (s : State) (q va : Nat) (bytes : List Byte) : Option State :=
  let push (st : PStore) : State := s.modSeq q fun y => { y with stores := y.stores ++ [st] }
  match s.locate q va bytes.length .write with
  | .error _ => none
  | .ok (.pad o) =>
    some (if s.padNow q then s.modPad (clusterOf q) fun p => p.write 0 0 o bytes
      else push { parts := [(o, bytes)], ord := 0, pad := some (clusterOf q), sample := true })
  | .ok (.glob t) =>
    if aStore t.attr = 3 then none
    else some (push { parts := [(t.pa, bytes)], vas := [t.va], ord := aOrd t.attr, comp := aStore t.attr == 1, sample := true })

/-- Writes one record at the ring's next place while sampling is enabled; on a full ring without wrap it stops (log 41). -/
def State.sampleOne (s : State) (q : Nat) (rec : List Byte) : State :=
  let x := s.seq q
  let ctl := x.csr.sampctl
  if !ctl.getLsbD 0 then s
  else
    let size := 2 ^ (fld ctl 8 4 + 4)
    let next := fld ctl 32 32 % size
    let off (ctl : Word) : Word := ctl &&& ~~~ 1
    match s.plainStore q ((x.csr.sampbase.toNat + 32 * next) % 2 ^ 64) rec with
    | none => s.modSeq q fun x => { x with csr := { x.csr with sampctl := off ctl } }
    | some s =>
      let low := ctl &&& 0xFFFFFFFF
      let up : Word := BitVec.ofNat 64 ((next + 1) % size * 2 ^ 32)
      let c := low ||| up
      let c := if next + 1 = size ∧ !ctl.getLsbD 6 then off c ||| 0x80 else c
      s.modSeq q fun x => { x with csr := { x.csr with sampctl := c } }

/-- Writes records. -/
def State.sampleRecs (s : State) (q : Nat) (recs : List (List Byte)) : State := recs.foldl (fun s r => s.sampleOne q r) s

/-- Counts a unit that holds a memory word; the records that it writes when it is sampled (R232). -/
def State.countUnit (s : State) (q : Nat) (notes : List MemNote) : State × List (List Byte) :=
  let x := s.seq q
  if notes.isEmpty || !x.csr.sampctl.getLsbD 0 then (s, [])
  else
    let k := x.csr.sampCount + 1
    (s.modSeq q fun x => { x with csr := { x.csr with sampCount := k } },
      if k % 2 ^ fld x.csr.sampctl 1 5 ≠ 0 then [] else notes.map (sampleBytes s q))

/-- Counts a unit that holds a memory word, and writes its records when it is sampled (R232). -/
def State.sampleUnit (s : State) (q : Nat) (notes : List MemNote) : State :=
  let r := s.countUnit q notes
  r.1.sampleRecs q r.2

/-- The notes of a unit none of whose elements is done; `bad` is the word that faulted. -/
def VWork.noNotes (w : VWork) (es : List Placed) (bad : Nat) : List MemNote :=
  if !(w.s.seq w.q).csr.sampctl.getLsbD 0 then []
  else
    es.filterMap fun e =>
      (({ w with lim := fun _ => some 0, word := e.pos } : VWork).noteOf e.w).map fun n => { n with faulted := e.pos == bad }

/-! ### The unit -/

/-- The work of a unit at its issue. -/
def State.unitWork (s : State) (q : Nat) : VWork :=
  let x := s.seq q
  let gs := groupsOf x.grant
  { s := s, orig := s, k := s.core (coreOf q), q := q, u := x.pc.q0, c := x.fctl, vt := x.csr.vtype, vl := x.csr.vl
    groups := (List.range gs.length).zip gs, skip := fun g => if x.resume then x.rstgRead g else 0, lim := fun _ => none }

/-- The state a work leaves: its core put back. -/
def VWork.state (w : VWork) : State := w.s.modCore (coreOf w.q) fun _ => w.k

/-- The state of a unit that waits: nothing has happened but the requests it has sent, the fills it has asked for and the banks it
has met. -/
def VWork.waiting (w : VWork) : State :=
  let y := w.s.seq w.q
  let s : State := { w.orig with requests := w.s.requests, ports := w.s.ports, hostLines := w.s.hostLines, backInval := w.s.backInval }
  (s.modSeq w.q fun x => { x with used := y.used, wide := y.wide }).fillMarks w.q

/-- A trap of a whole unit: nothing takes effect, and the restart registers are zero. -/
def VWork.noEffect (w : VWork) (es : List Placed) (pos cause : Nat) (tval : Option Word) : UnitRes :=
  let s := w.orig.sampleUnit w.q (w.noNotes es pos)
  .trap s { cause := cause, tval := tval.getD (w.orig.causeWord w.q cause pos), pos := pos, rstg := some (0, 0, 0, 0) }

/-- The trap of an element (R182): completed elements stand, or in a unit of R184 none. -/
def VWork.elementTrap (w : VWork) (es : List Placed) (fs : List VFault) (f : VFault) : UnitRes :=
  let t (r : Nat × Nat × Nat × Nat) : Trap :=
    { cause := f.cause, tval := f.tval, sub := f.sub, aside := f.aside, pos := f.word, eapc := f.eapc, rstg := some r }
  if es.any fun e => isWhole e.w then .trap (w.orig.sampleUnit w.q (w.noNotes es f.word)) (t (0, 0, 0, 0))
  else
    let notes := w.notes.map fun n => { n with faulted := fs.any fun g => g.word == n.word }
    .trap (w.state.sampleUnit w.q notes) (t (w.restart fs))

/-- A matrix word that ends a unit, other than mt.mul, after the words before it (R245 to R247). -/
def VWork.matrixEffect (w : VWork) (e : Placed) : MatRes :=
  let w := { w with word := e.pos, linked := false, vzIn := e.vzIn }
  let meets := { w with s := w.s.modSeq w.q fun x => { x with wide := true } }
  match e.w with
  | .mzero c => .ok { w with k := (w.k.setAcc c []).accClear c fun _ _ => true }
  | .mop sub c a b => w.runOuter sub c a b
  | .mrdrow c a sd => w.runReadRow false c a sd
  | .mrdcol c a sd => w.runReadRow true c a sd
  | .mwrrow c a sd => w.runWriteRow c a sd
  | .mst c sd => meets.runMst c sd
  | .mld c sd => meets.runMld c sd
  | _ => .ok w

/-- The sequencer after a segment of an mt.mul that more segments follow: the restart registers of a resumed unit have
served (R183). -/
def Seq.between (x : Seq) : Seq :=
  if x.resume then { x with resume := false, csr := { x.csr with rstg0 := 0, rstg1 := 0, rstg2 := 0, rstg3 := 0 } } else x

/-- A progress record without the sampled records that a trap entry has written. -/
def Progress.written (r : Progress) : Progress := { r with recs := [] }

/-- Writes the sampled records of an mt.mul's unit that it has not written yet: at its retirement or at a trap entry (R232). -/
def State.writeRecs (s : State) (q : Nat) : State :=
  match (s.core (coreOf q)).progress with
  | none => s
  | some r =>
    if r.recs.isEmpty ∨ (s.core (coreOf q)).holder ≠ some q then s
    else (s.sampleRecs q r.recs).modCore (coreOf q) fun k => { k with progress := k.progress.map Progress.written }

/-- One segment of the mt.mul that ends a unit, from `row` on (R250); `issued` says that the checks of its issue are to be made
(R249). The sampled records of the unit are written when it ends or traps (R232). -/
def VWork.mulUnit (w : VWork) (e : Placed) (ops : List Word) (row : Nat) (fresh issued : Bool) (recs : List (List Byte)) : UnitRes :=
  let w := { w with s := w.s.modSeq w.q fun x => { x with wide := true } }
  match e.w with
  | .mmul t c a b _ fn =>
    match (if issued then w.mulSetup t a fn ops row else w.mulRead a fn ops) with
    | .error (cs, tv) =>
      let keep := { w with k := { w.k with progress := some { unit := w.u, position := e.pos, row := row } } }
      .trap (keep.state.sampleRecs w.q recs)
        { cause := cs, tval := tv.getD (w.orig.causeWord w.q cs e.pos), pos := e.pos, rstg := some (0, 0, 0, 0) }
    | .ok u =>
      if u.kk ≤ row then .done (({ w with k := { w.k with progress := none } }).state.sampleRecs w.q recs) .on
      else
        match w.mulSegment u t c a b fn e.pos ops row fresh recs with
        | .done w => .done (w.state.sampleRecs w.q recs) .on
        | .more w => .wait (w.state.modSeq w.q Seq.between)
        | .trap w cs tv => .trap (w.state.writeRecs w.q) { cause := cs, tval := tv, pos := e.pos, rstg := some (0, 0, 0, 0) }
  | _ => .done w.state .on

/-- The operands that an mt.mul reads: s[sd] to s[sd + 4] (R248). -/
def VWork.mulOps (w : VWork) (e : Placed) : List Word :=
  match e.w with
  | .mmul _ _ _ _ sd _ => (List.range 5).map fun i => w.getS (sd + BitVec.ofNat 5 i)
  | _ => []

/-- Ends a unit whose vector words have run without a fault: the matrix word at its end, then retirement. -/
def VWork.finishUnit (w : VWork) (es : List Placed) : UnitRes :=
  match es.getLast? with
  | none => .done w.state .on
  | some e =>
    match e.w with
    | .mmul _ _ _ _ _ _ =>
      let s := w.s.modSeq w.q fun x => { x with csr := x.csr.setNpv {} }
      let r := s.countUnit w.q w.notes
      ({ w with s := r.1 }).mulUnit e (w.mulOps e) 0 true true r.2
    | _ =>
      if e.w.isMatrix then
        match w.matrixEffect e with
        | .ok w => .done (w.state.sampleUnit w.q w.notes) .on
        | .trap c tv => w.noEffect es e.pos c tv
      else .done (w.state.sampleUnit w.q w.notes) .on

/-- A unit that resumes at a stopped mt.mul (R251): the words before it do not run again, and after a stop it issues anew, its
operands read again. -/
def VWork.resumed (w : VWork) (es : List Placed) : Option UnitRes :=
  match w.k.progress, es.getLast? with
  | some r, some e =>
    if e.w.isMul ∧ r.unit = w.u ∧ r.position = e.pos ∧ w.k.holder = some w.q then
      let again := r.ops.isEmpty
      some (w.mulUnit e (if again then w.mulOps e else r.ops) r.row (!again && r.fresh) again r.recs)
    else none
  | _, _ => none

/-- Whether the matrix word that ends a unit must wait: a read of the scratchpad for the stores it must follow, but for those of its own
unit, which it does not see (R343); m.st until its stores may be performed (R162, R244, R344). -/
def VWork.matrixWaits (w : VWork) (es : List Placed) : Bool :=
  match es.getLast? with
  | none => false
  | some e =>
    match e.w with
    | .mst _ _ => !w.orig.padNow w.q
    | .mld _ _ => w.orig.padReadWaits w.q
    | .mmul _ _ _ _ _ _ =>
      let x := w.orig.seq w.q
      w.orig.strongOpen w.q || x.stores.any fun st => st.pad.isSome && st.unit != x.csr.units.toNat + 1
    | _ => false

/-- The releasing store of the unit that goes to a peer window: a failed peer store is raised there (R410, R411). -/
def VWork.releasesToPeer (w : VWork) (es : List Placed) : Option Placed :=
  es.find? fun e =>
    match e.w with
    | .store o =>
      o.ord == .sync && w.body.any fun p => w.active o.m p &&
        (match w.locate (w.eaOf o (w.unitMs o true false) p 0) (w.unitMs o true false) true false with
         | .ok (.glob t) => (match regionOf t.pa with | .peer _ => true | _ => false)
         | _ => false)
    | _ => false

/-- A unit of vector words, a matrix word last (R178, R182, R184, R190). -/
def vecUnit (ws : List CWord) (s : State) : Out :=
  runUnit s fun s q =>
    let x := s.seq q
    let w := s.unitWork q
    let es := placeFrom 0 false ws
    match es.find? fun e => !e.aligned w.vt with
    | some e => w.noEffect es e.pos 1 none
    | none =>
      match es.find? fun e => x.frozen || (x.tr.inTrap && e.w.isMatrix) with
      | some e => (s.sampleUnit q (w.noNotes es e.pos)).frozenTrap q e.pos
      | none =>
        match w.resumed es with
        | some r => if w.matrixWaits es then .wait s else r
        | none =>
          match w.checkAll es with
          | some (pos, c, tv) => w.noEffect es pos c tv
          | none =>
            let rel := w.releasesToPeer es
            match rel.bind fun e => if x.peerErr.isSome && !s.storesOpen q then (s.sampleUnit q (w.noNotes es e.pos)).peerFault q e.pos else none with
            | some r => r
            | none =>
              if w.matrixWaits es || (rel.isSome && s.storesOpen q) then .wait s
              else
              let w := { w with mul := es.any fun e => e.w.isMul }
              let (r, fs) := w.passes (es.filter fun e => !e.w.isMatrix) 6 []
              if r.wait then .wait r.waiting
              else
                match r.lowest fs with
                | some f => r.elementTrap es fs f
                | none => r.finishUnit es

end Sys2Proof.Machine
end

