-- ==== Sys2Proof/Machine/Engine.lean ====
section
/-!
DEFINITION. Sys2Proof/Machine/Engine.lean: the copy engine, the in-bank transforms and the barriers (12_cluster.md R264 to
R283, R286; 02_words_and_opcode_map.md R54, R55).
-/

namespace Sys2Proof.Machine

open Sys2Proof

/-! ### Events -/

/-- An event that the device itself or its outside brings about. -/
def event (s : State) (f : State → State) : Out := .next (f s).endStep

/-- What the host does through the function of partition `p`: after a failed boot no function but 0 appears (R391). -/
def hostEvent (p : Nat) (s : State) (f : State → State) : Out := event s fun s => if s.bootFailed && p != 0 then s else f s

/-- A 64-bit value that the spec leaves open (log 13). -/
def State.freeWord (s : State) : Word := BitVec.ofNat 64 (ofBytes (s.freeBytes 0 8))

/-! ### Operands of a command (R273 to R276) -/

/-- Bytes per row. -/
def EngCmd.len (k : EngCmd) : Nat := fld k.sc 0 17
/-- Rows of a command. -/
def EngCmd.rows (k : EngCmd) : Nat :=
  match k.op with
  | .copy | .gath | .scat => fld k.sc 17 12 + 1
  | .fill | .xf => 1
/-- Rotation code. -/
def EngCmd.rot (k : EngCmd) : Nat := fld k.sc 29 3
/-- Source pitch. -/
def EngCmd.spitch (k : EngCmd) : Nat := fld k.sc 32 16
/-- Destination pitch. -/
def EngCmd.dpitch (k : EngCmd) : Nat := fld k.sc 48 16
/-- Length of a fill. -/
def EngCmd.fillLen (k : EngCmd) : Nat := fld k.sa 22 23
/-- Operation of a transform. -/
def EngCmd.xop (k : EngCmd) : Nat := fld k.sc 0 4
/-- Elements, blocks or units of a transform. -/
def EngCmd.count (k : EngCmd) : Nat := fld k.sc 24 24
/-- Source format of a transform. -/
def EngCmd.fmt (k : EngCmd) : Option Fmt := Fmt.ofCode (k.sc.extractLsb' 8 8)
/-- Destination format of a transform. -/
def EngCmd.dfmt (k : EngCmd) : Option Fmt := Fmt.ofCode (k.sc.extractLsb' 16 8)
/-- Source of row `e`. -/
def EngCmd.src (k : EngCmd) (e : Nat) : Nat := (k.sb.toNat + e * k.spitch) % 2 ^ 64
/-- Destination of row `e`. -/
def EngCmd.dst (k : EngCmd) (e : Nat) : Nat := (k.sa.toNat + e * k.dpitch) % 2 ^ 64
/-- Address of entry `e` of the index list. -/
def EngCmd.entryAt (k : EngCmd) (e : Nat) : Nat :=
  ((match k.op with | .gath => k.sb | .scat => k.sa | .copy => 0 | .fill => 0 | .xf => 0).toNat + 8 * e) % 2 ^ 64

/-- Whether an address lies in the scratchpad. -/
def inPad (va : Nat) : Bool := windowOf va == .pad

/-! ### Checks (R271) -/

/-- Step 3 for a run: the cause. A run of no bytes has its start all the same. -/
def runOutside (va n : Nat) : Option Nat :=
  match windowOf va with
  | .lane => some 8
  | .outside => some 6
  | .global => if 2 ^ 56 < va + n then some 6 else none
  | .pad => if laneBase < va + n then some 6 else none
  | .padBeyond => if laneBase < va + n then some 6 else none

/-- Step 4 for a run: the cause. -/
def Pad.runBeyond (p : Pad) (va n : Nat) : Option Nat :=
  match windowOf va with
  | .padBeyond => some 7
  | .pad =>
    let o := va - padBase
    if padSize < o + n ∨ (n ≠ 0 ∧ !p.sameRegion (o / 2048) ((o + n - 1) / 2048)) then some 7 else none
  | .lane => none
  | .outside => none
  | .global => none

/-- Steps 3 and 4 over runs: cause and address of the first that fails. -/
def Pad.checkRuns (p : Pad) (rs : List (Nat × Nat)) : Option (Nat × Option Word) :=
  let hit (f : Nat → Nat → Option Nat) : Option (Nat × Option Word) :=
    rs.findSome? fun r => (f r.1 r.2).map fun c => (c, some (BitVec.ofNat 64 r.1))
  match hit runOutside with
  | some e => some e
  | none => hit p.runBeyond

/-- Whether a region word passes the check of R266. -/
def regionWordOk (w : Word) : Bool :=
  decide (fld w 0 11 + fld w 11 12 ≤ 2048) && fld w 39 25 == 0 && (fld w 23 8 == 0xFF || (Fmt.ofCode (w.extractLsb' 23 8)).isSome)

/-- The runs that a copy, gather or scatter names at issue: its index list, then each row's sides. -/
def EngCmd.runs (k : EngCmd) : List (Nat × Nat) :=
  let es := List.range k.rows
  match k.op with
  | .copy => (es.map fun e => [(k.dst e, k.len), (k.src e, k.len)]).flatten
  | .gath => (k.entryAt 0, 8 * k.rows) :: es.map fun e => (k.dst e, k.len)
  | .scat => (k.entryAt 0, 8 * k.rows) :: es.map fun e => (k.src e, k.len)
  | .fill => [(padBase + fld k.sa 0 22, k.fillLen)]
  | .xf => []

/-- A scratchpad run of a transform with its alignment. -/
structure XRun where
  off : Nat
  align : Nat
  len : Nat
deriving DecidableEq, Repr

/-- Whether an operation word breaks step 1 (R276). -/
def EngCmd.xfBad (k : EngCmd) : Bool :=
  let hi (w : Word) (b : Nat) : Bool := w.toNat / 2 ^ b != 0
  fld k.sc 4 4 != 0 || fld k.sc 48 16 != 0 ||
  match k.xop with
  | 0 => hi k.sa 22 || hi k.sb 22
  | 1 => hi k.sa 22 || hi k.sb 22 || k.fmt.isNone || k.dfmt.isNone
  | 2 => hi k.sa 22 || hi k.sb 32 || !(match k.fmt with | some (.ieee f) => f != .f64 | _ => false)
  | 3 => hi k.sa 22
  | 4 => hi k.sa 22 || hi k.sb 22 || !(k.fmt == some (.int true 5) || k.fmt == some (.ieee .f32))
  | 5 => hi k.sa 4 || !regionWordOk k.sb
  | _ => true

/-- Bytes of an element of a format. -/
def fmtBytes (f : Option Fmt) : Nat := match f with | some f => f.bytes | none => 1

/-- The run that a transform writes, and the one it reads (R276). -/
def EngCmd.xruns (k : EngCmd) : List XRun :=
  let n := k.count
  let a := fld k.sa 0 22
  let b := fld k.sb 0 22
  match k.xop with
  | 0 => [⟨a, 32, 256 * n⟩, ⟨b, 32, 256 * n⟩]
  | 1 => [⟨a, fmtBytes k.dfmt, fmtBytes k.dfmt * n⟩, ⟨b, fmtBytes k.fmt, fmtBytes k.fmt * n⟩]
  | 2 => [⟨a, 1, fmtBytes k.fmt * n⟩]
  | 3 => [⟨a, 32, 32 * n⟩]
  | 4 => [⟨a, 4, 4 * n⟩, ⟨b, 4, 4 * n⟩]
  | _ => []

/-- Whether a c.copy breaks the rule of its rotation: a row has both sides outside the scratchpad, whose window beyond 4 MiB is no part
of it (R263, R271, R273). -/
def EngCmd.rotBad (k : EngCmd) : Bool := k.rot != 0 && (List.range k.rows).any fun e => !inPad (k.dst e) && !inPad (k.src e)

/-- The checks of R271: the cause, and TVAL when it is an address (log 43). -/
def EngCmd.check (k : EngCmd) (p : Pad) : Option (Nat × Option Word) :=
  match k.op with
  | .copy =>
    if k.rotBad then some (12, none) else p.checkRuns k.runs
  | .gath =>
    if k.spitch ≠ 0 then some (12, none)
    else if k.sb.toNat % 8 ≠ 0 then some (3, some k.sb)
    else p.checkRuns k.runs
  | .scat =>
    if k.dpitch ≠ 0 then some (12, none)
    else if k.sa.toNat % 8 ≠ 0 then some (3, some k.sa)
    else p.checkRuns k.runs
  | .fill => if k.sa.toNat / 2 ^ 45 ≠ 0 then some (12, none) else p.checkRuns k.runs
  | .xf =>
    if k.xfBad then some (12, none)
    else
      match k.xruns.find? fun r => r.off % r.align != 0 with
      | some r => some (3, some (BitVec.ofNat 64 (padBase + r.off)))
      | none => p.checkRuns (k.xruns.map fun r => (padBase + r.off, r.len))

/-! ### Transforms (R276, R277) -/

/-- A number of the scratchpad, unrotated. -/
def Pad.num (p : Pad) (o n : Nat) : Nat := ofBytes (p.read 0 0 o n)
/-- Writes a number to the scratchpad, unrotated. -/
def Pad.setNum (p : Pad) (o n x : Nat) : Pad := p.write 0 0 o (toBytes n x)

/-- One 256-byte block of tr: 8 rows of 8 words, transposed. -/
def Pad.transpose (p : Pad) (d s : Nat) : Pad :=
  let b := p.read 0 0 s 256
  (List.range 64).foldl (fun (t : Pad) i => t.write 0 0 (d + 32 * (i % 8) + 4 * (i / 8)) ((b.drop (4 * i)).take 4)) p

/-- The scratchpad after the data operation of a transform, and the flags it raises (R276). cvt flushes subnormal results under flush_out
whatever its source's format, as R100 lists c.xf cvt whole; vcv.cvt, which R276 names for the element, flushes only those of an IEEE
source (DESIGN CHOICE, log 128). -/
def EngCmd.transform (k : EngCmd) (p : Pad) : Pad × FFlags :=
  let is := List.range k.count
  let a := fld k.sa 0 22
  let b := fld k.sb 0 22
  let c := FCtl.of k.fctl
  match k.xop, k.fmt, k.dfmt with
  | 0, _, _ => (is.foldl (fun (p : Pad) i => p.transpose (a + 256 * i) (b + 256 * i)) p, 0)
  | 1, some f, some g =>
    is.foldl (fun (t : Pad × FFlags) i =>
      let (x, fl) := convertElem f g c false (t.1.num (b + i * f.bytes) f.bytes)
      (t.1.setNum (a + i * g.bytes) g.bytes x, t.2 ||| fl)) (p, 0)
  | 2, some f, _ =>
    is.foldl (fun (t : Pad × FFlags) i =>
      let v := f.decode (t.1.num (a + i * f.bytes) f.bytes)
      let w := decodeIeee .f32 (fld k.sb 0 32)
      let (v1, f1) := flushVal f c v
      let (w1, f2) := flushVal (.ieee .f32) c w
      let (x, f3) := (mulEx v1 w1).round f c
      (t.1.setNum (a + i * f.bytes) f.bytes x, t.2 ||| f1 ||| f2 ||| f3)) (p, 0)
  | 3, _, _ => ((p.write 0 0 a (List.replicate (32 * k.count) 0)).clear 0 0 a (32 * k.count), 0)
  | 4, some f, _ =>
    is.foldl (fun (t : Pad × FFlags) i =>
      let x := t.1.num (a + 4 * i) 4
      let y := t.1.num (b + 4 * i) 4
      let (r, fl) := if f.isInt then ((x + y) % 2 ^ 32, 0) else fpAdd f FCtl.rne x y
      (t.1.setNum (a + 4 * i) 4 r, t.2 ||| fl)) (p, 0)
  | _, _, _ => (p, 0)

/-- The runs that a transform reads. -/
def EngCmd.xreads (k : EngCmd) : List XRun :=
  match k.xop with
  | 0 => k.xruns.drop 1
  | 1 => k.xruns.drop 1
  | 2 => k.xruns
  | 4 => k.xruns.drop 1 ++ k.xruns.take 1
  | _ => []

/-- The copy engine of a cluster reads or writes the scratchpad in this step (R265). -/
def State.engineMeets (s : State) (c : Nat) : State := s.modCluster c fun l => { l with engineAt := s.tick + 1 }

/-- Applies a transform's data operation in its sequencer's program order (R277): the command with its flags, or with
the error that ends it. -/
def State.applyXf (s : State) (c : Nat) (k : EngCmd) : State × EngCmd :=
  let p := s.pad c
  match k.xreads.findSome? fun r => p.bad 0 0 r.off r.len with
  | some o => (s, { k with err := some (19, BitVec.ofNat 64 (padBase + o / 32 * 32)) })
  | none =>
    match k.xruns with
    | [] => (s, { k with row := 1 })
    | r :: _ =>
      match (s.engineMeets c).logFlat k.partition k.launch k.log k.window 0x7FF c 1 (locsFrom r.off r.len) with
      | none => (s, { k with err := some (13, BitVec.ofNat 64 k.window) })
      | some s =>
        let (p, fl) := k.transform p
        (s.modPad c fun _ => p, { k with row := 1, flags := fl })

/-! ### Placing a command -/

/-- Notes that a sequencer uses a barrier in its window (R283). -/
def Seq.useBar (x : Seq) (b : Nat) : Seq := { x with barUsed := FMap.put x.barUsed b x.csr.winno.toNat }

/-- Commands a sequencer has outstanding (R270). -/
def Seq.outstanding (x : Seq) : Nat := (x.tags.map fun e => e.2.count).sum

/-- Whether a command is a c.xf, which the model runs as it is placed (R276, log 46). -/
def CmdOp.isXf : CmdOp → Bool
  | .xf => true
  | .copy => false
  | .gath => false
  | .scat => false
  | .fill => false

/-- Places a command (R269 to R271, log 46). A c.xf waits until its sequencer's earlier stores are performed. -/
def placeCmd (op : CmdOp) (sa sb sc : Reg) (tag : BitVec 3) (bar : BitVec 4) (s : State) : Out :=
  runUnit s fun s q =>
    let x := s.seq q
    let c := clusterOf q
    let k : EngCmd :=
      { id := (s.cluster c).nextCmd, owner := q, after := x.stores.length, op := op, sa := x.getS sa, sb := x.getS sb
        sc := x.getS sc, tag := tag.toNat, bar := bar.toNat, fctl := x.csr.fctl, asid := x.cur.asid
        partition := x.cur.partition, launch := x.cur.seq, log := x.cur.log, window := x.csr.winno.toNat }
    if 16 ≤ x.outstanding then .wait s
    else
      match k.check (s.pad c) with
      | some (cs, tv) => .trap s { cause := cs, tval := tv.getD (s.tvalWord q 0) }
      | none =>
        if op.isXf && s.storesOpen q then .wait s
        else
          let (s, k) := if op.isXf then s.applyXf c k else (s, k)
          let s := s.modSeq q fun x =>
            let g := FMap.get ({} : EngTag) x.tags k.tag
            { (if bar.toNat = 0 then x else x.useBar bar.toNat) with tags := FMap.set {} x.tags k.tag { g with count := g.count + 1 } }
          .done (s.modCluster c fun l => { l with cmds := l.cmds ++ [k], nextCmd := l.nextCmd + 1 }) .on

/-- `c.copy` (R273). -/
def execCCopy (a b c : Reg) (t : BitVec 3) (p : BitVec 4) (s : State) : Out := placeCmd .copy a b c t p s
/-- `c.gath` (R274). -/
def execCGath (a b c : Reg) (t : BitVec 3) (p : BitVec 4) (s : State) : Out := placeCmd .gath a b c t p s
/-- `c.scat` (R274). -/
def execCScat (a b c : Reg) (t : BitVec 3) (p : BitVec 4) (s : State) : Out := placeCmd .scat a b c t p s
/-- `c.xf` (R276). -/
def execCXf (a b c : Reg) (t : BitVec 3) (p : BitVec 4) (s : State) : Out := placeCmd .xf a b c t p s
/-- `c.fill` (R275). -/
def execCFill (a b : Reg) (t : BitVec 3) (p : BitVec 4) (s : State) : Out := placeCmd .fill a b 0 t p s

/-- `c.wait` (R279). -/
def execCWait (t : BitVec 3) (s : State) : Out :=
  runUnit s fun s q =>
    let g := FMap.get ({} : EngTag) (s.seq q).tags t.toNat
    if g.count ≠ 0 then .wait s
    else
      match s.tagFault q t.toNat with
      | some r => r
      | none => .done (s.modSeq q fun x => { x.orFlags g.flags with tags := FMap.set {} x.tags t.toNat {} }) .on

/-! ### Rows -/

/-- What the engine's read or write of a row comes to. -/
inductive EngRes (α : Type)
  | ok (v : α)
  | bad (cause : Nat) (addr : Word)
  | wait (s : State)

/-- A piece of a global run within one granule, translated. -/
structure Piece where
  pa : Nat
  va : Nat
  len : Nat
  attr : Word
  /-- First address of the mapping it lies in. -/
  base : Nat := 0
deriving DecidableEq, Repr

/-- Translates a global run piece by piece, within 256-byte granules and, in a window of requests, 128-byte lines. The
fuel bounds the pieces (log 44). -/
def State.pieces (s : State) (k : EngCmd) (acc : Acc) : Nat → Nat → Nat → Except (Nat × Word) (List Piece)
  | 0, _, _ => .ok []
  | f + 1, va, n =>
    if n = 0 then .ok []
    else
      let m := Nat.min n (128 - va % 128)
      match s.translate (coreOf k.owner) k.asid k.partition va m acc with
      | .error c => .error (c, BitVec.ofNat 64 va)
      | .ok t =>
        match State.pieces s k acc f ((va + m) % 2 ^ 64) (n - m) with
        | .error e => .error e
        | .ok l => .ok (⟨t.pa, va, m, t.attr, t.base⟩ :: l)

/-- Reads pieces for the engine. -/
def State.engReadPieces (s : State) (c : Nat) (k : EngCmd) : List Piece → EngRes (List Byte)
  | [] => .ok []
  | p :: rest =>
    let next (b : List Byte) : EngRes (List Byte) :=
      match State.engReadPieces s c k rest with
      | .ok r => .ok (b ++ r)
      | .bad c a => .bad c a
      | .wait s => .wait s
    if isRemote p.pa then
      match s.findReq (.engine c k.id) p.pa p.len with
      | none => .wait (s.request (.engine c k.id) p.pa p.len false (aOrd p.attr) [])
      | some r =>
        match r.answer with
        | none => .wait s
        | some .done => .wait s
        | some (.data b) => next ((b.drop (p.pa - r.pa)).take p.len)
        | some .refused => .bad 5 (BitVec.ofNat 64 p.va)
        | some .poison => .bad 19 (BitVec.ofNat 64 p.va)
        | some (.lost _) => .bad 20 (BitVec.ofNat 64 p.va)
    else if s.needsFill p.pa p.len (aStore p.attr == 1) then .wait (s.fillFor p.pa p.len (aStore p.attr == 1))
    else
      match s.badSector (c / 16) p.pa p.len with
      | some b => .bad 19 (BitVec.ofNat 64 (if b < p.pa then p.va - (p.pa - b) else p.va + (b - p.pa)))
      | none => next (s.readPhys p.pa p.len)

/-- The state in which a command waits while the table words that translate a run are filled; none when they need not be (R322,
R333). -/
def State.engTables (s : State) (k : EngCmd) (va n : Nat) : Option State :=
  if s.calm then none
  else
    (((List.range (n / 128 + 2)).map fun i => Nat.min (va + 128 * i) (va + n - 1) % 2 ^ 64).find? fun a => s.walkWaits (coreOf k.owner) k.asid a).map
      fun a => s.fillWalk (coreOf k.owner) k.asid a

/-- Reads a run for the engine: scratchpad under a rotation, or global. -/
def State.engRead (s : State) (c : Nat) (k : EngCmd) (va n rot r : Nat) : EngRes (List Byte) :=
  if inPad va then
    let o := va - padBase
    match (s.pad c).bad rot r o n with
    | some b => .bad 19 (BitVec.ofNat 64 (padBase + b / 32 * 32))
    | none => .ok ((s.pad c).read rot r o n)
  else
    match s.engTables k va n with
    | some s => .wait s
    | none =>
    match s.pieces k .read (n / 128 + 2) va n with
    | .error (c, a) => .bad c a
    | .ok l => s.engReadPieces c k l

/-- Joins neighbouring pieces that one log record may hold: consecutive, of one page and one home die, and no more elements than its
count can say (R306). -/
def joinPieces : List Piece → List Piece
  | [] => []
  | p :: rest =>
    match joinPieces rest with
    | [] => [p]
    | q :: rs =>
      if p.pa + p.len = q.pa ∧ p.base = q.base ∧ homeDie p.pa = homeDie q.pa ∧ escapeOf p.attr p.pa = escapeOf q.attr q.pa
          ∧ p.len + q.len ≤ 65535
      then ⟨p.pa, p.va, p.len + q.len, p.attr, p.base⟩ :: rs
      else p :: q :: rs

/-- Logs the pieces that the engine is about to write (R272, R306, R307); none when a ring is full. -/
def State.logPieces (c : Nat) (k : EngCmd) (kind : Nat) : List Piece → State → Option State
  | [], s => some s
  | p :: rest, s =>
    let esc := escapeOf p.attr p.pa
    let locs := locsFrom p.pa p.len
    let r : LogRec := if esc ≠ 0 then escapeRec 0x7FF k.window esc p.pa p.len
      else
        { kind := kind, space := 0, writer := 0x7FF, window := k.window, addr := p.pa, extra := kindExtra kind p.len, locs := locs
          old := s.homeBytes (.engine c k.id) locs, size := kindSize kind (kindExtra kind p.len) p.len }
    match s.appendRec k.partition k.launch (homeDie p.pa) r with
    | none => none
    | some s => State.logPieces c k kind rest s

/-- Writes bytes over pieces. -/
def State.writePieces (o : Owner) : List Piece → List Byte → State → State
  | [], _, s => s
  | p :: rest, b, s =>
    State.writePieces o rest (b.drop p.len) (s.writeOut o p.pa (b.take p.len) (aOrd p.attr) (aStore p.attr == 1) p.va)

/-- Whether a write to pieces must first wait for the host, a migration or the copying of a row; the state with what is sent for it. -/
def State.mustHold (s : State) (ps : List Piece) : Option State :=
  if ps.any fun p => !isRemote p.pa && (s.isFrozen p.pa || s.writeHeld p.pa) then some s
  else
    match ps.find? fun p => !isRemote p.pa && s.hostHolds p.pa with
    | some p => some (s.sendBackInval p.pa)
    | none => none

/-- The state that a logging command waits in while the log engine reads the old bytes of a host frame at its home (R305). -/
def State.engOld (s : State) (c : Nat) (k : EngCmd) : List Piece → Option State
  | [] => none
  | p :: rest =>
    if k.log ≠ 0 ∧ isRemote p.pa ∧ escapeOf p.attr p.pa = 0 then
      match s.findReq (.engine c k.id) p.pa p.len with
      | none => some (s.request (.engine c k.id) p.pa p.len false (aOrd p.attr) [])
      | some r => if r.answer.isNone then some s else State.engOld s c k rest
    else State.engOld s c k rest

/-- Writes a row for the engine, whole or not at all (R272): scratchpad under a rotation, or global. -/
def State.engWrite (s : State) (c : Nat) (k : EngCmd) (kind0 va rot r : Nat) (bytes : List Byte) (clear : Bool) : EngRes State :=
  let n := bytes.length
  let kind := runKind kind0 n
  let full : EngRes State := .bad 13 (BitVec.ofNat 64 k.window)
  if inPad va then
    let o := va - padBase
    match s.logFlat k.partition k.launch k.log k.window 0x7FF c kind0 ((locsFrom o n).map (rotate rot r)) with
    | none => full
    | some s =>
      .ok (s.modPad c fun p =>
        let p := p.write rot r o bytes
        if clear then p.clear rot r o n else p)
  else
    match s.engTables k va n with
    | some s => .wait s
    | none =>
    match s.pieces k .write (n / 128 + 2) va n with
    | .error (c, a) => .bad c a
    | .ok l =>
      if l.any fun p => aStore p.attr == 3 then .bad 5 (BitVec.ofNat 64 va)
      else
        match (match s.mustHold l with | some s => some s | none => s.engOld c k l) with
        | some s => .wait s
        | none =>
          match (if k.log = 0 then some s else State.logPieces c k kind (joinPieces l) s) with
          | none => full
          | some s => .ok (State.writePieces (.engine c k.id) l bytes s)

/-- A block-table entry (R274): the row's address, whether it is skipped with zeros, whether it stops; none breaks a
must-be-zero field. -/
def entryRow (w : Word) : Option (Nat × Bool × Bool) :=
  let sp := w.getLsbD 56
  if fld w 59 5 ≠ 0 ∨ (sp ∧ fld w 22 34 ≠ 0) then none
  else some (if sp then padBase + fld w 0 22 else fld w 0 56, w.getLsbD 57, w.getLsbD 58)

/-- The error that ends a command. -/
def EngCmd.fail (k : EngCmd) (c : Nat) (a : Word) : EngCmd := { k with err := some (c, a) }

/-- Moves one row between its two sides (R273). -/
def State.moveRow (s : State) (c : Nat) (k : EngCmd) (src dst : Nat) (zero : Bool) : State × EngCmd :=
  let rd := if inPad dst then k.rot else 0
  let rs := if inPad dst then 0 else k.rot
  let s := if inPad dst || (!zero && inPad src) then s.engineMeets c else s
  match (if zero then .ok (List.replicate k.len 0) else s.engRead c k src k.len rs k.row) with
  | .bad cs a => (s, k.fail cs a)
  | .wait s => (s, k)
  | .ok b =>
    match s.engWrite c k (match k.op with | .scat => 4 | .copy => 3 | .gath => 3 | .fill => 1 | .xf => 1) dst rd k.row b
        (match k.op with | .scat => false | .copy => true | .gath => true | .fill => true | .xf => false) with
    | .bad cs a => (s, k.fail cs a)
    | .wait s => (s, k)
    | .ok s =>
      let s := s.dropReads (.engine c k.id)
      if s.requests.any fun r => r.owner == Owner.engine c k.id then (s, { k with sent := true }) else (s, { k with row := k.row + 1 })

/-- The next row of a gather or scatter: its entry is read and checked as the engine reaches it (R274, R278). -/
def State.indexedRow (s : State) (c : Nat) (k : EngCmd) : State × EngCmd :=
  let e := k.row
  let at_ := k.entryAt e
  let here : Word := BitVec.ofNat 64 at_
  let s := if inPad at_ then s.engineMeets c else s
  match s.engRead c k at_ 8 0 0 with
  | .bad cs a => (s, k.fail cs a)
  | .wait s => (s, k)
  | .ok b =>
    let w : Word := BitVec.ofNat 64 (ofBytes b)
    if w.getLsbD 58 then (s, { k with stopRow := true })
    else
      match entryRow w with
      | none => (s, k.fail 12 here)
      | some (row, zero, _) =>
        match (s.pad c).checkRuns [(row, k.len)] with
        | some (cs, a) => (s, k.fail cs (a.getD here))
        | none =>
          let gath := match k.op with | .gath => true | .scat => false | .copy => false | .fill => false | .xf => false
          let src := if gath then row else k.src e
          let dst := if gath then k.dst e else row
          if !gath && zero then (s, { k with row := e + 1 })
          else if k.rot ≠ 0 ∧ !inPad src ∧ !inPad dst then (s, k.fail 12 here)
          else s.moveRow c k src dst zero

/-- The bytes of a fill (R275). -/
def fillBytes (pat : Word) (o n : Nat) : List Byte := (List.range n).map fun i => pat.extractLsb' (8 * ((o + i) % 8)) 8

/-- One row of a command. -/
def State.engRow (s : State) (c : Nat) (k : EngCmd) : State × EngCmd :=
  match k.op with
  | .copy => s.moveRow c k (k.src k.row) (k.dst k.row) false
  | .gath => s.indexedRow c k
  | .scat => s.indexedRow c k
  | .fill =>
    let o := fld k.sa 0 22
    (match (s.engineMeets c).engWrite c k 1 (padBase + o) 0 0 (fillBytes k.sb o k.fillLen) true with
     | .bad cs a => (s, k.fail cs a)
     | .wait s => (s, k)
     | .ok s => (s, { k with row := 1 }))
  | .xf => (s, k)

/-- A command of a cluster by its number. -/
def State.cmd? (s : State) (c id : Nat) : Option EngCmd := (s.cluster c).cmds.find? fun k => k.id == id

/-- Replaces a command of a cluster. -/
def State.setCmd (s : State) (c : Nat) (k : EngCmd) : State :=
  s.modCluster c fun l => { l with cmds := l.cmds.map fun o => if o.id = k.id then k else o }

/-- Whether a command may act: neither paused nor held by a halt or a recovery, its sequencer's earlier stores committed (R269, R284,
R302, R311, R313). -/
def State.cmdFree (s : State) (c : Nat) (k : EngCmd) : Bool :=
  let l := s.cluster c
  !k.paused && !l.halted && !s.heldBack k.log k.partition k.launch && k.after == 0 && !s.writesOpen (.seq k.owner)
    && (match s.launch? k.partition k.launch with | some m => !m.recovering | none => true)

/-- Whether a command has a row to end, or a row to move; a row in flight goes on through a pause and a failure (R23, R272, R311). -/
def State.rowReady (s : State) (c : Nat) (k : EngCmd) : Bool :=
  (k.sent || ((s.cmdFree c k || s.inFlight c k) && k.err.isNone && !k.stopRow && decide (k.row < k.rows)))
    && !(s.requests.any fun r => r.owner == Owner.engine c k.id && r.answer.isNone)

/-- Whether a command may complete: all rows moved or an error met, its writes performed. -/
def State.endReady (s : State) (c : Nat) (k : EngCmd) : Bool :=
  s.cmdFree c k && !k.sent && (k.err.isSome || k.stopRow || decide (k.rows ≤ k.row)) && !s.writesOpen (.engine c k.id)

/-- What the writes of a row sent to a window have come to: the first that failed (R278, R411). -/
def State.rowError (s : State) (c : Nat) (k : EngCmd) : Option (Nat × Word) :=
  s.requests.findSome? fun r =>
    if r.owner = Owner.engine c k.id ∧ r.write then
      match r.answer with
      | some (.lost _) => some (20, BitVec.ofNat 64 r.va)
      | some .refused => some (5, BitVec.ofNat 64 r.va)
      | some .poison => some (19, BitVec.ofNat 64 r.va)
      | some (.data _) => none
      | some .done => none
      | none => none
    else none

/-- The answers of a row's writes are in: the row counts, or its error ends the command there (R272, R278). -/
def State.endRow (s : State) (c : Nat) (k : EngCmd) : State × EngCmd :=
  let k1 := match s.rowError c k with
    | some e => { k with sent := false, err := match k.err with | some f => some f | none => some e }
    | none => { k with sent := false, row := k.row + 1 }
  ({ s with requests := s.requests.filter fun r => r.owner != Owner.engine c k.id }, k1)

/-- A command of a launch that has failed, once it has no row in flight, signals its barrier with its committed rows and the error bit,
and is gone; then its launch's failure may go on (R23). -/
def State.endEnding (s : State) (c : Nat) (k : EngCmd) : State :=
  if k.ending && !s.inFlight c k then
    ((s.modCluster c fun l => { l with cmds := l.cmds.filter fun o => o.id != k.id }).signal c k.bar k.row true).finishFailing
  else s

/-- What a command comes to in its row: an error ends its requests. -/
def State.endsRow (s : State) (c : Nat) (k : EngCmd) : State :=
  if k.err.isSome then { s with requests := s.requests.filter fun r => r.owner != Owner.engine c k.id } else s

/-- `ENGINE_ROW` (R272). -/
def execEngineRow (c id : Nat) (s : State) : Out :=
  event s fun s =>
    match s.cmd? c id with
    | none => s
    | some k =>
      if s.rowReady c k then
        let (s, k) := if k.sent then s.endRow c k else s.engRow c k
        ((s.endsRow c k).setCmd c k).endEnding c k
      else s

/-- The region word of a c.xf takes effect at its completion, logged first (R267, R306). -/
def State.completeRegion (s : State) (c : Nat) (k : EngCmd) : State × EngCmd :=
  let n := fld k.sa 0 4
  let write (s : State) : State := s.modPad c fun p => { p with region := FMap.set 0 p.region n k.sb }
  if k.log = 0 then (write s, k)
  else
    match s.appendRec k.partition k.launch (c / 16)
        { kind := 5, space := 1, writer := 0x7FF, window := k.window, addr := 16 * c + n
          old := toBytes 8 ((s.pad c).regionWord n).toNat, size := recSize 8 } with
    | none => (s, { k with err := some (13, BitVec.ofNat 64 k.window), row := 0 })
    | some s => (write s, k)

/-- Ends a command: its tag, its barrier (R272, R278). -/
def State.endCmd (s : State) (c : Nat) (k : EngCmd) : State :=
  let err := k.err
  let s := { s with requests := s.requests.filter fun r => r.owner != Owner.engine c k.id }
  let s := s.modSeq k.owner fun x =>
    let g := FMap.get ({} : EngTag) x.tags k.tag
    let g := { g with count := g.count - 1, flags := g.flags ||| k.flags }
    let g := match err with | some (cs, a) => if g.cause = 0 then { g with cause := cs, addr := a } else g | none => g
    { x with tags := FMap.set {} x.tags k.tag g }
  let s := s.modCluster c fun l => { l with cmds := l.cmds.filter fun o => o.id != k.id }
  s.signal c k.bar k.row err.isSome

/-- `ENGINE_COMPLETE` (R272). -/
def execEngineComplete (c id : Nat) (s : State) : Out :=
  event s fun s =>
    match s.cmd? c id with
    | none => s
    | some k =>
      if s.endReady c k then
        let region := match k.op with | .xf => k.xop == 5 && k.err.isNone | .copy => false | .gath => false | .scat => false | .fill => false
        let (s, k) := if region then s.completeRegion c k else (s, k)
        s.endCmd c k
      else s

/-- `ENGINE_FAULT`: every command in flight ends with cause 19 at its next row (R286). The address is a free value (log 45). -/
def execEngineFault (c : Nat) (s : State) : Out :=
  event s fun s =>
    s.modCluster c fun l => { l with cmds := l.cmds.map fun k => if k.err.isNone then k.fail 19 s.freeWord else k }

/-! ### Barriers (R281, R282) -/

/-- The word that cb.st returns. -/
def Barrier.word (b : Barrier) : Word :=
  BitVec.ofNat 64 (b.target + 2 ^ 16 * b.count + (if b.phase then 2 ^ 32 else 0) + (if b.error then 2 ^ 33 else 0) + 2 ^ 34 * b.last)

/-- Watches the present phase of a barrier. -/
def Seq.watch (x : Seq) (b : Nat) (phase : Bool) : Seq := { x with watched := FMap.put x.watched b phase }

/-- `cb.set` (R282). -/
def execCbSet (a b : Reg) (s : State) : Out :=
  runUnit s fun s q =>
    let v := ((s.seq q).getS a).toNat
    let c := clusterOf q
    if v = 0 ∨ 65535 < v then s.wordTrap q 12
    else
      let s := s.modSeq q fun x => (x.useBar b.toNat).watch b.toNat (s.barrier c b.toNat).phase
      .done (s.modBarrier c b.toNat fun r => ({ r with target := v }).test false) .on

/-- An arrival: it releases the sequencer's earlier accesses, so its stores are performed first (R281). -/
def State.arrive (s : State) (q b : Nat) : State :=
  let c := clusterOf q
  let s := s.modSeq q fun x => (x.useBar b).watch b (s.barrier c b).phase
  s.modBarrier c b fun r => r.add 1 false

/-- `cb.arr` (R282). -/
def execCbArr (b : Reg) (s : State) : Out :=
  runUnit s fun s q => if s.storesOpen q then .wait s else .done (s.arrive q b.toNat) .on

/-- Waits for the watched phase of a barrier to pass, watching the present one when none is held. -/
def State.waitBar (s0 : State) (q b : Nat) : UnitRes :=
  let s := s0.modSeq q fun x => x.useBar b
  let p := (s.barrier (clusterOf q) b).phase
  match FMap.find? (s.seq q).watched b with
  | none => .wait (s.modSeq q fun x => x.watch b p)
  | some w =>
    if w = p then .wait s
    else
      .done (s.modSeq q fun x =>
        { x with watched := FMap.erase x.watched b, arrived := x.arrived.filter fun e => e != (b, x.pc.q0) }) .on

/-- `cb.wt` (R282). -/
def execCbWt (b : Reg) (s : State) : Out := runUnit s fun s q => s.waitBar q b.toNat

/-- `cb.arw`: an arrival that has counted is not repeated (R282). -/
def execCbArw (b : Reg) (s : State) : Out :=
  runUnit s fun s q =>
    let x := s.seq q
    if x.arrived.contains (b.toNat, x.pc.q0) then s.waitBar q b.toNat
    else if s.storesOpen q then .wait s
    else
      let s := (s.arrive q b.toNat).modSeq q fun x => { x with arrived := (b.toNat, x.pc.q0) :: x.arrived }
      s.waitBar q b.toNat

/-- `cb.st` (R282). -/
def execCbSt (d b : Reg) (s : State) : Out :=
  runUnit s fun s q => .done (s.modSeq q fun x => x.setS d (s.barrier (clusterOf q) b.toNat).word) .on

end Sys2Proof.Machine
end

