-- ==== Sys2Proof/Machine/Submit.lean ====
section
/-!
DEFINITION. Sys2Proof/Machine/Submit.lean: acceptance of launch packets from a window and from k.launch, the launch windows,
the journal's tail, the doorbell, the interrupt mask and the hints (06_sequencer_instructions.md R163;
19_launch_tenancy.md R371 to R374, R390; 02_words_and_opcode_map.md R27, R58).
-/

namespace Sys2Proof.Machine

open Sys2Proof

/-! ### Acceptance (R371, R372, R374) -/

/-- The next sequence number: 0 is skipped when they wrap (R373). -/
def nextSeq (n : BitVec 32) : BitVec 32 := if n + 1 = 0 then 1 else n + 1

/-- Whether a sequence number lies below the tail of a partition's journal, numbers taken around their wrap (log 53). -/
def Part.belowTail (b : Part) (n : Nat) : Bool :=
  decide ((b.jhead - b.jtail).toNat ≤ (BitVec.ofNat 32 n - b.jtail).toNat)

/-- Whether a prerequisite is known: none, or from jtail up to jhead (R372). -/
def Part.knows (b : Part) (n : Nat) : Bool := n == 0 || !b.belowTail n

/-- Whether the journal entry that jhead uses is free (R374). -/
def State.entryFree (s : State) (p : Nat) : Bool :=
  let b := s.part p
  s.launches.all fun e =>
    !(e.1 / 2 ^ 32 == p && e.1 % 4096 == b.jhead.toNat % 4096)
      || (b.belowTail (e.1 % 2 ^ 32) && (e.2.lstate == 4 || e.2.lstate == 5))

/-- Accepted launches of a partition and priority that are not yet bound. -/
def State.queued (s : State) (p prio : Nat) : Nat :=
  ((FMap.get [] (s.part p).queues prio).filter fun n =>
    match s.launch? p n with | some l => l.lstate == 1 | none => false).length

/-- ASID range of a partition's configuration (R386). -/
def Part.hasAsid (b : Part) (a : Nat) : Bool := decide (fld (b.cfgWord 1) 0 16 ≤ a ∧ a ≤ fld (b.cfgWord 1) 16 16)
/-- Weight of a partition (R386). -/
def Part.weight (b : Part) : Nat := fld (b.cfgWord 2) 0 8
/-- Clusters of a partition, ascending (R386). -/
def Part.clusters (b : Part) : List Nat := bitsSet 0 32 (fld (b.cfgWord 0) 0 32)

/-- Whether the packet's own fields are in order (R371, R372). -/
def packetOk (w0 w1 : Word) : Bool :=
  fld w1 56 2 != 3 && fld w1 60 4 == 0 && fld w0 0 2 == 0 && fld w1 0 3 == 0

/-- The code of R163 with which a packet is answered, checks in the order of R372. `own` is the issuer's sequence number for
k.launch, none for a window, whose ASID is `asid`. -/
def State.acceptCode (s : State) (p : Nat) (own : Option Nat) (asid prio : Nat) (pk : List Word) : Nat :=
  let b := s.part p
  let w (k : Nat) : Word := pk.getD k 0
  let known (n : Nat) : Bool := b.knows n || own == some n
  if b.weight = 0 then 6
  else if !packetOk (w 0) (w 1) then 2
  else if own.isNone && !(b.hasAsid asid && (s.asidEntry asid).valid) then 2
  else if own.isSome && !(b.cfgWord 2).getLsbD 8 then 5
  else if !known (fld (w 3) 0 32) || !known (fld (w 3) 32 32) then 4
  else if (w 1).getLsbD 59 && b.clusters.isEmpty then 3
  else if 256 ≤ s.queued p prio || !s.entryFree p then 1
  else 0

/-- Outcome of a prerequisite at acceptance (R11). -/
def State.outcome (s : State) (p n : Nat) : Nat :=
  if n = 0 then 1
  else match s.launch? p n with
    | some l => if l.lstate = 4 then 1 else if l.lstate = 5 then 2 else 0
    | none => 1

/-- Word 0 of a packet with its partition and priority replaced (R163, R371, log 54). -/
def packetWord0 (w : Word) (p prio : Nat) : Word :=
  BitVec.ofNat 64 (fld w 0 56 + p * 2 ^ 56 + prio * 2 ^ 61 + fld w 63 1 * 2 ^ 63)

/-- Takes a packet whose code is 0: the launch with its journal entry, the parameter copy, and its place in its queue. -/
def State.enroll (s : State) (p asid preload prio : Nat) (byK : Bool) (pk : List Word) : State :=
  let b := s.part p
  let n := b.jhead.toNat
  let pk := packetWord0 (pk.getD 0 0) p prio :: pk.drop 1
  let l : Launch :=
    { packet := pk, asid := asid, preload := preload, byK := byK, prio := prio, time := s.now }
  let l := { l with pre0 := s.outcome p l.prereq0, pre1 := s.outcome p l.prereq1 }
  let gone (e : Nat × Launch) : Bool := e.1 / 2 ^ 32 == p && e.1 % 4096 == n % 4096
  let s1 := { s with launches := FMap.put (s.launches.filter fun e => !gone e) (launchKey p n) l }
  let s1 := s1.modPart p fun b =>
    { b with jhead := nextSeq b.jhead, queues := FMap.set [] b.queues prio (FMap.get [] b.queues prio ++ [n]) }
  let s1 := s1.pokeVa 0 asid (0xFFFF0000000000 + n % 4096 * 64) l.packetBytes
  (s1.journal p n).failDependents p (s1.launches.length)

/-- The answer word of R163 and R373, without the new bit. -/
def answerWord (code n : Nat) : Word :=
  BitVec.ofNat 64 (if code = 0 then n else code * 2 ^ 32 + 2 ^ 63)

/-- The 8-byte words of a string. -/
def wordsOf (b : List Byte) (n : Nat) : List Word := (List.range n).map fun i => BitVec.ofNat 64 (bytesNat b (8 * i) 8)

/-! ### k.launch (R163) -/

/-- `k.launch` (R163, log 55). -/
def execKLaunch (d a : Reg) (s : State) : Out :=
  runUnit s fun s q =>
    let x := s.seq q
    let va := x.getS a
    let p := x.cur.partition
    if va.toNat % 64 ≠ 0 then .trap s { cause := 3, tval := va }
    else if s.storesOpen q then .wait s
    else
      match s.readVa q va.toNat 64 with
      | .wait s => .wait s
      | .bad c v => .trap s { cause := c, tval := v }
      | .ok bytes =>
        let pk := wordsOf bytes 8
        let (prio, pre) := match s.launch? p x.cur.seq with
          | some l => (Nat.min (fld (pk.getD 0 0) 61 2) l.prio, l.preload)
          | none => (Nat.min (fld (pk.getD 0 0) 61 2) x.cur.prio, x.cur.preload)
        let code := s.acceptCode p (some x.cur.seq) x.cur.asid prio pk
        let n := (s.part p).jhead.toNat
        let answer (s : State) : UnitRes := .done (s.modSeq q fun x => x.setS d (answerWord code n)) .on
        if code ≠ 0 then answer s
        else
          let at_ := (s.part p).jbase + n % 4096 * 64
          match s.escape q (homeDie at_) 6 at_ 64 with
          | none => s.logFull q
          | some s => answer (s.enroll p x.cur.asid pre prio true pk)

/-! ### Launch windows (R370, R373) -/

/-- Writes the answer of a window. -/
def State.setLstat (s : State) (p w : Nat) (v : Word) : State :=
  s.modPart p fun b => { b with lstat := FMap.set 0 b.lstat w (v ||| 0x4000000000000000) }

/-- `LAUNCH_WINDOW_WRITE` (R373). -/
def execLaunchWindowWrite (p off : Nat) (bytes : List Byte) (s : State) : Out :=
  hostEvent p s fun s =>
    let w := off / 64
    if 256 ≤ off then s
    else if off % 64 ≠ 0 ∨ bytes.length ≠ 64 then s.setLstat p w (answerWord 2 0)
    else
      let pk := wordsOf bytes 8
      let b := s.part p
      let asid := FMap.get 0 b.lasid w
      let prio := fld (pk.getD 0 0) 61 2
      let code := s.acceptCode p none asid prio pk
      let s := s.setLstat p w (answerWord code b.jhead.toNat)
      if code = 0 then s.enroll p asid (FMap.get 0 b.lpre w) prio false pk else s

/-- `LSTAT_READ`: the new bit is cleared by the read (R373). -/
def execLstatRead (p w : Nat) (s : State) : Out :=
  hostEvent p s fun s => s.modPart p fun b =>
    { b with lstat := FMap.set 0 b.lstat w (FMap.get 0 b.lstat w &&& ~~~ 0x4000000000000000) }

/-- `JTAIL_WRITE`: a value below the present one or above jhead is ignored (R374). -/
def execJtailWrite (p : Nat) (v : BitVec 32) (s : State) : Out :=
  hostEvent p s fun s => s.modPart p fun b =>
    if (v - b.jtail).toNat ≤ (b.jhead - b.jtail).toNat then { b with jtail := v } else b

/-- `DOORBELL_WRITE`: interrupt 2 of every running sequencer of the launch (R135, R390). -/
def execDoorbellWrite (p : Nat) (v : BitVec 32) (s : State) : Out :=
  hostEvent p s fun s => (s.seqsOf p v.toNat).foldl (fun (s : State) q =>
    s.modSeq q fun x => { x with tr := { x.tr with dbpend := true } }) s

/-- `INTERRUPT_MASK_WRITE`: vectors held so far whose bit is now 1 are delivered (R390). -/
def execInterruptMaskWrite (p : Nat) (v : BitVec 4) (s : State) : Out :=
  hostEvent p s fun s => s.modPart p fun b =>
    let go := b.undelivered &&& v
    { b with
      imask := v, undelivered := b.undelivered &&& ~~~ v
      delivered := b.delivered ++ (bitsSet 0 4 go.toNat).map fun k => 4 * p + k }

/-! ### Hints (R27, R58) -/

/-- Fills every sector of the line of an address into its die cache. -/
def State.fillLines (s : State) (pa : Nat) (comp : Bool) : State :=
  let s := (List.range 4).foldl (fun (s : State) k => s.fillSector (pa / 128) k comp) s
  let o := FMap.get ({} : LineState) s.lines (pa / 128)
  { s with lines := FMap.set {} s.lines (pa / 128) { o with comp := o.comp || comp } }

/-- Prefetches a range line by line under an ASID, dropping what does not translate; the fuel bounds the lines. -/
def State.prefetch (core asid p : Nat) : Nat → State → Nat → Nat → State
  | 0, s, _, _ => s
  | f + 1, s, va, n =>
    if n = 0 then s
    else
      let k := Nat.min n (128 - va % 128)
      let s := if windowOf va ≠ .global then s
        else match s.translate core asid p va k .read with
          | .error _ => s
          | .ok x => if regionOf x.pa = .device ∧ !s.rowHeld x.pa then s.fillLines x.pa (aStore x.attr == 1) else s
      State.prefetch core asid p f s ((va + k) % 2 ^ 64) (n - k)

/-- `h.pf` (R58). -/
def execHPf (_d a b : Reg) (s : State) : Out :=
  runUnit s fun s q =>
    let x := s.seq q
    let n := Nat.min (x.getA b).toNat 65536
    .done (State.prefetch (coreOf q) x.cur.asid x.cur.partition (n / 128 + 2) s (x.getA a).toNat n) .on

/-- `h.pfs`: operand buffers hold no architectural state (R27, R58). -/
def execHPfs (_d _a _b : Reg) (s : State) : Out := runUnit s fun s _ => .done s .on

/-- Any other hint is a no-operation (R27). -/
def execHNop (_d _a _b : Reg) (_fn : BitVec 11) (s : State) : Out := runUnit s fun s _ => .done s .on

end Sys2Proof.Machine
end

