-- ==== Sys2Proof/Machine/Egress.lean ====
section
/-!
DEFINITION. Sys2Proof/Machine/Egress.lean: k.egress and the mark unit, and attestation (06_sequencer_instructions.md R164;
19_launch_tenancy.md R393 to R397).
-/

namespace Sys2Proof.Machine

open Sys2Proof

/-- An egress descriptor (R394). -/
structure EDesc where
  luma : Nat
  pitch : Nat
  width : Nat
  height : Nat
  depth : Nat
  close : Bool
  open_ : Bool
  lo : Nat
  hi : Nat
  chroma : Nat
  clen : Nat
  dest : Nat
  mdest : Nat
deriving DecidableEq, Repr

/-- The fields of a descriptor. -/
def readEDesc (b : List Byte) : EDesc where
  luma := bytesNat b 0 8
  pitch := bytesNat b 8 4
  width := bytesNat b 12 2
  height := bytesNat b 14 2
  depth := bytesNat b 16 1
  close := bytesNat b 17 1 % 2 == 1
  open_ := bytesNat b 17 1 / 2 % 2 == 1
  lo := bytesNat b 18 2
  hi := bytesNat b 20 2
  chroma := bytesNat b 24 8
  clen := bytesNat b 32 4
  dest := bytesNat b 40 8
  mdest := bytesNat b 48 8

/-- Whether every field lies within its limits (R394). -/
def eDescOk (b : List Byte) : Bool :=
  let d := readEDesc b
  let side (n : Nat) : Bool := n % 8 == 0 && decide (8 ≤ n ∧ n ≤ 8192)
  side d.width && side d.height && (d.depth == 8 || d.depth == 10) && decide (bytesNat b 17 1 < 4)
    && decide (d.lo < d.hi ∧ d.hi < 2 ^ d.depth) && bytesNat b 22 2 == 0 && bytesNat b 36 4 == 0 && bytesNat b 56 8 == 0

/-- Bytes of a sample. -/
def EDesc.sampleBytes (d : EDesc) : Nat := if d.depth = 8 then 1 else 2
/-- Bytes of a row. -/
def EDesc.rowBytes (d : EDesc) : Nat := d.width * d.sampleBytes
/-- Bytes of a frame as it is sent. -/
def EDesc.total (d : EDesc) : Nat := d.rowBytes * d.height + d.clen
/-- Bytes of a manifest (R396). -/
def manifestSize : Nat := 128 + 49856

/-- Whether a range of host addresses lies in the partition's egress range and in the host window (R316, R386). -/
def Part.egressRange (b : Part) (a n : Nat) : Bool :=
  decide ((b.cfgWord 6).toNat ≤ a ∧ a + n ≤ (b.cfgWord 7).toNat ∧ a + n ≤ 2 ^ 48)

/-- The code with which a descriptor is refused; 0 when it is not (R164, R394). -/
def Part.egressCode (b : Part) (bytes : List Byte) : Nat :=
  let d := readEDesc bytes
  if !eDescOk bytes then 2
  else if !(b.cfgWord 2).getLsbD 9 || !b.egressRange d.dest d.total || !b.egressRange d.mdest manifestSize then 3
  else if !d.open_ && !b.clipOpen then 4
  else 0

/-! ### Marking (R395) -/

/-- Little-endian bytes. -/
def le (n v : Nat) : List Byte := toBytes n v

/-- The 64-bit payload of a clip. -/
def Part.payload (b : Part) (clip : Nat) : Nat :=
  fld (b.cfgWord 5) 0 16 * 2 ^ 48 + Config.deviceId.toNat % 2 ^ 24 * 2 ^ 24 + clip % 2 ^ 24

/-- The mark key; without keys in the fuses what stands for it is open (R392, log 91). -/
def State.markKey (s : State) : List Byte := if s.keys then (List.range 32).map Config.markKey else s.freeBytes 0 32

/-- The hash value of a block under a mark key. -/
def blockHash (key : List Byte) (clip bx by_ : Nat) : Nat := bytesNat (shake256 (key ++ le 4 clip ++ le 2 bx ++ le 2 by_)) 0 8

/-- A marked sample. -/
def markSample (key : List Byte) (payload clip lo hi : Nat) (x y v : Nat) : Nat :=
  let h := blockHash key clip (x / 8) (y / 8)
  let b := payload / 2 ^ ((x / 8 + 8 * (y / 8)) % 64) % 2 == 1
  let p := h / 2 ^ (8 * (y % 8) + x % 8) % 2 == 1
  let r : Int := (v : Int) + (if b == p then 1 else -1)
  (min (hi : Int) (max (lo : Int) r)).toNat

/-- A row of samples, marked. -/
def EDesc.markRow (d : EDesc) (key : List Byte) (payload clip y : Nat) (row : List Byte) : List Byte :=
  let n := d.sampleBytes
  ((List.range d.width).map fun x =>
    le n (markSample key payload clip d.lo d.hi x y (bytesNat row (n * x) n))).flatten

/-- A frame marked row by row from row `y` on. -/
def EDesc.markRows (d : EDesc) (key : List Byte) (payload clip : Nat) : Nat → List (List Byte) → List (List Byte)
  | _, [] => []
  | y, r :: rest => d.markRow key payload clip y r :: EDesc.markRows d key payload clip (y + 1) rest

/-- Reads the rows of a frame. -/
def State.readRows (s : State) (q : Nat) (d : EDesc) : Nat → Nat → List (List Byte) → Except UnitRes (List (List Byte))
  | _, 0, acc => .ok acc
  | y, n + 1, acc =>
    match s.readVa q ((d.luma + y * d.pitch) % 2 ^ 64) d.rowBytes with
    | .wait s => .error (.wait s)
    | .bad c v => .error (.trap s { cause := c, tval := v })
    | .ok r => State.readRows s q d (y + 1) n (acc ++ [r])

/-- Header of a frame for the running hash (R396). -/
def EDesc.header (d : EDesc) (frame : Nat) : List Byte :=
  le 4 frame ++ le 2 d.width ++ le 2 d.height ++ le 1 d.depth ++ List.replicate 7 0

/-! ### The manifest (R396) -/

/-- SHAKE256 output of 64 bytes. -/
def shake64 (m : List Byte) : List Byte := (shake256 m).take 64

/-- One of the three 32-byte strings of the device attestation key: secret seed, message key, public seed. -/
def attPart (k : Nat) : List Byte := (List.range 32).map (Config.attKey k)

/-- The SLH-DSA-SHAKE-256f signature over a message; without the attestation key it is open (R392, R393, log 91, log 131). -/
def State.signatureOf (s : State) (m : List Byte) : List Byte :=
  if s.keys then slhSign slh256f (attPart 0) (attPart 1) (attPart 2) ((List.range 32).map (Config.signRand s.tick)) m
  else s.freeBytes 64 slh256f.sigBytes

/-- SHAKE256 of the attestation public key; without keys in the fuses it is open (R392, R396, log 91). -/
def State.keyDigest (s : State) : List Byte :=
  if s.keys then (shake256 (attPart 2 ++ slhRoot slh256f (attPart 0) (attPart 2))).take 32 else s.freeBytes 32 32

/-- The manifest of the open clip of a partition. -/
def State.manifest (s : State) (p : Nat) : List Byte :=
  let b := s.part p
  let m := [0x56, 0x4D, 0x46, 0x31] ++ le 2 1 ++ le 2 (fld (b.cfgWord 5) 0 16) ++ le 8 Config.deviceId.toNat ++ le 4 b.clip
    ++ le 4 b.clipFrames ++ le 8 (b.payload b.clip) ++ shake64 b.clipBytes ++ s.keyDigest
  m ++ s.signatureOf m

/-- Closes the open clip: its manifest reaches mdest, man_done is set, and vector 3 is raised (R396). -/
def State.closeClip (s : State) (p mdest : Nat) : State :=
  let m := s.manifest p
  let s := s.writeOut .other (hostBase + mdest) m 0 false
  (s.modPart p fun b => { b with clipOpen := false, manDone := true }).raiseVector p 3

/-- Opens a clip (R394). -/
def Part.openClip (b : Part) : Part :=
  { b with clip := (b.clip + 1) % 2 ^ 24, clipOpen := true, clipFrames := 0, clipBytes := [] }

/-- Escape records, each before what it records; none when a ring is full (R307, R308). -/
def State.escapes (q : Nat) : List (Nat × Nat × Nat) → State → Option State
  | [], s => some s
  | (sub, a, n) :: rest, s =>
    match s.escape q (homeDie a) sub a n with
    | none => none
    | some s => State.escapes q rest s

/-- Marks and sends a frame whose bytes have been read (R394 to R397). -/
def State.sendFrame (s : State) (p : Nat) (d : EDesc) (rows : List (List Byte)) (chroma : List Byte) : State :=
  let s := if d.open_ && (s.part p).clipOpen then s.closeClip p d.mdest else s
  let s := if d.open_ then s.modPart p Part.openClip else s
  let b := s.part p
  let out := (d.markRows s.markKey (b.payload b.clip) b.clip 0 rows).flatten ++ chroma
  let s := s.writeOut .other (hostBase + d.dest) out 0 false
  let s := s.modPart p fun b =>
    { b with clipFrames := b.clipFrames + 1, clipBytes := b.clipBytes ++ d.header b.clipFrames ++ out }
  if d.close then s.closeClip p d.mdest else s

/-- The escapes of a frame: itself, and a manifest with its vector for each close (R307, R390, R397). -/
def Part.frameEscapes (b : Part) (d : EDesc) : List (Nat × Nat × Nat) :=
  let m : List (Nat × Nat × Nat) := [(3, hostBase + d.mdest, manifestSize), (5, hostBase + d.mdest, 0)]
  (if d.open_ && b.clipOpen then m else []) ++ [(3, hostBase + d.dest, d.total)] ++ (if d.close then m else [])

/-- The frame of a k.egress that holds the egress path. -/
def State.egressFrame (s : State) (q p : Nat) (rd : Reg) (bytes : List Byte) : UnitRes :=
  let d := readEDesc bytes
  let free (s : State) : State := s.modPart p fun b => { b with egressOwner := none }
  let answer (s : State) (c : Nat) : UnitRes := .done ((free s).modSeq q fun x => x.setS rd (BitVec.ofNat 64 c)) .on
  let drop (r : UnitRes) : UnitRes := match r with | .trap s t => .trap (free s) t | r => r
  match (s.part p).egressCode bytes with
  | 0 =>
    (match s.readRows q d 0 d.height [] with
     | .error r => drop r
     | .ok rows =>
       match s.readVa q d.chroma d.clen with
       | .wait s => .wait s
       | .bad c v => .trap (free s) { cause := c, tval := v }
       | .ok chroma =>
         match State.escapes q ((s.part p).frameEscapes d) s with
         | none => drop (s.logFull q)
         | some s => answer (s.sendFrame p d rows chroma) 0)
  | c => answer s c

/-- Whether a word is a k.egress. -/
def isEgress (w : Nat) : Bool := w / 2 ^ 26 == 0 && w % 65536 == 10

/-- The sequencer whose k.egress holds the egress path of a partition: one that a trap or a restored snapshot has taken away from its word
holds it no more (R164, log 56). -/
def State.egressBy (s : State) (p : Nat) : Option Nat :=
  match (s.part p).egressOwner with
  | none => none
  | some o => if (s.seq o).live && (s.seq o).cur.partition == p && isEgress (s.wordAt o 0) then some o else none

/-- `k.egress` (R164, R394 to R397): it takes the partition's egress path, and completes when the frame is through (log 56). -/
def execKEgress (d a : Reg) (s : State) : Out :=
  runUnit s fun s q =>
    let x := s.seq q
    let va := x.getS a
    let p := x.cur.partition
    if va.toNat % 64 ≠ 0 then .trap s { cause := 3, tval := va }
    else if s.storesOpen q then .wait s
    else
      match s.readVa q va.toNat 64 with
      | .wait s => .wait s
      | .bad c v => .trap s { cause := c, tval := v }
      | .ok bytes =>
        match s.egressBy p with
        | none => .wait (s.modPart p fun b => { b with egressOwner := some q })
        | some o =>
          if o = q then s.egressFrame q p d bytes
          else .done (s.modSeq q fun x => x.setS d 1) .on

/-! ### Attestation (R393) -/

/-- Bytes of an attestation request area. -/
def attSize : Nat := 50080

/-- Whether the physical ranges of a partition, one after another, hold every byte of [pa, last): each is gone through at most once,
and the fuel is their number (R386). -/
def Part.rangesHold (b : Part) (last : Nat) : Nat → Nat → Bool
  | 0, pa => decide (last ≤ pa)
  | f + 1, pa =>
    decide (last ≤ pa)
      || match (List.range 8).find? fun k => decide ((b.cfgWord (8 + 2 * k)).toNat ≤ pa ∧ pa < (b.cfgWord (9 + 2 * k)).toNat) with
        | none => false
        | some k => Part.rangesHold b last f (b.cfgWord (9 + 2 * k)).toNat

/-- Whether a request area lies wholly in the partition's physical ranges (R387, R393); those of partition 0 are all of device
memory. -/
def State.areaInRanges (s : State) (p pa n : Nat) : Bool :=
  decide (pa + n ≤ deviceTop) && (p == 0 || (s.part p).rangesHold (pa + n) 8 pa)

/-- Code of a life-cycle state (R393). -/
def lifeCode : LifeState → Nat
  | .manufacture => 0 | .provisioned => 1 | .production => 2 | .return => 3 | .scrapped => 4

/-- The 256 configuration bytes of a partition. -/
def Part.cfgBytes (b : Part) : List Byte := ((List.range 32).map fun k => le 8 (b.cfgWord k).toNat).flatten

/-- The report of 192 bytes. -/
def State.report (s : State) (p : Nat) (nonce : List Byte) : List Byte :=
  [0x56, 0x59, 0x41, 0x54] ++ le 2 1 ++ le 1 (lifeCode s.life) ++ le 1 p ++ le 4 s.svn.toNat ++ le 4 0 ++ le 8 Config.deviceId.toNat
    ++ le 8 0 ++ nonce ++ padTo 64 s.m0 ++ shake64 (s.part p).cfgBytes

/-- `ATTESTATION_REQUEST` (R393): the report as it reads at the start. -/
def execAttestationRequest (p pa : Nat) (s : State) : Out :=
  hostEvent p s fun s =>
    if (s.part p).attBusy || !s.areaInRanges p pa attSize then s
    else s.modPart p fun b => { b with attBusy := true, attReq := pa, attReport := s.report p (s.readPhys pa 32) }

/-- `ATTESTATION_DONE` (R393). -/
def execAttestationDone (p : Nat) (s : State) : Out :=
  event s fun s =>
    let b := s.part p
    if b.attBusy then
      let s := s.admitWrite (b.attReq + 32) (b.attReport ++ s.signatureOf b.attReport)
      (s.modPart p fun b => { b with attBusy := false, attDone := true, attReport := [] }).raiseVector p 3
    else s

end Sys2Proof.Machine
end

