-- ==== Sys2Proof/Machine/Links.lean ====
section
/-!
DEFINITION. Sys2Proof/Machine/Links.lean: what a port receives: flits, requests of peers, replies, acknowledgements and control,
and the host's answers (19_launch_tenancy.md R389; 21_fabric.md R406 to R408, R411, R412).
-/

namespace Sys2Proof.Machine

open Sys2Proof

/-! ### Receiving a flit (R406, R407) -/

/-- A flit that passed its checks: the state that has taken it, its source package and its payload. -/
structure Received where
  s : State
  src : Nat
  payload : List Byte
deriving DecidableEq, Repr

/-- Sends an acknowledgement to the package at the other end of a port: the sequence number named, and 1 for a negative one, after
which the sender replays from there (R407, R408). -/
def State.sendAck (s : State) (k seq kind : Nat) : State :=
  let dst := match s.findPeer fun e => e.getLsbD (1 + k) with | some e => fld e 19 10 | none => 0
  s.emitFlit k 4 dst (toBytes 2 seq ++ toBytes 1 kind)

/-- A flit that fails its check, or that leaves a gap in the sequence, is answered with a negative acknowledgement of the number that
the port expects (R407). -/
def State.reject (s : State) (k : Nat) : State := s.sendAck k (s.port k).rxSeq 1

/-- What a flit that is not delivered brings about: a failed check or a gap is rejected, one that has been delivered before is
acknowledged again, and a bad acknowledgement is dropped (R407, log 21). -/
def State.missed (s : State) (k type : Nat) (f : List Byte) : State :=
  let p := s.port k
  let h := bytesNat f 0 8
  if p.down || f.length != 256 || h % 16 != type || type == 4 then s
  else if h / 2 ^ 44 = 0 ∧ bytesNat f 248 8 = (crc64 (f.take 248)).toNat ∧ 0 < (p.rxSeq + 4096 - h / 16 % 4096) % 4096
      ∧ (p.rxSeq + 4096 - h / 16 % 4096) % 4096 < 2048 then s.sendAck k ((p.rxSeq + 4095) % 4096) 0
  else s.reject k

/-- Takes a flit of a type on a port and acknowledges it: none when it fails its check or its place in the sequence, and the sender
replays it (R406 to R408). Acknowledgements have no place in the sequence and are not acknowledged (log 21). -/
def State.receive (s : State) (k type : Nat) (f : List Byte) : Option Received :=
  let p := s.port k
  let h := bytesNat f 0 8
  if p.down || f.length != 256 || h % 16 != type || h / 2 ^ 44 != 0 || bytesNat f 248 8 != (crc64 (f.take 248)).toNat
      || (type != 4 && h / 16 % 4096 != p.rxSeq) then none
  else
    let s := s.modPort k fun p =>
      { p with
        rxSeq := if type = 4 then p.rxSeq else (p.rxSeq + 1) % 4096
        credits := p.credits + h / 2 ^ 16 % 256
        freed := if type ≤ 3 then p.freed + 1 else p.freed }
    let s := if type = 4 then s else s.sendAck k p.rxSeq 0
    some { s := s.flush k (p.waiting.length), src := h / 2 ^ 24 % 1024, payload := (f.drop 8).take 240 }

/-! ### Answers to requests (R389, R408, R411) -/

/-- What a failed committed store reports later: cause and TVAL (R411, log 60). -/
def failedStore (r : Req) : Answer → Option (Nat × Word)
  | .lost k => some (20, BitVec.ofNat 64 k)
  | .refused => some (5, BitVec.ofNat 64 r.va)
  | .poison => some (20, 0xFF)
  | .data _ => none
  | .done => none

/-- The bytes of a failed write are open (R411, log 27). -/
def State.voidWrite (s : State) (r : Req) (a : Answer) : State :=
  if r.write && (failedStore r a).isSome then { s with mem := writeBytes s.mem r.pa (s.freeBytes 0 r.len) } else s

/-- Gives a request its answer: a write of a sequencer leaves the list, with its failure noted; others keep the answer for who
waits. -/
def State.putAnswer (s : State) (r : Req) (a : Answer) : State :=
  let same (o : Req) : Bool := o.port == r.port && o.tag == r.tag && o.answer.isNone && o.owner == r.owner && o.write == r.write
  match r.owner, r.write with
  | .seq q, true =>
    let s1 := { s with requests := s.requests.filter fun o => !same o }
    (match failedStore r a with
     | some e => s1.noteFailed q e
     | none => s1)
  | .sample q, true =>
    let s1 := { s with requests := s.requests.filter fun o => !same o }
    if (failedStore r a).isSome then s1.stopSampling q else s1
  | .undo _, _ => { s with requests := s.requests.filter fun o => !same o }
  | .other, _ => { s with requests := s.requests.filter fun o => !same o }
  | _, _ => { s with requests := s.requests.map fun o => if same o then { o with answer := some a } else o }

/-- A request is answered; a launch whose failure or recovery waits for it goes on (R23, R313). -/
def State.answerReq (s : State) (r : Req) (a : Answer) : State := ((s.voidWrite r a).putAnswer r a).finishFailing.finishUndo

/-- The request of a port that has a tag and no answer yet. -/
def State.openReq (s : State) (k tag : Nat) : Option Req :=
  s.requests.find? fun r => r.port == k && r.tag == tag && r.answer.isNone

/-- Payload of a reply (R408). -/
def replyPayload (op tag len : Nat) (data : List Byte) : List Byte :=
  padTo 240 (toBytes 1 op ++ [0] ++ toBytes 2 tag ++ toBytes 1 len ++ List.replicate 27 0 ++ padTo 128 data)

/-- `PEER_REPLY` (R408, R411, R412). -/
def execPeerReply (port : Nat) (flit : List Byte) (s : State) : Out :=
  event s fun s =>
    match s.receive port 2 flit with
    | none => s.missed port 2 flit
    | some r =>
      let b := r.payload
      let op := bytesNat b 0 1
      let tag := bytesNat b 2 2
      let len := bytesNat b 4 1
      let data := (b.drop 32).take len
      if b ≠ replyPayload op tag len data ∨ 4 < op then s.reject port
      else
        match r.s.openReq port tag with
        | none => r.s
        | some q =>
          match op with
          | 1 => r.s.answerReq q (.data data)
          | 2 => r.s.answerReq q .done
          | 3 => r.s.answerReq q .refused
          | 4 => r.s.answerReq q .poison
          | _ => s

/-- `PEER_TIMEOUT`: no reply within 1 ms, to a read or a write; no local port failed (R411). -/
def execPeerTimeout (port tag : Nat) (s : State) : Out :=
  event s fun s =>
    match s.openReq port tag with
    | none => s
    | some r => s.answerReq r (.lost 0xFF)

/-- `CXL_CACHE_RESPONSE`: the host answers a request to the host window (R389); its bytes become the model's copy (log 5). -/
def execCxlCacheResponse (tag : Nat) (bytes : List Byte) (s : State) : Out :=
  event s fun s =>
    match s.openReq hostPort tag with
    | none => s
    | some r =>
      if r.write then s.answerReq r .done
      else
        let b := padTo r.len bytes
        { s with mem := writeBytes s.mem r.pa b }.answerReq r (.data b)

/-- `CXL_SNOOP`: the device holds no host line, so it answers a miss and nothing changes (R389). -/
def execCxlSnoop (_hpa : Nat) (s : State) : Out := event s fun s => s

/-! ### Requests of peers (R412) -/

/-- The partition that accepts a package's requests: that of the first entry which names it. -/
def State.inboundPart (s : State) (src : Nat) : Option Nat :=
  (s.findPeer fun e => fld e 19 10 == src).map fun e => fld e 29 5

/-- Performs a request of a partition at the home: the reply, or what it must wait for. -/
def State.inbound (s : State) (part op pa len : Nat) (data : List Byte) : State × List Byte :=
  let tagless (o : Nat) (l : Nat) (d : List Byte) : List Byte := replyPayload o 0 l d
  if deviceTop < pa + len ∨ !s.runInRanges part pa len then (s, tagless 3 0 [])
  else if op = 1 then
    if (s.badSector (homeDie pa) pa len).isSome then (s, tagless 4 0 []) else (s, tagless 1 len (s.readPhys pa len))
  else (s.admitWrite pa data, tagless 2 0 [])

/-- `INBOUND_REQUEST` (R412): a write to a line that the host holds, or that a migration or the copying of a row keeps waiting, is
taken when it may be performed, and a read once its sectors are filled. -/
def execInboundRequest (port : Nat) (flit : List Byte) (s : State) : Out :=
  event s fun s =>
    match s.receive port 1 flit with
    | none => s.missed port 1 flit
    | some r =>
      let b := r.payload
      let op := bytesNat b 0 1
      let attr := bytesNat b 1 1
      let tag := bytesNat b 2 2
      let len := bytesNat b 4 1
      let pa := bytesNat b 8 8
      let data := if op = 2 then (b.drop 32).take len else []
      if b ≠ padTo 240 (requestPayload op attr tag len pa data) ∨ 2 < op ∨ op = 0 ∨ 15 < attr ∨ attr % 4 = 3 ∨ len = 0 ∨ 128 < len
          ∨ 2 ^ 40 ≤ pa ∨ pa / 128 ≠ (pa + len - 1) / 128 then s.reject port
      else
        let at_ := s.redirect pa
        let reply (s : State) (p : List Byte) : State :=
          s.sendFlit port 2 r.src (p.take 2 ++ toBytes 2 tag ++ p.drop 4)
        match r.s.inboundPart r.src with
        | none => reply r.s (replyPayload 3 0 0 [])
        | some part =>
          if op = 2 ∧ s.hostHolds at_ then s.sendBackInval at_
          else if op = 2 ∧ (s.isFrozen at_ ∨ s.writeHeld at_) then s
          else if op = 1 ∧ s.needsFill at_ len then s.fillFor at_ len
          else
            let (t, p) := r.s.inbound part op pa len data
            reply t p

/-! ### Acknowledgements and link control (R407, R408) -/

/-- Entries of a replay buffer from a sequence number on; all of them when it holds none of that number. -/
def replayFrom (l : List (Nat × List Byte)) (n : Nat) : List (Nat × List Byte) :=
  match l.findIdx? fun e => e.1 == n with
  | some i => l.drop i
  | none => l

/-- `FLIT_ACK` (R407, R408). -/
def execFlitAck (port : Nat) (flit : List Byte) (s : State) : Out :=
  event s fun s =>
    match s.receive port 4 flit with
    | none => s
    | some r =>
      let b := r.payload
      let n := bytesNat b 0 2
      let kind := bytesNat b 2 1
      if b ≠ padTo 240 (toBytes 2 n ++ toBytes 1 kind) ∨ 1 < kind ∨ 4096 ≤ n then s
      else
        let p := r.s.port port
        let s1 := r.s.modPort port fun p =>
          if kind = 0 then
            (if p.replay.any (fun e => e.1 == n) then { p with replay := (replayFrom p.replay n).drop 1, replays := 0 } else p)
          else
            let l := replayFrom p.replay n
            { p with replay := l, replays := if l.length < p.replay.length then 1 else p.replays + 1 }
        s1.flush port p.waiting.length

/-- Payload of a control flit (R408). -/
def controlPayload (sub value group number reason : Nat) : List Byte :=
  padTo 240 (toBytes 1 sub ++ [0] ++ toBytes 2 value ++ toBytes 4 group ++ toBytes 4 number ++ toBytes 1 reason)

/-- A control flit of a subtype on a port, with its fields read and checked. -/
def State.receiveControl (s : State) (port sub : Nat) (flit : List Byte) : Option Received :=
  match s.receive port 5 flit with
  | none => none
  | some r =>
    let b := r.payload
    let coll := sub = 3
    if b = controlPayload sub (if sub = 1 ∨ sub = 4 then bytesNat b 2 2 else 0) (if coll then bytesNat b 4 4 else 0)
        (if coll then bytesNat b 8 4 else 0) (if coll then bytesNat b 12 1 else 0) then some r
    else none

/-- What a control flit of a subtype that is not taken brings about. -/
def State.missedControl (s : State) (port : Nat) (flit : List Byte) : State :=
  match s.receive port 5 flit with
  | none => s.missed port 5 flit
  | some _ => s.reject port

/-- `LINK_UP`: the receiver's buffers are the sender's credits; the port announces its own 256 once (R408, log 21). -/
def execLinkUp (port : Nat) (flit : List Byte) (s : State) : Out :=
  event s fun s =>
    match s.receiveControl port 1 flit with
    | none => s.missedControl port flit
    | some r =>
      let own (s : State) : State :=
        if (s.port port).announced then s
        else (s.modPort port fun p => { p with announced := true }).sendFlit port 5 r.src (controlPayload 1 256 0 0 0)
      let s1 := r.s.modPort port fun p => { p with credits := bytesNat r.payload 2 2 }
      own (s1.flush port (s1.port port).waiting.length)

/-- `RETRAIN_REQUEST` (R408). -/
def execRetrainRequest (port : Nat) (flit : List Byte) (s : State) : Out :=
  event s fun s =>
    match s.receiveControl port 2 flit with
    | none => s.missedControl port flit
    | some r => r.s.modPort port fun p => { p with wantRetrain := true }

end Sys2Proof.Machine
end

