-- ==== Sys2Proof/Machine/Fabric.lean ====
section
/-!
DEFINITION. Sys2Proof/Machine/Fabric.lean: collectives and the f words, and the failures of ports and peers (21_fabric.md R407
to R409, R411, R413 to R420).
-/

namespace Sys2Proof.Machine

open Sys2Proof

/-! ### The descriptor (R414, R417) -/

/-- A collective descriptor. -/
structure CDesc where
  op : Nat
  fmt : Byte
  n : Nat
  rank : Nat
  root : Nat
  group : Nat
  count : Nat
  sbuf : Nat
  rbuf : Nat
  rtab : Nat
deriving DecidableEq, Repr

/-- The fields of a descriptor. -/
def readCDesc (b : List Byte) : CDesc where
  op := bytesNat b 0 1
  fmt := b.getD 1 0
  n := bytesNat b 2 2
  rank := bytesNat b 4 2
  root := bytesNat b 6 2
  group := bytesNat b 8 4
  count := bytesNat b 12 4
  sbuf := bytesNat b 16 8
  rbuf := bytesNat b 24 8
  rtab := bytesNat b 32 8

/-- Bytes of an element; raw elements have one (R414). -/
def CDesc.es (d : CDesc) : Nat := match Fmt.ofCode d.fmt with | some f => f.bytes | none => 1

/-- Bytes of the send buffer that a participant's op touches (R417). -/
def CDesc.sendBytes (d : CDesc) : Nat :=
  d.es * (match d.op with
    | 1 | 2 | 3 => d.count
    | 4 | 5 | 7 => d.n * d.count
    | 6 => if d.rank = d.root then d.count else 0
    | _ => 0)

/-- Bytes of the receive buffer (R417). -/
def CDesc.recvBytes (d : CDesc) : Nat :=
  d.es * (match d.op with | 1 | 2 | 4 | 5 | 6 => d.count | 3 | 7 => d.n * d.count | _ => 0)

/-- Whether an op accepts a format (R414). -/
def opAccepts (op : Nat) (c : Byte) : Bool :=
  match Fmt.ofCode c with
  | none => c == 0xFF && (op == 3 || op == 6 || op == 7)
  | some f =>
    match op with
    | 1 | 4 => f.isIeee || (f.isInt && decide (32 ≤ f.width))
    | 2 | 5 => f.isInt || f.isIeee
    | _ => true

/-- Whether every field lies within its limits (R414, R415). -/
def cDescOk (b : List Byte) : Bool :=
  let d := readCDesc b
  let sn := d.sendBytes
  let rn := d.recvBytes
  let apart := decide (d.sbuf + sn ≤ d.rbuf ∨ d.rbuf + rn ≤ d.sbuf) || sn == 0
    || (d.sbuf == d.rbuf && (d.op == 1 || d.op == 2 || d.op == 6))
  decide (1 ≤ d.op ∧ d.op ≤ 7) && opAccepts d.op d.fmt && decide (2 ≤ d.n ∧ d.n ≤ 256 ∧ d.rank < d.n)
    && (if d.op = 6 then decide (d.root < d.n) else d.root == 0) && decide (1 ≤ d.count ∧ d.count ≤ 2 ^ 24)
    && bytesNat b 40 24 == 0 && apart

/-- The part of a source's send buffer that goes to a destination: first element, and its index in the destination's receive
buffer; none when the source sends nothing (R417). -/
def CDesc.slice (d : CDesc) (src dst : Nat) : Option (Nat × Nat) :=
  match d.op with
  | 1 | 2 => some (0, 0)
  | 3 => some (0, src * d.count)
  | 4 | 5 => some (dst * d.count, 0)
  | 6 => if src = d.root then some (0, 0) else none
  | _ => some (dst * d.count, src * d.count)

/-! ### Comb (R418) -/

/-- One combine step. -/
def collOp (op : Nat) (f : Fmt) (x y : Nat) : Nat :=
  if op = 2 ∨ op = 5 then combine f 0 x y
  else if f.isInt then (x + y) % 2 ^ f.width
  else (fpAdd f FCtl.rne x y).1

/-- Two strings of elements combined elementwise. -/
def combStep (op : Nat) (f : Fmt) : Nat → List Byte → List Byte → List Byte
  | 0, _, _ => []
  | n + 1, x, y =>
    let es := f.bytes
    toBytes es (collOp op f (ofBytes (x.take es)) (ofBytes (y.take es))) ++ combStep op f n (x.drop es) (y.drop es)

/-- The receive buffer of a destination from the contributions, by ascending source rank (R417, R418). -/
def CDesc.result (d : CDesc) (cs : List (List Byte)) : List Byte :=
  match d.op with
  | 1 | 2 | 4 | 5 =>
    (match Fmt.ofCode d.fmt, cs with
     | some f, x :: rest => rest.foldl (fun a y => combStep d.op f d.count a y) x
     | _, _ => [])
  | _ => cs.flatten

/-! ### Members and their handles -/

/-- Changes the sequencer of a launch wherever its context is: on its cluster or in the Cellar (R385). -/
def State.modContext (s : State) (q p n : Nat) (f : Seq → Seq) : State :=
  if (s.seq q).live && (s.seq q).key == (p, n) then s.modSeq q f
  else
    s.modCluster (clusterOf q) fun c =>
      { c with shadow := c.shadow.map fun (k : Shadow) =>
          { k with seqs := FMap.put k.seqs q (f (FMap.get Seq.idle k.seqs q)) } }

/-- Sets the outcome in a member's handle. -/
def State.setOutcome (s : State) (p : Nat) (m : Member) (st reason port : Nat) : State :=
  s.modContext m.q p m.launch fun x =>
    match FMap.find? x.chandles m.slot with
    | some h =>
      if h.serial = m.serial then
        { x with chandles := FMap.put x.chandles m.slot { h with state := st, reason := reason, port := port } }
      else x
    | none => x

/-- The descriptor of a member. -/
def Member.d (m : Member) : CDesc := readCDesc m.desc

/-- Replaces the collective of an index. -/
def State.setColl (s : State) (k : Nat) (c : Coll) : State := { s with colls := s.colls.set k c }

/-- The peer numbers that the members of a collective name. -/
def Coll.peers (c : Coll) : List Nat := ((c.members.map fun m => m.rtab.filter fun r => r != 0xFFFF).flatten).eraseDups

/-- A working port of a peer: the lowest-numbered one (log 21). -/
def State.workingPort (s : State) (e : Word) : Option Nat := (peerPorts e).find? fun k => !(s.port k).down

/-- Sends a payload to a package by the peer number that names it. -/
def State.sendPeer (s : State) (pn type : Nat) (payload : List Byte) : State :=
  let e := s.peerEntry pn
  match s.workingPort e with
  | none => s
  | some k => s.sendFlit k type (fld e 19 10) payload

/-- A physical run cut where its home die changes (R305, R319). The fuel bounds the granules. -/
def dieRuns : Nat → Nat → Nat → List (Nat × Nat)
  | 0, _, _ => []
  | f + 1, pa, n =>
    if n = 0 then []
    else
      let k := Nat.min n (256 - pa % 256)
      match dieRuns f (pa + k) (n - k) with
      | [] => [(pa, k)]
      | r :: rs => if homeDie pa = homeDie r.1 then (pa, k + r.2) :: rs else (pa, k) :: r :: rs

/-- The records of a run of a member's receive buffer go to the rings of its launch, one for each die that homes a part: escapes on a
host- or peer-visible page; none when a ring is full (R305 to R308, R416). -/
def State.logResult (s : State) (p : Nat) (m : Member) (r : Nat × Nat × Word) : Option State :=
  match s.launch? p m.launch with
  | none => some s
  | some l =>
    if l.log = 0 then some s
    else
      (dieRuns (r.2.1 / 256 + 2) r.1 r.2.1).foldl (fun (t : Option State) e => t.bind fun s =>
        let esc := escapeOf r.2.2 e.1
        let locs := locsFrom e.1 e.2
        s.appendRec p m.launch (homeDie e.1)
          (if esc ≠ 0 then escapeRec 0x7FF l.winno esc e.1 e.2
           else
            { kind := 3, space := 0, writer := 0x7FF, window := l.winno, addr := e.1, extra := flatExtra e.2, locs := locs
              old := s.oldBytes 0 locs, size := recSize e.2 })) (some s)

/-- Writes a member's receive buffer run by run, each logged first; none when a ring is full (R306 to R308, R416). -/
def State.writeResult (s : State) (p : Nat) (m : Member) (b : List Byte) : Option State :=
  (m.out.foldl (fun (t : Option (State × List Byte)) r =>
    t.bind fun t => (t.1.logResult p m r).map fun s =>
      (s.admitWrite r.1 (t.2.take r.2.1) (aStore r.2.2 == 1), t.2.drop r.2.1)) (some (s, b))).map Prod.fst

/-- The receive buffer of a member of a collective that fails or is disturbed is open; a run whose record finds no room is left as it is,
for no write is made without its record (R308, R420, log 28). -/
def State.openResult (s : State) (p : Nat) (m : Member) : State :=
  (m.out.foldl (fun (t : State × Nat) r =>
    (match t.1.logResult p m r with
     | some s => s.admitWrite r.1 (s.freeBytes (2 ^ 32 * m.rank + t.2) r.2.1) (aStore r.2.2 == 1)
     | none => t.1, t.2 + r.2.1)) (s, 0)).1

/-- A collective fails: every member's handle says so, its receive buffer is open, and the peers hear of it when `tell` (R420). -/
def State.failColl (s : State) (k reason port : Nat) (tell : Bool) : State :=
  match s.colls[k]? with
  | none => s
  | some c =>
    if c.failed.isSome then s
    else
      let s := c.members.foldl (fun (s : State) m => (s.openResult c.partition m).setOutcome c.partition m 2 reason port) s
      let s := if tell then
          c.peers.foldl (fun (s : State) pn => s.sendPeer pn 5 (controlPayload 3 0 c.group c.number reason)) s
        else s
      s.setColl k { c with members := [], data := [], failed := some (reason, port) }

/-- The index of a collective, appended when there is none. -/
def State.collIndex (s : State) (p group number : Nat) : State × Nat :=
  match s.colls.findIdx? fun c => c.partition == p && c.group == group && c.number == number with
  | some k => (s, k)
  | none => ({ s with colls := s.colls ++ [{ partition := p, group := group, number := number }] }, s.colls.length)

/-- Whether data received agrees with a participant's descriptor: its op, its format, its place in what its source sends to its
destination, and that it comes from the package in which the participant's rtab has its source (R408, R417, R420). `pkg` is the package
of a peer number. -/
def CollData.fits (x : CollData) (d : CDesc) (rtab : List Nat) (pkg : Nat → Nat) : Bool :=
  let r := rtab.getD x.src 0xFFFF
  x.op == d.op && x.fmt == d.fmt && decide (x.src < d.n ∧ x.dst < d.n) && r != 0xFFFF && x.package == pkg r
    && match d.slice x.src x.dst with
      | none => false
      | some e => decide (e.2 ≤ x.first ∧ x.first * d.es + x.bytes.length ≤ (e.2 + d.count) * d.es)

/-- Whether the participants known so far agree, and none is named twice (R420). -/
def Coll.agrees (c : Coll) (pkg : Nat → Nat) : Bool :=
  match c.members with
  | [] => true
  | m :: rest =>
    let d := m.d
    rest.all (fun o =>
        let e := o.d
        e.op == d.op && e.fmt == d.fmt && e.n == d.n && e.count == d.count && e.root == d.root)
      && c.data.all (fun x => x.fits d m.rtab pkg)
      && decide ((c.members.map Member.rank).eraseDups.length = c.members.length)

/-- Fails a collective whose participants disagree. -/
def State.checkColl (s : State) (k : Nat) : State :=
  match s.colls[k]? with
  | none => s
  | some c => if c.agrees (fun r => fld (s.peerEntry r) 19 10) then s else s.failColl k 4 0xFF true

/-! ### f.coll (R415, R416) -/

/-- The physical runs of a buffer, page by page, under a sequencer's mapping: in this package's device memory, on RC or SO
pages; a buffer elsewhere raises cause 5 (R415). The fuel bounds the pages. -/
def State.bufferRuns (s : State) (q : Nat) (k : Acc) : Nat → Nat → Nat → Except (Nat × Word) (List (Nat × Nat × Word))
  | 0, _, _ => .ok []
  | f + 1, va, n =>
    if n = 0 then .ok []
    else
      let m := Nat.min n (4096 - va % 4096)
      let here : Word := BitVec.ofNat 64 va
      match s.locate q va m k with
      | .error c => .error (if c = 6 ∨ c = 7 ∨ c = 8 then 5 else c, here)
      | .ok (.pad _) => .error (5, here)
      | .ok (.glob x) =>
        if regionOf x.pa ≠ .device ∨ aOrd x.attr = 2 ∨ (k = .write ∧ aStore x.attr = 3) then .error (5, here)
        else
          match State.bufferRuns s q k f ((va + m) % 2 ^ 64) (n - m) with
          | .error e => .error e
          | .ok l => .ok ((x.pa, m, x.attr) :: l)

/-- The state in which an f.coll waits while the table words of a buffer are filled; none when they need not be (R322, R333). -/
def State.bufferTables (s : State) (q va n : Nat) : Option State :=
  if s.calm then none
  else (((List.range (n / 4096 + 2)).map fun i => Nat.min (va + 4096 * i) (va + n - 1) % 2 ^ 64).find? fun a => s.tablesWait q a).map fun a => s.fillTables q a

/-- The bytes of physical runs. -/
def State.runBytes (s : State) (rs : List (Nat × Nat × Word)) : List Byte := (rs.map fun r => s.readPhys r.1 r.2.1).flatten

/-- The count of f.coll words for a partition, group and rank (R416). -/
def State.collCount (s : State) (p g r : Nat) : Nat :=
  match s.collCounts.find? fun e => e.1 == p && e.2.1 == g && e.2.2.1 == r with | some e => e.2.2.2 | none => 0

/-- Raises that count. -/
def State.raiseCount (s : State) (p g r : Nat) : State :=
  let n := s.collCount p g r
  { s with collCounts := (p, g, r, (n + 1) % 2 ^ 32) :: s.collCounts.filter fun e => !(e.1 == p && e.2.1 == g && e.2.2.1 == r) }

/-- Whether another sequencer has a live collective of the group and rank (R416). -/
def State.rankTaken (s : State) (p g r q : Nat) : Bool :=
  s.colls.any fun c => c.partition == p && c.group == g && c.members.any fun m => m.rank == r && m.q != q

/-- Payload of a collective data flit (R408, log 57). -/
def collPayload (group number src dst op : Nat) (fmt : Byte) (first : Nat) (data : List Byte) : List Byte :=
  padTo 240 (toBytes 4 group ++ toBytes 4 number ++ toBytes 2 src ++ toBytes 2 dst ++ toBytes 1 op ++ [fmt]
    ++ toBytes 2 data.length ++ toBytes 4 first ++ List.replicate 12 0 ++ padTo 208 data)

/-- Cuts data into flits of whole elements; the fuel bounds the flits. -/
def chunks (es : Nat) : Nat → Nat → List Byte → List (Nat × List Byte)
  | 0, _, _ => []
  | f + 1, first, b =>
    match b with
    | [] => []
    | _ =>
      let n := 208 / es
      (first, b.take (n * es)) :: chunks es f (first + n) (b.drop (n * es))

/-- The data that a member sends to the rank `dst`. -/
def Member.sendsTo (m : Member) (dst : Nat) : Option (Nat × List Byte) :=
  let d := m.d
  (d.slice m.rank dst).map fun e => (e.2, (m.src.drop (e.1 * d.es)).take (d.count * d.es))

/-- The ranks of a member's collective that lie in other packages, with their peer numbers. -/
def Member.remote (m : Member) : List (Nat × Nat) :=
  ((List.range m.d.n).map fun r => (r, m.rtab.getD r 0xFFFF)).filter fun e => e.2 != 0xFFFF

/-- Bytes that a member sends to other packages. -/
def Member.sent (m : Member) : Nat :=
  (m.remote.map fun e => match m.sendsTo e.1 with | some (_, b) => b.length | none => 0).sum

/-- Sends a member's data to the other packages; a peer without a working port fails the collective (R420). -/
def State.sendData (s : State) (k : Nat) (c : Coll) (m : Member) : State :=
  m.remote.foldl (fun (s : State) e =>
    if (s.workingPort (s.peerEntry e.2)).isNone then s.failColl k 2 0xFF true
    else
      match m.sendsTo e.1 with
      | none => s
      | some (first, b) =>
        (chunks m.d.es (b.length + 1) first b).foldl (fun (s : State) x =>
          s.sendPeer e.2 3 (collPayload c.group c.number m.rank e.1 m.d.op m.d.fmt x.1 x.2)) s) s

/-- A member joins its collective: matched by number, checked, its data sent (R416, R420). -/
def State.joinColl (s : State) (p number : Nat) (m : Member) : State :=
  let (s, k) := s.collIndex p m.d.group number
  match s.colls[k]? with
  | none => s
  | some c =>
    match c.failed with
    | some (reason, port) => (s.openResult p m).setOutcome p m 2 reason port
    | none =>
      let c := { c with members := c.members ++ [m] }
      ((s.setColl k c).checkColl k).sendData k c m

/-- The checks of f.coll from its descriptor on: a trap or a wait, or the member with its rtab (R415, log 58, log 59). -/
def State.collCheck (s : State) (q : Nat) (va : Word) (b : List Byte) : Except UnitRes Member :=
  let x := s.seq q
  let d := readCDesc b
  let trap (c : Nat) (v : Word) : Except UnitRes Member := .error (.trap s { cause := c, tval := v })
  match s.readVa q d.rtab (2 * d.n) with
  | .wait s => .error (.wait s)
  | .bad c v => trap c v
  | .ok tab =>
    match (match s.bufferTables q d.sbuf d.sendBytes with | some s => some s | none => s.bufferTables q d.rbuf d.recvBytes) with
    | some s => .error (.wait s)
    | none =>
    match s.bufferRuns q .read (d.sendBytes / 4096 + 2) d.sbuf d.sendBytes with
    | .error (c, v) => trap c v
    | .ok runs =>
      match s.bufferRuns q .write (d.recvBytes / 4096 + 2) d.rbuf d.recvBytes with
      | .error (c, v) => trap c v
      | .ok out =>
        let rtab := (List.range d.n).map fun i => bytesNat tab (2 * i) 2
        let known (r : Nat) : Bool := r == 0xFFFF || (decide (r < 1024) && (s.peerEntry r).getLsbD 0)
        if !cDescOk b || !rtab.all known || s.rankTaken x.cur.partition d.group d.rank q then trap 12 va
        else if (s.asidEntry x.cur.asid).sealed && rtab.any (fun r => r != 0xFFFF) then trap 22 va
        else
          match runs.find? fun r => s.needsFill r.1 r.2.1 (aStore r.2.2 == 1) with
          | some r => .error (.wait (s.fillFor r.1 r.2.1 (aStore r.2.2 == 1)))
          | none =>
          match runs.findSome? fun r => s.badSector (dieOf q) r.1 r.2.1 with
          | some _ => trap 19 (BitVec.ofNat 64 d.sbuf)
          | none =>
            .ok { q := q, launch := x.cur.seq, slot := 0, serial := 0, rank := d.rank, desc := b, rtab := rtab
                  src := s.runBytes runs, out := out, inp := runs, old := s.runBytes out }

/-- `f.coll` (R413, R415, R416). -/
def execFColl (rd a : Reg) (s : State) : Out :=
  runUnit s fun s q =>
    let x := s.seq q
    let va := x.getS a
    if x.tr.inTrap then s.illegal q
    else if va.toNat % 64 ≠ 0 then .trap s { cause := 3, tval := va }
    else if s.storesOpen q then .wait s
    else
      match s.readVa q va.toNat 64 with
      | .wait s => .wait s
      | .bad c v => .trap s { cause := c, tval := v }
      | .ok b =>
        match s.collCheck q va b with
        | .error r => r
        | .ok m =>
          match (if 4 ≤ x.chandles.length then none else freeSlotOf4 x.chandles) with
          | none => .done (s.modSeq q fun x => x.setS rd 0) .on
          | some slot =>
            let p := x.cur.partition
            let n := x.cserial % 0xFFFFFF + 1
            let m := { m with slot := slot, serial := n }
            let pa := (m.out.headD (0, 0, 0)).1
            match (if m.sent = 0 then some s else s.escape q (homeDie pa) 4 pa m.sent) with
            | none => s.logFull q
            | some s =>
              let number := s.collCount p m.d.group m.rank
              let s := s.raiseCount p m.d.group m.rank
              let s := s.modSeq q fun x =>
                ({ x with cserial := n, chandles := FMap.put x.chandles slot { serial := n } }).setS rd
                  (BitVec.ofNat 64 (slot + n * 2 ^ 8))
              .done (s.joinColl p number m) .on
where
  /-- The lowest free slot of the four. -/
  freeSlotOf4 (m : FMap CHandle) : Option Nat := firstFrom (fun i => (FMap.find? m i).isNone) 0 4

/-! ### f.wait and f.test (R419) -/

/-- The live collective handle that a value names. -/
def Seq.collHandle (x : Seq) (h : Word) : Option CHandle :=
  match FMap.find? x.chandles (h.toNat % 4) with
  | some c => if h = BitVec.ofNat 64 (h.toNat % 4 + c.serial * 2 ^ 8) then some c else none
  | none => none

/-- Frees a collective handle. -/
def Seq.freeColl (x : Seq) (h : Word) : Seq := { x with chandles := FMap.erase x.chandles (h.toNat % 4) }

/-- `f.wait` (R413, R419). -/
def execFWait (a : Reg) (s : State) : Out :=
  runUnit s fun s q =>
    let x := s.seq q
    let h := x.getS a
    if x.tr.inTrap then s.illegal q
    else
      match x.collHandle h with
      | none => .done s .on
      | some c =>
        match c.state with
        | 0 => .wait s
        | 1 => .done (s.modSeq q fun x => x.freeColl h) .on
        | _ => .trap (s.modSeq q fun x => x.freeColl h) { cause := 20, tval := BitVec.ofNat 64 c.port }

/-- What f.test writes: state, reason and port, which is 0xFF but for a port that is down (R419). -/
def testWord (state reason port : Nat) : Word := BitVec.ofNat 64 (state + reason * 2 ^ 8 + port * 2 ^ 16)

/-- `f.test` (R413, R419). -/
def execFTest (d a : Reg) (s : State) : Out :=
  runUnit s fun s q =>
    let x := s.seq q
    let h := x.getS a
    if x.tr.inTrap then s.illegal q
    else
      match x.collHandle h with
      | none => .done (s.modSeq q fun x => x.setS d (testWord 3 0 0xFF)) .on
      | some c =>
        match c.state with
        | 0 => .done (s.modSeq q fun x => x.setS d (testWord 0 0 0xFF)) .on
        | 1 => .done (s.modSeq q fun x => (x.freeColl h).setS d (testWord 1 0 0xFF)) .on
        | _ => .done (s.modSeq q fun x => (x.freeColl h).setS d (testWord 2 c.reason c.port)) .on

/-! ### Completion (R417, R418) -/

/-- The bytes of every entry, when none is missing. -/
def allSome {α : Type} : List (Option α) → Option (List α)
  | [] => some []
  | none :: _ => none
  | some a :: rest => (allSome rest).map fun l => a :: l

/-- A byte of what was received from `src` for `dst`, by its place in the receive buffer. -/
def Coll.byteAt (c : Coll) (es src dst at_ : Nat) : Option Byte :=
  c.data.findSome? fun x =>
    if x.src = src ∧ x.dst = dst ∧ x.first * es ≤ at_ ∧ at_ < x.first * es + x.bytes.length then x.bytes[at_ - x.first * es]? else none

/-- What `src` contributes to `dst`: from a member here or from data received; none while it is not whole. -/
def Coll.contribution (c : Coll) (d : CDesc) (src dst : Nat) (here : Bool) : Option (List Byte) :=
  match d.slice src dst with
  | none => some []
  | some (from_, to_) =>
    if here then
      match c.members.find? fun m => m.rank == src with
      | none => none
      | some m => some ((m.src.drop (from_ * d.es)).take (d.count * d.es))
    else allSome ((List.range (d.count * d.es)).map fun i => c.byteAt d.es src dst (to_ * d.es + i))

/-- The result of every member, when every contribution has arrived. -/
def Coll.results (c : Coll) : Option (List (Member × List Byte)) :=
  allSome (c.members.map fun m =>
    let d := m.d
    (allSome ((List.range d.n).map fun src => c.contribution d src m.rank (m.rtab.getD src 0xFFFF == 0xFFFF))).map fun cs =>
      (m, d.result cs))

/-- Whether every rank of this package has joined. -/
def Coll.allHere (c : Coll) : Bool :=
  match c.members with
  | [] => false
  | m :: _ => (List.range m.d.n).all fun r => m.rtab.getD r 0xFFFF != 0xFFFF || c.members.any fun o => o.rank == r

/-- The lines of the receive buffers of a collective. -/
def Coll.resultLines (c : Coll) : List Nat :=
  (c.members.map fun m => (m.out.map fun r => (List.range (r.2.1 / 128 + 1)).map fun i => r.1 + 128 * i).flatten).flatten

/-- The first line of the receive buffers that the host may hold (R389). -/
def State.resultHeld (s : State) (c : Coll) : Option Nat := c.resultLines.find? s.hostHolds

/-- Whether a buffer of a collective has changed since its member joined (R420, log 28). -/
def State.disturbed (s : State) (c : Coll) : Bool :=
  c.members.any fun m => s.runBytes m.inp != m.src || s.runBytes m.out != m.old

/-- Whether a collective may complete. -/
def State.collReady (s : State) (k : Nat) : Bool :=
  match s.colls[k]? with
  | none => false
  | some c => c.failed.isNone && c.allHere && c.results.isSome && c.blocked.isNone && !c.resultLines.any s.writeHeld

/-- The results of a collective written to every member's receive buffer: the state, or the launch whose ring is full (R308, R417). -/
def State.deliver (s : State) (p : Nat) : List (Member × List Byte) → State ⊕ Nat
  | [] => .inl s
  | e :: rest =>
    match s.writeResult p e.1 e.2 with
    | none => .inr e.1.launch
    | some s => State.deliver s p rest

/-- Whether the results of a collective that waits for a launch's ring would fit now (R308). -/
def State.fitsNow (s : State) (c : Coll) : Bool :=
  match c.blocked, c.results with
  | some _, some rs => (match s.deliver c.partition rs with | .inl _ => true | .inr _ => false)
  | _, _ => false

/-- `RING_SPACE_FREED` (R308): the writes that wait for a launch's ring, results of collectives, go on. -/
def execRingSpaceFreed (p n : Nat) (s : State) : Out :=
  event s fun s =>
    { s with colls := s.colls.map fun (c : Coll) => if c.partition = p ∧ c.blocked = some n then { c with blocked := none } else c }

/-- `COLLECTIVE_COMPLETE` (R417): the results wait while a ring that must record them is full (R308). -/
def execCollectiveComplete (k : Nat) (s : State) : Out :=
  event s fun s =>
    match s.colls[k]? with
    | none => s
    | some c =>
      if s.collReady k then
        match s.resultHeld c with
        | some pa => s.sendBackInval pa
        | none =>
          match c.results with
          | none => s
          | some rs =>
            let done (s : State) : State :=
              let s := c.members.foldl (fun (s : State) m => s.setOutcome c.partition m 1 0 0xFF) s
              { s with colls := s.colls.eraseIdx k }
            if s.disturbed c then done (c.members.foldl (fun (s : State) m => s.openResult c.partition m) s)
            else
              match s.deliver c.partition rs with
              | .inl t => done t
              | .inr n => s.setColl k { c with blocked := some n }
      else s

/-- `COLLECTIVE_FAIL` (R420). -/
def execCollectiveFail (k reason port : Nat) (s : State) : Out :=
  event s fun s => if 1 ≤ reason ∧ reason ≤ 4 then s.failColl k reason (if reason = 1 then port else 0xFF) true else s

/-- `COLLECTIVE_DATA` (R408, R417): a package that no entry names is refused (R412, R420). -/
def execCollectiveData (port : Nat) (flit : List Byte) (s : State) : Out :=
  event s fun s =>
    match s.receive port 3 flit with
    | none => s.missed port 3 flit
    | some r =>
      let b := r.payload
      let group := bytesNat b 0 4
      let number := bytesNat b 4 4
      let src := bytesNat b 8 2
      let dst := bytesNat b 10 2
      let op := bytesNat b 12 1
      let n := bytesNat b 14 2
      let first := bytesNat b 16 4
      let data := (b.drop 32).take n
      if b ≠ collPayload group number src dst op (b.getD 13 0) first data ∨ n = 0 ∨ 208 < n then s.reject port
      else
        match r.s.inboundPart r.src with
        | none => r.s.sendFlit port 5 r.src (controlPayload 3 0 group number 3)
        | some p =>
          let (s, k) := r.s.collIndex p group number
          match s.colls[k]? with
          | none => s
          | some c =>
            if c.failed.isSome then s
            else
              let x : CollData := { package := r.src, src := src, dst := dst, op := op, fmt := b.getD 13 0, first := first, bytes := data }
              (s.setColl k { c with data := c.data ++ [x] }).checkColl k

/-- `COLLECTIVE_FAILED_MSG` (R408, R420). -/
def execCollectiveFailedMsg (port : Nat) (flit : List Byte) (s : State) : Out :=
  event s fun s =>
    match s.receiveControl port 3 flit with
    | none => s.missedControl port flit
    | some r =>
      match r.s.inboundPart r.src with
      | none => r.s
      | some p =>
        let (s, k) := r.s.collIndex p (bytesNat r.payload 4 4) (bytesNat r.payload 8 4)
        s.failColl k (bytesNat r.payload 12 1) 0xFF false

/-! ### Ports and peers lost (R407, R409, R411) -/

/-- Fails every collective that names a peer which passes a test. -/
def State.failCollsOf (s : State) (reason port : Nat) (f : Word → Bool) : State :=
  (List.range s.colls.length).foldl (fun (s : State) k =>
    match s.colls[k]? with
    | none => s
    | some c => if c.peers.any fun pn => f (s.peerEntry pn) then s.failColl k reason port true else s) s

/-- Answers every open request of a kind as lost. -/
def State.loseRequests (s : State) (port : Nat) (f : Req → Bool) : State :=
  (s.requests.filter fun r => r.answer.isNone && f r).foldl (fun (s : State) r => s.answerReq r (.lost port)) s

/-- A port goes down until the next reset: a link failure (R407). -/
def State.portDown (s : State) (k : Nat) : State :=
  let s := s.modPort k fun p => { p with down := true, waiting := [], replay := [] }
  (s.loseRequests k fun r => r.port == k).failCollsOf 1 k fun e => (peerPorts e).contains k

/-- `PORT_DOWN` (R407). -/
def execPortDown (port : Nat) (s : State) : Out := event s fun s => s.portDown port

/-- `PORT_RETRAIN` (R407): after 8 replays of one flit, or when the peer asks. -/
def execPortRetrain (port lanes : Nat) (s : State) : Out :=
  event s fun s =>
    let p := s.port port
    if p.down || (decide (p.replays < 8) && !p.wantRetrain) then s
    else if lanes < 2 then s.portDown port
    else s.modPort port fun p => { p with lanes := Nat.min lanes 4, replays := 0, wantRetrain := false }

/-- `PEER_LOST_MSG` (R408, R411, R420). -/
def execPeerLostMsg (port : Nat) (flit : List Byte) (s : State) : Out :=
  event s fun s =>
    match s.receiveControl port 4 flit with
    | none => s.missedControl port flit
    | some r =>
      let pkg := bytesNat r.payload 2 2
      let of (e : Word) : Bool := e.getLsbD 0 && fld e 19 10 == pkg
      let s := r.s.loseRequests 0xFF fun q =>
        match regionOf q.pa with
        | .peer pn => of (r.s.peerEntry pn)
        | _ => false
      s.failCollsOf 2 0xFF of

end Sys2Proof.Machine
end

