-- ==== Sys2Proof/Machine/MemEvents.lean ====
section
/-!
DEFINITION. Sys2Proof/Machine/MemEvents.lean: what the homes, the translation buffers, the die caches, the base dies and the
host's memory accesses bring about (14_die.md R289 to R300, R315; 15_package_memory.md R321 to R336; 16_ordering.md R341 to
R345; 19_launch_tenancy.md R389).
-/

namespace Sys2Proof.Machine

open Sys2Proof

/-! ### Admission of stores (R118, R339 to R345) -/

/-- Whether two stores write a byte in common; those to memory by the places that their frames name (R335, R339). -/
def State.storesMeet (s : State) (a b : PStore) : Bool :=
  let f (x : Nat) : Nat := if a.pad.isSome then x else s.canon x
  a.pad == b.pad && a.parts.any fun x => b.parts.any fun y => decide (f x.1 < f y.1 + y.2.length ∧ f y.1 < f x.1 + x.2.length)

/-- Whether two stores come from different words of one unit and share an element: element i of the later word's store comes after
element i of the earlier word's (R178, R343). -/
def PStore.sameElement (a b : PStore) : Bool := a.unit != 0 && a.unit == b.unit && a.word != b.word && a.elems.any b.elems.contains

/-- Whether every write of a sequencer that has left its store buffer must be performed before a store: a release, a strong
store, a fence's mark, an SO store, an element of an ordered store, and one of a second word of a unit that stores (log 64). -/
def PStore.waitsForAll (st : PStore) : Bool :=
  st.release || st.strong || st.parts.isEmpty || st.inOrder || st.ord == 1 || st.second

/-- Whether a store must follow an earlier one that has not been admitted. -/
def State.storeFollows (s : State) (st e : PStore) : Bool :=
  e.strong || e.parts.isEmpty || st.release || st.strong || st.parts.isEmpty || st.inOrder || (st.ord == 1 && e.ord == 1) || s.storesMeet st e
    || st.sameElement e

/-- Whether the store `k` of a sequencer may be admitted: nothing before it in the buffer must go first, no write sent to a window
that it must follow, a strong one or one to its bytes, is still open, its home can take it (R331, R334, R339, R344), and it is not of an
mt.mul's unit under way, whose stores commit when the unit ends (R118, R343). -/
def State.storeFree (s : State) (q k : Nat) : Bool :=
  let l := (s.seq q).stores
  match l[k]? with
  | none => false
  | some st =>
    !((l.take k).any fun e => s.storeFollows st e) && !(st.waitsForAll && s.writesOpen (.seq q))
      && !(s.sent q).any (fun r => r.strong || (st.pad.isNone && st.parts.any fun e =>
          decide (r.pa < s.canon e.1 + e.2.length ∧ s.canon e.1 < r.pa + r.len)))
      && !s.homeBusy st && !(st.unit == (s.seq q).csr.units.toNat + 1 && s.midMul q)

/-- A sequencer's store `k` has been admitted: what waits for the stores before it counts one fewer (R269, R346). -/
def State.countStores (s : State) (q k : Nat) : State :=
  let less (n : Nat) : Nat := if k < n then n - 1 else n
  let s := s.modSeq q fun x =>
    { x with stores := x.stores.eraseIdx k, appends := x.appends.map fun (a : Append) => { a with after := less a.after } }
  s.modCluster (clusterOf q) fun c =>
    { c with cmds := c.cmds.map fun (m : EngCmd) => if m.owner = q then { m with after := less m.after } else m }

/-- `HOME_WRITE_ADMIT` (R341). -/
def execHomeWriteAdmit (q k : Nat) (s : State) : Out :=
  event s fun s =>
    match (s.seq q).stores[k]? with
    | none => s
    | some st =>
      if !s.storeFree q k then s
      else
        match s.hostLine st with
        | some pa => s.sendBackInval pa
        | none =>
          match s.readOld q st with
          | some s => s
          | none => (((s.commitStore q st).countStores q k).dropReads (.log q)).finishFailing

/-! ### Translation buffers (R296, R299, R300) -/

/-- `TLB_INVALIDATE`: go. -/
def execTlbInvalidate (d : Nat) (s : State) : Out := event s fun s => s.modDie d fun x => { x with invBusy := true }

/-- Whether the invalidation of a die covers an ASID. -/
def Die.covers (x : Die) (asid : Nat) : Bool := x.invAll || x.invAsid.toNat == asid

/-- Whether a cached entry meets the invalidation's pages. -/
def Die.meets (x : Die) (t : TlbEntry) : Bool :=
  let lo := fld x.invVa 12 44 * 4096
  x.covers t.asid && (x.invAll || x.invPages == 0 || decide (t.base < lo + 4096 * x.invPages.toNat ∧ lo < t.limit))

/-- Drops what an invalidation matches; one range entry met drops the ASID's whole range set (R300). -/
def State.dropTlb (s : State) (x : Die) : State :=
  let rs := (s.tlb.map fun (e : Nat × List TlbEntry) => e.2.filter fun t => t.range && x.meets t).flatten.map TlbEntry.asid
  let gone (t : TlbEntry) : Bool := x.meets t || (t.range && rs.contains t.asid)
  { s with tlb := s.tlb.mapVals fun _ (l : List TlbEntry) => l.filter fun t => !gone t }

/-- Whether every access of the covered ASIDs that has been translated is performed: those sent to a window, and the results of
collectives, among them. -/
def State.accessesDone (s : State) (x : Die) : Bool :=
  (s.seqs.all fun e => !x.covers e.2.cur.asid || (!s.storesOpen e.1 && e.2.appends.isEmpty))
    && (s.requests.all fun r => r.answer.isSome || match r.asid with | none => true | some a => !x.covers a)
    && (s.colls.all fun c => c.failed.isSome || c.members.all fun m =>
      match s.launch? c.partition m.launch with | none => true | some l => !x.covers l.asid)

/-- `INVALIDATION_DONE` (R300, log 65). -/
def execInvalidationDone (d : Nat) (s : State) : Out :=
  event s fun s =>
    let x := s.die d
    if x.invBusy && s.accessesDone x then (s.dropTlb x).modDie d fun x => { x with invBusy := false } else s

/-- A buffer with one more entry, its oldest of the kind dropped when it is full. -/
def insertTlb (l : List TlbEntry) (t : TlbEntry) (pages : Nat) : List TlbEntry :=
  let l := l.filter fun o => o != t
  let same := l.filter fun o => o.range == t.range
  let l := if (if t.range then 16 else pages) ≤ same.length then
      (match same.reverse.head? with | some o => l.filter fun e => e != o | none => l)
    else l
  t :: l

/-- `TABLE_WALK`: a walk that ends in a present leaf or a range hit is cached by the core, and a leaf by the cluster; one that
faults is not (R299, log 63). What is cached serves the addresses that no range of a lower number covers (R296). -/
def execTableWalk (q : Nat) (va : Word) (s : State) : Out :=
  event s fun s =>
    let x := s.seq q
    let a := x.cur.asid
    let e := s.asidEntry a
    if windowOf va.toNat ≠ .global then s
    else if s.tablesWait q va.toNat then s.fillTables q va.toNat
    else
      match s.translateFresh (dieOf q) a x.cur.partition va.toNat 1 .read with
      | .error _ => s
      | .ok t =>
        let rng := match s.findRange (dieOf q) e va.toNat 0 (Nat.min 16 e.nranges) with | .ok (some _) => true | _ => false
        let part := s.extent e va.toNat 0 t.base t.limit (Nat.min 16 e.nranges)
        let n : TlbEntry :=
          { asid := a, base := t.base, limit := t.limit, lo := part.1, hi := part.2, delta := (t.pa + 2 ^ 64 - va.toNat) % 2 ^ 64, attr := t.attr, range := rng
            sealed := e.sealed }
        let c := coreOf q
        let m := FMap.put s.tlb c (insertTlb (FMap.get [] s.tlb c) n 512)
        let k := clusterTlb (clusterOf q)
        { s with tlb := if rng then m else FMap.put m k (insertTlb (FMap.get [] m k) n 8192) }

/-- `LINE_FILL` (R290, R329). -/
def execLineFill (pa : Nat) (s : State) : Out :=
  event s fun s =>
    if regionOf pa = .device ∧ !s.rowHeld pa then
      s.fillSector (pa / 128) (pa % 128 / 32) (FMap.get ({} : LineState) s.lines (pa / 128)).comp
    else s

/-- `LINE_WRITEBACK` (R329). -/
def execLineWriteback (pa : Nat) (s : State) : Out :=
  event s fun s => if regionOf pa = .device ∧ !s.writeHeld pa then s.writeBack (pa / 128) else s

/-- `LINK_TAG_EVICT`: no line that holds a tag goes within 256 cycles of its setting (R291). -/
def execLinkTagEvict (line : Nat) (s : State) : Out :=
  event s fun s =>
    match FMap.find? s.lineTags line with
    | none => s
    | some t => if t.2 + 256 ≤ s.now ∧ !s.writeHeld (128 * line) then (s.writeBack line).dropLine line else s

/-! ### Broadcast packets (R323 to R326) -/

/-- A broadcast packet. -/
structure BPacket where
  write : Bool
  size : Nat
  comp : Bool
  id : Nat
  first : Nat
  /-- Active elements: address and index. -/
  elems : List (Nat × Nat)
  data : List Byte
deriving DecidableEq, Repr

/-- Reads a packet; none when a field is out of order (log 68). -/
def parsePacket (b : List Byte) : Option BPacket :=
  let base := bytesNat b 0 8
  let stride := (BitVec.ofNat 64 (bytesNat b 8 8)).toInt
  let count := bytesNat b 16 2
  let op := bytesNat b 18 1
  let es := bytesNat b 19 1
  let size := 2 ^ es
  let at_ (k : Nat) : Nat := ((base : Int) + (k : Int) * stride).emod (2 ^ 52) |>.toNat
  let elems := (List.range count).filterMap fun k => if (b.getD (32 + k / 8) 0).getLsbD (k % 8) then some (at_ k, k) else none
  if 2 ^ 52 ≤ base ∨ count = 0 ∨ 512 < count ∨ (op ≠ 1 ∧ op ≠ 2) ∨ 3 < es ∨ 1 < bytesNat b 24 1 ∨ bytesNat b 25 7 ≠ 0
      ∨ b.length ≠ 96 + (if op = 2 then count * size else 0)
      ∨ !(elems.all fun e => decide (e.1 % size = 0 ∧ e.1 < deviceTop)) then none
  else
    some
      { write := op == 2, size := size, comp := bytesNat b 24 1 == 1, id := bytesNat b 20 2, first := bytesNat b 22 2
        elems := elems, data := b.drop 96 }

/-- What a read packet returns of each element, with status 1 for poison (R325). -/
def State.readAnswers (s : State) (p : BPacket) : List PacketAnswer :=
  p.elems.map fun e =>
    .element p.id (p.first + e.2) (s.badSector (homeDie e.1) e.1 p.size).isSome (s.readPhys e.1 p.size)

/-- How many elements each channel has written, as it acknowledges them (R325). -/
def BPacket.writeAnswers (p : BPacket) : List PacketAnswer :=
  let at_ := p.elems.map fun e => let pl := mapPa e.1; (pl.stack, pl.channel)
  at_.eraseDups.map fun c => .written p.id c.1 c.2 (at_.filter fun d => d == c).length

/-- `BROADCAST_PACKET` (R325). Elements held by a migration, by the host or by a row that is being remapped keep the packet
waiting. -/
def execBroadcastPacket (bytes : List Byte) (s : State) : Out :=
  event s fun s =>
    match parsePacket bytes with
    | none => s
    | some p =>
      let lines := (p.elems.map fun e => e.1 / 128).eraseDups
      if lines.any fun l => if p.write then s.writeHeld (128 * l) else s.rowHeld (128 * l) then s
      else if !p.write then
        let t := s.packetRead (p.elems.map Prod.fst) p.comp
        { t with answers := t.readAnswers p }
      else if lines.any fun l => s.isFrozen (128 * l) then s
      else
        match lines.find? fun l => s.hostHolds (128 * l) with
        | some l => s.sendBackInval (128 * l)
        | none =>
          { (s.packetWrite (p.elems.map fun e => (e.1, (p.data.drop (p.size * e.2)).take p.size)) p.comp) with
            answers := p.writeAnswers }

/-! ### Failures of links and channels (R292, R322, R336) -/

/-- `D2D_LINK_LOST` (R292, R315). -/
def execD2dLinkLost (s : State) : Out :=
  event s fun s =>
    let s1 := (s.modDie 0 fun x => { x with linkLost := true }).modDie 1 fun x => { x with linkLost := true }
    let s2 := (s1.countDie 0 0x40).countDie 1 0x40
    { s2 with reports := s2.reports ++ [.linkLost] }

/-- `CHANNEL_FAILURE` (R322). -/
def execChannelFailure (stack ch : Nat) (s : State) : Out := event s fun s => s.modStack stack fun k => k.failChannel ch

/-- `DECLARE_CHANNEL_FAILED` (R336). -/
def execDeclareChannelFailed (stack : Nat) (v : BitVec 32) (s : State) : Out :=
  event s fun s => s.modStack stack fun k => (bitsSet 0 32 v.toNat).foldl Stack.failChannel k

/-! ### Refresh, scrub, remapping (R330 to R333) -/

/-- `REFRESH`: a refresh may be postponed by at most 8 intervals; whether it is, and whether the limit falls during a burst, which
it then suspends, is open (R330, log 2). -/
def execRefresh (stack bank : Nat) (s : State) : Out :=
  event s fun s =>
    let n := FMap.get 0 (s.stack stack).postponed bank
    let c := Config.schedule s.tick
    s.modStack stack fun k =>
      if n < 8 ∧ c % 2 = 1 then { k with postponed := FMap.set 0 k.postponed bank (n + 1) }
      else
        { k with
          postponed := FMap.set 0 k.postponed bank 0
          suspends := if 8 ≤ n ∧ c / 2 % 2 = 1 then bump k.suspends else k.suspends }

/-- `PATROL_SCRUB`: the sector of an address is read, and the parity sector that covers it (R322, R333). -/
def execPatrolScrub (pa : Nat) (s : State) : Out :=
  event s fun s =>
    if regionOf pa ≠ .device ∨ s.writeHeld pa then s else (s.scrubSector (pa / 32)).scrubParity (pa / 32)

/-- Target of the remap registers: pseudo-channel, bank group, bank and row, with spare 0 (R336). -/
def Stack.target (k : Stack) : Remap :=
  { pc := fld k.rmTarget 5 1, bg := fld k.rmTarget 6 2, bank := fld k.rmTarget 8 2, row := fld k.rmTarget 10 16, spare := 0 }

/-- Whether two entries name one bank. -/
def Remap.sameBank (a b : Remap) : Bool := a.pc == b.pc && a.bg == b.bg && a.bank == b.bank

/-- A channel's table without the row that is remapped. -/
def Stack.others (k : Stack) : List Remap :=
  (FMap.get [] k.remap (fld k.rmTarget 0 5)).filter fun e => !(e.sameBank k.target && e.row == k.target.row)

/-- The lowest-numbered free spare of the target's bank; the one that the row itself has is not free (log 69). -/
def Stack.freeSpare (k : Stack) : Option Nat :=
  firstFrom (fun i => !(FMap.get [] k.remap (fld k.rmTarget 0 5)).any fun e => e.sameBank k.target && e.spare == i) 0 32

/-- `ROW_REMAP` (R331, R336, log 69). -/
def execRowRemap (stack : Nat) (s : State) : Out :=
  event s fun s => s.modStack stack fun k =>
    if k.rmBusy then k
    else if k.chfail.getLsbD (fld k.rmTarget 0 5) then { k with rmResult := 3 }
    else if 256 ≤ k.others.length then { k with rmResult := 2 }
    else if k.freeSpare.isNone then { k with rmResult := 1 }
    else { k with rmBusy := true, rmResult := 0 }

/-- Whether a place lies in the row that a stack remaps. -/
def Stack.moves (k : Stack) (stack : Nat) (pl : Place) (ch : Nat) : Bool :=
  pl.stack == stack && ch == fld k.rmTarget 0 5 && k.target.isAt pl

/-- The uncorrectable sectors of the row that a stack remaps are rebuilt while the row is copied (R331). -/
def State.rebuildRow (s : State) (stack : Nat) : State :=
  let k := s.stack stack
  let ds := s.dramBad.keysWhere fun n b => b && (let pl := mapPa (32 * n); k.moves stack pl pl.channel)
  let ps := s.parityBad.keysWhere fun n b => b && (let pl := mapPa (n / 8 * 3840); k.moves stack pl pl.parityChannel)
  ps.foldl (fun (s : State) n => s.scrubParity (n / 8 * 120 + n % 8)) (ds.foldl (fun (s : State) n => s.scrubSector n) s)

/-- `REMAP_DONE` (R331): the accesses that were held go on. -/
def execRemapDone (stack : Nat) (s : State) : Out :=
  event s fun s =>
    if !(s.stack stack).rmBusy then s
    else
      ((s.rebuildRow stack).modStack stack fun k =>
        match k.freeSpare with
        | none => { k with rmBusy := false, rmResult := 1 }
        | some i =>
          { k with
            rmBusy := false, rmResult := 0
            remap := FMap.put k.remap (fld k.rmTarget 0 5) (k.others ++ [{ k.target with spare := i }]) }).releaseHeld.finishUndo

/-! ### Migration (R334, R335) -/

/-- First source frame, pages, destination and mode. -/
def Stack.mgFrame (k : Stack) : Nat := fld k.mgSrc 12 39
/-- Pages to move. -/
def Stack.mgCount (k : Stack) : Nat := fld k.mgPages 0 24
/-- Mode: 0 device, 1 peer, 2 host. -/
def Stack.mgMode (k : Stack) : Nat := fld k.mgPages 24 2
/-- Destination of a source address. -/
def Stack.mgTo (k : Stack) (pa : Nat) : Nat := fld k.mgDst 0 52 / 4096 * 4096 + pa - 4096 * k.mgFrame

/-- Marks the frames of a stack's run in a phase. -/
def State.markFrames (s : State) (stack phase : Nat) : State :=
  let k := s.stack stack
  { s with moved := (List.range k.mgCount).foldl (fun m i =>
      FMap.put m (k.mgFrame + i) ({ phase := phase, dst := k.mgTo (4096 * (k.mgFrame + i)), stack := stack } : Moved)) s.moved }

/-- The entries of a map in [src, src + n) take the place of those in [dst, dst + n). -/
def copyRange {α : Type} (m : FMap α) (src dst n : Nat) : FMap α :=
  let got := m.filter fun e => decide (src ≤ e.1 ∧ e.1 < src + n)
  got.foldl (fun r e => FMap.put r (dst + (e.1 - src)) e.2) (FMap.keep m fun a => !decide (dst ≤ a ∧ a < dst + n))

/-- A base die reads a sector that it is to send: it climbs the ladder of R333, and poison that it returns is counted. -/
def State.moveSector (s : State) (k : Nat) : State :=
  let t := s.scrubSector k
  if FMap.get false s.memPoison k then t.countPoison k else t

/-- A base die has what it is to send of lines [line, line + n): dirty lines are written back, then every sector is read. -/
def State.settleLines (s : State) (line n : Nat) : State :=
  let ls := s.lines.keysWhere fun l x => decide (line ≤ l ∧ l < line + n) && x.dirty != 0
  let s := ls.foldl (fun (s : State) l => s.writeBack l) s
  if s.calm then s else (List.range (4 * n)).foldl (fun (s : State) i => s.moveSector (4 * line + i)) s

/-- The sectors of device memory that a run of lines was sent to are written (R321, R333). -/
def State.landLines (s : State) (line n : Nat) : State :=
  if s.calm then s
  else (List.range (4 * n)).foldl (fun (s : State) i => (s.dieWrite (4 * line + i)).countStored (4 * line + i)) s

/-- The bytes of a line that goes to a window; those of a poisoned sector are open, for a request carries no poison (R408, log 71). -/
def State.lineOut (s : State) (line : Nat) : List Byte :=
  ((List.range 4).map fun j =>
    if FMap.get false s.memPoison (4 * line + j) then s.freeBytes (128 * line + 32 * j) 32 else readBytes s.mem (128 * line + 32 * j) 32).flatten

/-- One line sent to a peer: of a compressed page its stored sectors, and of one without any 128 zeros; the metadata has no place in a
request (R334, R408, log 71). -/
def State.peerLine (s : State) (dst line : Nat) : State :=
  match FMap.find? s.stored line with
  | none => s.writeOut .other dst (s.lineOut line) 0 false
  | some l =>
    let b : List Byte := if l.sectors.isEmpty then List.replicate 128 0 else (l.sectors.map fun x => padTo 32 x.bytes).flatten
    s.writeOut .other dst b 0 false

/-- Sends lines [line, line + n) of a run to their destination: within device memory with poison and stored forms, to a peer
in their stored form, to the host expanded (R334). -/
def State.sendLines (s0 : State) (stack line n : Nat) : State :=
  let s := s0.settleLines line n
  let dst := (s.stack stack).mgTo (128 * line)
  if (s.stack stack).mgMode = 0 then
    let away := fun a => !decide (dst / 128 ≤ a ∧ a < dst / 128 + n)
    ({ s with
      mem := copyRange s.mem (128 * line) dst (128 * n)
      memPoison := copyRange s.memPoison (4 * line) (dst / 32) (4 * n)
      stored := copyRange s.stored line (dst / 128) n
      lines := FMap.keep s.lines away
      lineTags := FMap.keep s.lineTags away }).landLines (dst / 128) n
  else if (s.stack stack).mgMode = 1 then
    (List.range n).foldl (fun (s : State) i => s.peerLine (dst + 128 * i) (line + i)) s
  else
    (List.range n).foldl (fun (s : State) i =>
      s.writeOut .other (dst + 128 * i) (s.lineOut (line + i)) 0 false) s

/-- Sends every dirty line of a run. -/
def State.sendDirty (s : State) (stack : Nat) : State :=
  let ls := (s.stack stack).mgDirty.map Prod.fst
  (ls.foldl (fun (s : State) l => s.sendLines stack l 1) s).modStack stack fun k => { k with mgDirty := [] }

/-- `MIGRATION_START` (R334): ignored while one runs, without a page, and in the reserved mode (log 71). -/
def execMigrationStart (stack : Nat) (s : State) : Out :=
  event s fun s =>
    let k := s.stack stack
    if k.mgPhase = 1 ∨ k.mgPhase = 2 ∨ k.mgPhase = 3 ∨ k.mgCount = 0 ∨ k.mgMode = 3 then s
    else (s.markFrames stack 1).modStack stack fun k => { k with mgPhase := 1, mgDirty := [] }

/-- `MIGRATION_PASS`: the first pass copies every line, a later one the dirty lines (R334). -/
def execMigrationPass (stack : Nat) (s : State) : Out :=
  event s fun s =>
    let k := s.stack stack
    if k.mgPhase = 1 then
      (s.sendLines stack (32 * k.mgFrame) (32 * k.mgCount)).modStack stack fun k => { k with mgPhase := 2 }
    else if k.mgPhase = 2 then s.sendDirty stack
    else s

/-- `MIGRATION_FREEZE` (R334): ignored before phase 2. -/
def execMigrationFreeze (stack : Nat) (s : State) : Out :=
  event s fun s =>
    if (s.stack stack).mgPhase ≠ 2 then s
    else ((s.markFrames stack 2).sendDirty stack).modStack stack fun k => { k with mgPhase := 3 }

/-- `MIGRATION_MOVED` (R334, R335): ignored before phase 3; the move breaks link tags and releases the writes that were held. -/
def execMigrationMoved (stack : Nat) (s : State) : Out :=
  event s fun s =>
    let k := s.stack stack
    if k.mgPhase ≠ 3 then s
    else
      let away := fun l => !decide (32 * k.mgFrame ≤ l ∧ l < 32 * (k.mgFrame + k.mgCount))
      let s1 := { (s.markFrames stack 3) with lines := FMap.keep s.lines away, lineTags := FMap.keep s.lineTags away }
      (s1.modStack stack fun k => { k with mgPhase := 4 }).releaseHeld.finishUndo

/-- `MIGRATION_FREE`: the moved marks that the stack's engine has made are dropped, those of an earlier run too while it runs again; the
phase returns to idle from moved (R336). -/
def execMigrationFree (stack : Nat) (s : State) : Out :=
  event s fun s =>
    let done (f : Nat) : Bool := match FMap.find? s.moved f with | some m => m.stack == stack && m.phase == 3 | none => false
    ({ s with moved := FMap.keep s.moved fun f => !done f }).modStack stack fun k => if k.mgPhase = 4 then { k with mgPhase := 0 } else k

/-! ### Counters (R315, R336) -/

/-- `ERROR_COUNTER_CLEAR`. -/
def execErrorCounterClear (pa : Nat) (s : State) : Out :=
  event s fun s =>
    let d := (pa - 0xF000001800000) / 0x100
    let k := (pa - 0xF000003000000) / 0x1000
    if 0xF000001800000 ≤ pa ∧ d < 2 then s.modDie d fun x => { x with counters := FMap.set 0 x.counters (pa % 0x100) 0 }
    else if 0xF000003000000 ≤ pa ∧ k < 8 then
      s.modStack k fun x =>
        match pa % 0x1000 with
        | 0x10 => { x with corrected := 0 }
        | 0x18 => { x with rebuilt := 0 }
        | 0x20 => { x with poisoned := 0 }
        | 0x28 => { x with suspends := 0 }
        | 0x30 => { x with remapfail := 0 }
        | _ => x
    else s

/-! ### The host's memory accesses (R298, R389) -/

/-- Entries of a table that memory lists as other than zero, by index. -/
def State.tableEntries (s : State) (t n : Nat) : List Nat :=
  ((s.mem.filter fun e => decide (t ≤ e.1 ∧ e.1 < t + 8 * n)).map fun e => (e.1 - t) / 8).eraseDups

/-- Whether a table of a level maps the frame of an address. -/
def State.tableMaps (s : State) (pa : Nat) : Nat → Nat → Bool
  | level, t => (s.tableEntries t (if level = 3 then 2 ^ 17 else 512)).any fun i =>
      let p : Word := BitVec.ofNat 64 (s.readPhysNat (t + 8 * i) 8)
      if aPerm p = 0 then false
      else if aPerm p = 2 then match level with | 0 => false | l + 1 => State.tableMaps s pa l (aFrame p)
      else decide (aFrame p ≤ pa ∧ pa < aFrame p + 2 ^ (12 + 9 * level))

/-- Whether an ASID's entry maps the frame of an address. -/
def State.asidMaps (s : State) (e : AsidEntry) (pa : Nat) : Bool :=
  ((List.range (Nat.min 16 e.nranges)).any fun r =>
    let w (k : Nat) : Nat := s.readPhysNat (e.ranges + 32 * r + 8 * k) 8
    let va := (pa + 2 ^ 64 - w 2) % 2 ^ 64
    decide (w 0 ≤ va ∧ va < w 1)) || s.tableMaps pa 3 e.root

/-- Whether the frame of an address is assigned to a sealed ASID: one of them maps it (R298, log 66). -/
def State.sealedFrame (s : State) (pa : Nat) : Bool :=
  let as := ((s.mem.filter fun e => decide (s.asidTable ≤ e.1 ∧ e.1 < s.asidTable + 32 * 65536)).map fun e => (e.1 - s.asidTable) / 32).eraseDups
  as.any fun a => let e := s.asidEntry a; e.valid && e.sealed && s.asidMaps e pa

/-- Line addresses of [pa, pa + n). -/
def linesOf (pa n : Nat) : List Nat := (List.range ((pa + n - 1) / 128 + 1 - pa / 128)).map fun i => 128 * (pa / 128 + i)

/-- Whether the attach serves a host access to device memory. -/
def State.hostServed (s : State) (pa n : Nat) : Bool := decide (n ≠ 0 ∧ pa + n ≤ deviceTop) && !((linesOf pa n).any s.sealedFrame)

/-- `HOST_MEM_READ`: the host may keep the lines it read (R389). -/
def execHostMemRead (pa n : Nat) (s : State) : Out :=
  event s fun s =>
    let s := if s.hostServed pa n then s.fillFor pa n else s
    if s.hostServed pa n ∧ !s.needsFill pa n then
      { s with hostLines := (linesOf pa n).foldl (fun m l => FMap.set false m (l / 128) true) s.hostLines }
    else s

/-- `HOST_MEM_WRITE`: admitted at the home; a frozen frame, or a row that is being copied, keeps it waiting (R331, R334, R389). -/
def execHostMemWrite (pa : Nat) (bytes : List Byte) (s : State) : Out :=
  event s fun s =>
    if s.hostServed pa bytes.length && !((linesOf pa bytes.length).any fun a => s.isFrozen a || s.writeHeld a) then s.admitWrite pa bytes
    else s

/-- `BACK_INVALIDATE_RESPONSE` (R389). -/
def execBackInvalidateResponse (pa : Nat) (s : State) : Out :=
  event s fun s =>
    { s with hostLines := FMap.set false s.hostLines (pa / 128) false, backInval := FMap.set false s.backInval (pa / 128) false }

end Sys2Proof.Machine
end

