-- ==== Sys2Proof/Machine/Firmware.lean ====
section
/-!
DEFINITION. Sys2Proof/Machine/Firmware.lean: the management firmware and the outside events of a sequencer: timer, interrupt,
matrix grant, failure, binding, the pre-emption ladder, the Cellar exchange, resumption, configuration and plain registers
(05_sequencer.md R134, R135; 11_matrix.md R236; 12_cluster.md R284; 19_launch_tenancy.md R370 to R388).
-/

namespace Sys2Proof.Machine

open Sys2Proof

/-! ### Sequencer events -/

/-- `TIMER_EXPIRY`: the counter compared with TCMP reaches it; in deterministic mode only retired units count (R135, log 78). -/
def execTimerExpiry (q : Nat) (s : State) : Out :=
  event s fun s => s.modSeq q fun x =>
    if x.live && x.tr.tcmp != 0 && !x.cur.det then
      { x with csr := { x.csr with cycle := if x.csr.cycle.toNat < x.tr.tcmp.toNat then x.tr.tcmp else x.csr.cycle } }
    else x

/-- `INTERRUPT`: cause 18 at a unit boundary, the source in sub and in TVAL (R126); a waiting m.on gives up its place (R134, R135, R236). -/
def execInterrupt (q : Nat) (s : State) : Out :=
  event s fun s =>
    let x := s.seq q
    if s.runnable q && x.takesInt then
      let s1 := (s.writeRecs q).modCore (coreOf q) fun k => { k with waiters := k.waiters.filter fun w => w != q }
      s1.takeTrap q
        { cause := 18, tval := BitVec.ofNat 64 x.pendingInt, sub := x.pendingInt
          rstg := if s.midMul q then some (0, 0, 0, 0) else none }
    else s

/-- The snapshot that a resumed sequencer waits with for its core's matrix unit (R383). -/
def State.heldSnap (s : State) (q : Nat) : Option Snap :=
  let x := s.seq q
  match s.launch? x.cur.partition x.cur.seq with
  | none => none
  | some l => l.snaps.find? fun b => b.q == q && b.holder && b.window == l.winno

/-- A resumed sequencer takes matrix mode again, with the Larder as its snapshot left it (R262, R383, log 33). -/
def State.retakeMatrix (s : State) (q : Nat) (b : Snap) : State :=
  (s.modCore (coreOf q) fun k =>
    { (k.restoreMatrix b q) with
      waiters := k.waiters.filter fun w => w != q
      larder := match b.larder with | some m => m | none => [] }).modSeq q fun x => { x with wantMatrix := false }

/-- A mode-off launch's blocks go, with its ring pair, once no resumed sequencer waits with one (R388). -/
def State.dropHeld (s : State) (p n : Nat) : State :=
  match s.launch? p n with
  | none => s
  | some l =>
    if l.log ≠ 0 ∨ l.held ∨ (s.seqsOf p n).any (fun q => (s.seq q).wantMatrix || (s.seq q).mark == .arrived) then s
    else
      (s.modLaunch p n fun l => { l with snaps := [], ringPair := none }).modPart p fun b =>
        { b with ringPairs := b.ringPairs.filter fun e => e.2 != n }

/-- `MATRIX_GRANT`: the first waiter is served when the unit is free (R236, R383). -/
def execMatrixGrant (c : Nat) (s : State) : Out :=
  let k := s.core c
  match k.holder, k.waiters with
  | none, w :: _ =>
    if (s.seq w).wantMatrix then
      event s fun s =>
        match s.heldSnap w with
        | none => s.modSeq w fun x => { x with wantMatrix := false }
        | some b => (s.retakeMatrix w b).dropHeld (s.seq w).cur.partition (s.seq w).cur.seq
    else if s.runnable w then
      let sd : Reg := BitVec.ofNat 5 (s.wordAt w 0 / 256 % 32)
      let r := (s.seq w).getS sd
      .next (State.finish w (.done ((s.giveMatrix w r).modSeq w fun x => x.setS sd (BitVec.ofNat 64 (mvlOf r))) .on))
    else event s fun s => s
  | _, _ => event s fun s => s

/-- `LAUNCH_FAIL` (R23): a launch that is not final. -/
def execLaunchFail (p n cause : Nat) (s : State) : Out :=
  event s fun s =>
    match s.launch? p n with
    | none => s
    | some l => if l.lstate = 4 ∨ l.lstate = 5 then s else s.failLaunch p n cause

/-! ### Choosing sequencers (R12, R298, R379) -/

/-- Whether a cluster takes part in a halt or an exchange. -/
def Cluster.away (c : Cluster) : Bool := c.halting || c.halted || c.busy

/-- Whether a sequencer is free. -/
def State.slotFree (s : State) (q : Nat) : Bool :=
  let x := s.seq q
  !x.live && !x.next.valid && !(s.cluster (clusterOf q)).away

/-- The ASIDs that a cluster serves or holds in its Cellar. -/
def State.asidsOn (s : State) (c : Nat) : List Nat :=
  let of (x : Seq) : List Nat := (if x.live then [x.cur.asid] else []) ++ (if x.next.valid then [x.next.asid] else [])
  let live := (s.seqs.map fun e => if clusterOf e.1 = c then of e.2 else []).flatten
  match (s.cluster c).shadow with
  | none => live
  | some k => live ++ (k.seqs.map fun e => of e.2).flatten

/-- A sealed ASID shares a cluster with no other (R298). -/
def State.sealOk (s : State) (asid c : Nat) : Bool :=
  let others := (s.asidsOn c).filter fun a => a != asid
  others.isEmpty || (!(s.asidEntry asid).sealed && others.all fun a => !(s.asidEntry a).sealed)

/-- Groups of a core that some record holds. -/
def State.heldGroups (s : State) (c : Nat) : BitVec 4 :=
  (List.range 4).foldl (fun g i =>
    let x := s.seq (4 * c + i)
    g ||| (if x.live then x.grant else 0) ||| (if x.next.valid then x.next.grant else 0)) 0

/-- A mask of groups. -/
def maskOf (l : List Nat) : BitVec 4 := BitVec.ofNat 4 ((l.map fun g => 2 ^ g).sum)

/-- Free groups of a core, ascending. -/
def State.freeGroups (s : State) (c : Nat) : List Nat := (List.range 4).filter fun g => !(s.heldGroups c).getLsbD g

/-- Each chosen sequencer's share of its core's free groups (R379). -/
def State.shareOut (s : State) (qs : List Nat) : List (BitVec 4) :=
  qs.map fun q =>
    let k := (qs.filter fun r => coreOf r == coreOf q).length
    let i := (qs.filter fun r => coreOf r == coreOf q && decide (r < q)).length
    let f := s.freeGroups (coreOf q)
    let g := f.length
    maskOf ((f.drop (i * (g / k) + Nat.min i (g % k))).take (g / k + (if i < g % k then 1 else 0)))

/-- The ranges of R12: start and count. -/
def cutRanges (n sq : Nat) : List (Nat × Nat) :=
  if n = 0 ∨ sq = 0 then [(0, 0)]
  else
    let chunk := (n + 64 * sq - 1) / (64 * sq) * 64
    (List.range ((n + chunk - 1) / chunk)).map fun k => (k * chunk, Nat.min chunk (n - k * chunk))

/-- Sequencers of a partition, ascending. -/
def Part.sequencers (b : Part) : List Nat := (b.clusters.map fun c => (List.range 64).map fun i => 64 * c + i).flatten

/-- Sequencers that a launch of an ASID may take, ascending. -/
def State.freeFor (s : State) (p asid : Nat) : List Nat :=
  let b := s.part p
  (b.clusters.map fun c => if s.sealOk asid c then ((List.range 64).map fun i => 64 * c + i).filter s.slotFree else []).flatten

/-- The lowest-numbered cluster with `n` of the sequencers given, and those. -/
def oneCluster (b : Part) (free : List Nat) (n : Nat) : Option (List Nat) :=
  (b.clusters.map fun c => free.filter fun q => clusterOf q == c).findSome? fun l => if n ≤ l.length then some (l.take n) else none

/-- The largest number of ranges that a launch has a use for (R379). -/
def Launch.need (l : Launch) : Nat := Nat.max 1 ((l.n + 63) / 64)

/-- The sequencers that the policy offers a launch; none while it must wait (R379). -/
def State.offer (s : State) (p : Nat) (l : Launch) : Option (List Nat) :=
  let b := s.part p
  let free := s.freeFor p l.asid
  if l.gang then oneCluster b free (Nat.min 64 l.need)
  else if l.log ≠ 0 then
    let n := Nat.min b.sequencers.length l.need
    if n ≠ 0 ∧ n ≤ free.length then some (free.take n) else none
  else if free.isEmpty then none
  else some (free.take l.need)

/-! ### Writing bind records (R375 to R378) -/

/-- The bind record of a range (R375). -/
def mkRecord (p n prio log : Nat) (det gang : Bool) (grant : BitVec 4) (asid : Nat) (entry : Word) (start budget count preload : Nat) :
    BindRec where
  w0 := BitVec.ofNat 64 (n + 2 ^ 32 * p + 2 ^ 37 * prio + 2 ^ 39 * log + (if det then 2 ^ 41 else 0) + (if gang then 2 ^ 42 else 0)
    + 2 ^ 43 * grant.toNat + 2 ^ 47 + 2 ^ 48 * asid)
  w1 := entry
  w2 := BitVec.ofNat 64 (start + 2 ^ 40 * budget)
  w3 := BitVec.ofNat 64 (count + 2 ^ 40 * preload)

/-- Budget of a launch: the packet's, else the partition's (R371, R386). -/
def Launch.budgetIn (l : Launch) (b : Part) : Nat := if l.budget ≠ 0 then l.budget else Nat.min (2 ^ 24 - 1) (fld (b.cfgWord 2) 32 32)

/-- The record of one range of a launch. -/
def State.recordOf (s : State) (p n : Nat) (l : Launch) (grant : BitVec 4) (start count : Nat) : BindRec :=
  mkRecord p n l.prio l.log l.det l.gang grant l.asid l.entry start (l.budgetIn (s.part p)) count l.preload

/-- Zeroes what a cluster still holds of a sealed ASID before it serves another (R298). -/
def State.cleanCluster (s : State) (c asid : Nat) : State :=
  let isSealed := (s.asidEntry asid).sealed
  match (s.cluster c).sealedAsid with
  | none => if isSealed then s.modCluster c fun k => { k with sealedAsid := some asid } else s
  | some a =>
    if a = asid then s
    else
      let s1 := s.modCluster c fun k =>
        { k with pad := { k.pad with sp := [], spPois := [] }, shadow := none, sealedAsid := if isSealed then some asid else none }
      { s1 with cores := s1.cores.mapVals fun i (k : Core) => if i / 16 = c then { k with sram := [], sramPois := [] } else k }

/-- The bytes of a preload run: offset and length (R377). -/
def State.preloadRun (s : State) (c preload : Nat) : Nat × Nat :=
  let d (k n : Nat) : Nat := s.readPhysNat ((s.cluster c).preTab + 32 * preload + k) n
  (d 12 4 % 2 ^ 22, Nat.min padSize (d 24 4))

/-- Whether a preload run meets a region of a launch that is current on its cluster: the firmware places no such run (R377). -/
def State.preloadMeets (s : State) (c preload : Nat) : Bool :=
  let r := s.preloadRun c preload
  preload != 0 && r.2 != 0 && s.seqs.any (fun e => e.2.live && clusterOf e.1 == c)
    && (List.range ((r.1 + r.2 - 1) / 2048 + 1 - r.1 / 2048)).any fun i => ((s.pad c).regionOfLine (r.1 / 2048 + i)).isSome

/-- A next record is written; its prefetch is made and its preload copy becomes pending: until it ends the bytes of its run are
open (R376, R377, log 25). -/
def State.writeNext (s : State) (q : Nat) (b : BindRec) : State :=
  let c := clusterOf q
  let s := (s.cleanCluster c b.asid).modSeq q fun x => { x with next := b }
  if b.preload = 0 then s
  else
    let d (k n : Nat) : Nat := s.readPhysNat ((s.cluster c).preTab + 32 * b.preload + k) n
    let run := s.preloadRun c b.preload
    let r : Preload := { q := q, off := run.1, len := run.2, src := BitVec.ofNat 64 (d 16 8) }
    let s1 := State.prefetch (coreOf q) b.asid b.partition 514 s (d 0 8) (Nat.min 65536 (d 8 4))
    (s1.modPad c fun p => p.write 0 0 r.off (s.freeBytes 0 (Nat.min r.len (padSize - r.off)))).modCluster c fun k =>
      { k with preloads := k.preloads ++ [r] }

/-- A slot loses its next record with what is pending for it. -/
def State.clearNext (s : State) (q : Nat) : State :=
  (s.modSeq q fun x => { x with next := {} }).modCluster (clusterOf q) fun c =>
    { c with preloads := c.preloads.filter fun r => r.cur || r.q != q }

/-- A range loses its bind record before it became current, and its window-1 block with it: its launch returns to the head of its queue
(R302, R378). -/
def State.loseRange (s : State) (p n q : Nat) (counted : Bool) : State :=
  match s.launch? p n with
  | none => s
  | some l =>
    let rs := l.ranges.map fun r => if r.q = q ∧ !r.ended then { r with lost := true } else r
    let s1 := s.modLaunch p n fun l =>
      { l with
        ranges := rs
        lstate := if l.lstate = 2 ∧ rs.all Range.lost then 1 else l.lstate
        snaps := l.snaps.filter fun b => !(rs.any fun r => r.lost && r.start == b.x.cur.start && r.count == b.x.cur.count)
        plost := if counted then (l.plost + 1) % 65536 else l.plost
        lostOnce := l.lostOnce || counted }
    let s1 := s1.modPart p fun b =>
      { b with queues := FMap.set [] b.queues l.prio (n :: (FMap.get [] b.queues l.prio).filter fun m => m != n) }
    s1.journal p n

/-- Evicts a slot's next record (R378). -/
def State.evict (s : State) (q : Nat) : State :=
  let b := (s.seq q).next
  if b.valid then (s.clearNext q).loseRange b.partition b.seq q true else s

/-- The entry state that a record gives a sequencer (R14). -/
def State.entryOf (s : State) (q : Nat) (b : BindRec) : State := (s.modSeq q fun x => { x with cur := b }).setEntry q

/-- Each sequencer of a logging launch writes its entry state as its snapshot of window 1; none when a ring is full
(R302, log 73). -/
def State.entrySnaps (p n : Nat) : List (Nat × BindRec) → State → Option State
  | [], s => some s
  | (q, b) :: rest, s =>
    let blk := (s.entryOf q b).makeSnap q 1 0 0xFFFF
    match s.putSnap p n { blk with vregs := [], masks := [], laneFlags := [], holder := false } with
    | none => none
    | some s => State.entrySnaps p n rest s

/-- The save area of a record that becomes current is zeroed (R14, R375). -/
def State.zeroSave (s : State) (q asid : Nat) : State := s.pokeVa q asid (0xFFFF0000100000 + q * 4096) (List.replicate 4096 0)

/-! ### Resumption after a window pre-emption (R382, R383) -/

/-- Launches of a context. -/
def Shadow.launches (k : Shadow) : List (Nat × Nat) := (k.seqs.map fun e => e.2.key).eraseDups

/-- Whether some Cellar holds a part of a launch. -/
def State.inCellar (s : State) (key : Nat × Nat) : Bool :=
  s.clusters.any fun e => match e.2.shadow with | some k => k.launches.contains key | none => false

/-- Places for blocks, in order: free sequencers with as many free groups as each held. -/
def State.placeSnaps (s : State) (cands : List Nat) : List Snap → List (Nat × BitVec 4) → Option (List (Nat × BitVec 4))
  | [], got => some got
  | b :: rest, got =>
    let need := grants b.x.grant
    let free (q : Nat) : List Nat :=
      let used := got.foldl (fun m e => if coreOf e.1 = coreOf q then m ||| e.2 else m) (0 : BitVec 4)
      (s.freeGroups (coreOf q)).filter fun g => !used.getLsbD g
    match cands.find? fun q => !(got.any fun e => e.1 == q) && decide (need ≤ (free q).length) with
    | none => none
    | some q => State.placeSnaps s cands rest (got ++ [(q, maskOf ((free q).take need))])

/-- One sequencer of a held launch runs again from its block. -/
def State.resumeOne (s : State) (p n : Nat) (l : Launch) (b : Snap) (q : Nat) (g : BitVec 4) : State :=
  let s1 := (s.modCore (coreOf q) fun k => k.zeroGroups (groupsOf g)).entryOf q (s.recordOf p n l g b.x.cur.start b.x.cur.count)
  let s1 := (s1.cleanCluster (clusterOf q) l.asid).restoreSeq q b g
  let s1 := s1.modSeq q fun x =>
    { x with handles := b.x.handles, chandles := b.x.chandles, cserial := b.x.cserial, hserial := Nat.max x.hserial b.x.hserial
             reclaim := b.x.reclaim, barUsed := [] }
  let s1 := s1.modPad (clusterOf q) fun d => d.loadLive b.regions
  if b.holder then
    (if (s1.core (coreOf q)).holder.isNone && (s1.core (coreOf q)).waiters.isEmpty then s1.retakeMatrix q b
     else (s1.modSeq q fun x => { x with wantMatrix := true }).modCore (coreOf q) fun k => { k with waiters := k.waiters ++ [q] })
  else
    match b.larder with
    | some m => if (s1.core (coreOf q)).holder.isNone then s1.modCore (coreOf q) fun k => { k with larder := m, lastLaunch := some (p, n) } else s1
    | none => s1

/-- A launch that a window pre-emption holds is bound again from its blocks, where free sequencers have the groups they held; none while it
must wait. Where what stands in its rings cannot be read it fails with cause 19 (R382, R383, log 83). -/
def State.resumeLaunch (s : State) (p n : Nat) (l : Launch) : Option State :=
  let hs := l.snaps.filter fun b => b.window == l.winno
  if hs.isEmpty || s.inCellar (p, n) || (l.gang && !(s.seqsOf p n).isEmpty) then none
  else if hs.any fun b => s.ringBad p b.die l.ringPair b.pos b.size || s.ringBad p b.die l.ringPair b.besidePos b.beside then
    some (s.failLaunch p n 19)
  else
    let free := s.freeFor p l.asid
    let place := if l.gang then
        (s.part p).clusters.findSome? fun c => s.placeSnaps (free.filter fun q => clusterOf q == c) hs []
      else s.placeSnaps free hs []
    place.map fun qs =>
      let es := hs.zip qs
      let placed (q : Nat) : Nat := match es.find? fun e => e.1.q == q with | some e => e.2.1 | none => q
      let s1 := s.modLaunch p n fun l =>
        { l with
          held := false
          ranges := l.ranges.map fun r => if r.ended then r else { r with q := placed r.q }
          snaps := l.snaps.map fun b => { b with q := placed b.q } }
      let s1 := { s1 with streams := s1.streams.mapVals fun _ (t : Stream) =>
        { t with binds := t.binds.map fun (e : Nat × Nat × Nat × Nat) => if e.2.2 = (p, n) then (placed e.1, e.2) else e } }
      let s1 := es.foldl (fun (s : State) e => s.resumeOne p n l e.1 e.2.1 e.2.2) s1
      ((s1.dequeue p n).dropHeld p n).journal p n

/-! ### Binding a launch (R10, R12, R18, R302, R378, R379) -/

/-- Whether ranges hold all of a launch's elements. -/
def Launch.covered (l : Launch) (rs : List Range) : Bool := !rs.isEmpty && !rs.any Range.lost && (rs.map Range.count).sum == l.n

/-- A launch is bound: its ranges stand, with a ring pair and window 1 when it logs, and the journal says so (R10, R302, R388). -/
def State.setBound (s : State) (p n : Nat) (l : Launch) (rs : List Range) : State :=
  let pair := if l.log = 0 then none else l.ringPair <|> s.freePair p
  let s1 := s.modLaunch p n fun l =>
    { l with lstate := 2, winno := if l.log = 0 then 0 else 1, ringPair := pair, ranges := rs, snaps := [] }
  let s1 := match pair with
    | some k => s1.modPart p fun b => { b with ringPairs := FMap.put b.ringPairs k n }
    | none => s1
  (s1.dequeue p n).journal p n

/-- The entry snapshots of sequencers of a logging launch that have been bound: it fails when a ring is full (R302). -/
def State.snapBound (s : State) (p n : Nat) (l : Launch) (recs : List (Nat × BindRec)) : State :=
  if l.log = 0 then s else match State.entrySnaps p n recs s with | some t => t | none => s.failLaunch p n 13

/-- Records are written for ranges of a launch, whose ranges are then `rs`: an accepted launch is bound once they hold all its elements
(R10), and each sequencer of a logging launch that is bound writes its window-1 block (R302). -/
def State.putRecords (s : State) (p n : Nat) (l : Launch) (rs : List Range) (recs : List (Nat × BindRec)) : State :=
  let write (s : State) : State := recs.foldl (fun (s : State) e => s.writeNext e.1 e.2) s
  if l.lstate ≠ 1 then
    let s1 := s.modLaunch p n fun l => { l with ranges := rs }
    (write (if rs.any Range.lost then s1 else s1.dequeue p n)).snapBound p n l recs
  else if l.covered rs then
    let s1 := write (s.setBound p n l rs)
    s1.snapBound p n l (rs.map fun r => (r.q, (s1.seq r.q).next))
  else write (s.modLaunch p n fun l => { l with ranges := rs })

/-- A launch is bound whole on the sequencers offered (R10, R12, R302, R379). -/
def State.bindWhole (s : State) (p n : Nat) (l : Launch) (offered : List Nat) : State :=
  let rs := cutRanges l.n offered.length
  let es := (offered.take rs.length).zip (rs.zip (s.shareOut (offered.take rs.length)))
  s.putRecords p n l (es.map fun e => { q := e.1, start := e.2.1.1, count := e.2.1.2 })
    (es.map fun e => (e.1, s.recordOf p n l e.2.2 e.2.1.1 e.2.1.2))

/-- The sequencers for the ranges of a launch whose records were lost; none while they must wait (R377 to R379). -/
def State.offerLost (s : State) (p : Nat) (l : Launch) : Option (List Nat) :=
  let k := (l.ranges.filter Range.lost).length
  let free := s.freeFor p l.asid
  let offered := if l.gang then
      (match l.ranges.filter fun r => !r.lost && !r.ended with
       | r :: _ => some ((free.filter fun q => clusterOf q == clusterOf r.q).take k)
       | [] => oneCluster (s.part p) free k)
    else some (free.take k)
  offered.filter fun qs => decide (k ≤ qs.length) && !qs.any fun q => s.preloadMeets (clusterOf q) l.preload

/-- Ranges whose records were lost are bound again, each on a sequencer of its own (R378). -/
def State.bindLost (s : State) (p n : Nat) (l : Launch) : Option State :=
  (s.offerLost p l).map fun qs =>
    let es := ((l.ranges.filter Range.lost).zip qs).zip (s.shareOut qs)
    let go (r : Range) : Range :=
      match es.find? fun e => e.1.1 == r with | some e => { r with q := e.1.2, lost := false } | none => r
    s.putRecords p n l (l.ranges.map go) (es.map fun e => (e.1.2, s.recordOf p n l e.2 e.1.1.start e.1.1.count))

/-- Whether an accepted launch may leave that state: its partition is enabled, its prerequisites are complete, a logging one finds a ring
pair, and its partition admits a sealed ASID (R10, R11, R298, R379, R386, R388). -/
def State.mayBind (s : State) (p : Nat) (l : Launch) : Bool :=
  l.lstate == 1 && !l.held && (s.part p).weight != 0 && l.pre0 == 1 && l.pre1 == 1
    && (l.log == 0 || l.ringPair.isSome || (s.freePair p).isSome)
    && (!(s.asidEntry l.asid).sealed || ((s.part p).cfgWord 2).getLsbD 10)

/-- Binds a launch if it is ready (R10, R11, R379, log 75), or binds it again from its blocks when it is held (R382). A preload run that
would meet a region of a current launch keeps it waiting (R377). -/
def State.bindLaunch (s : State) (p n : Nat) : Option State :=
  match s.launch? p n with
  | none => none
  | some l =>
    if l.failing.isSome then none
    else if l.held then s.resumeLaunch p n l
    else if l.ranges.any Range.lost then (if l.lstate = 1 ∧ !s.mayBind p l then none else s.bindLost p n l)
    else if !s.mayBind p l || !l.ranges.isEmpty then none
    else
      match s.offer p l with
      | none => none
      | some qs => if qs.any fun q => s.preloadMeets (clusterOf q) l.preload then none else some (s.bindWhole p n l qs)

/-- Launches of a partition in the order in which they are served (R379). -/
def Part.order (b : Part) : List Nat := ((List.range 4).map fun k => FMap.get [] b.queues (3 - k)).flatten

/-- The launch that a partition would bind next, with its priority and the state once it is bound; none in a partition of weight 0
(R379, R386, log 72). -/
def State.nextBind (s : State) (p : Nat) : Option (Nat × Nat × State) :=
  if (s.part p).weight = 0 then none
  else
    (s.part p).order.findSome? fun n =>
      (s.bindLaunch p n).map fun t => (n, (match s.launch? p n with | some l => l.prio | none => 0), t)

/-- The other partitions that have a launch to bind, with its priority. -/
def State.rivals (s : State) (p : Nat) : List (Nat × Nat) :=
  s.parts.filterMap fun e => if e.1 = p then none else (s.nextBind e.1).map fun b => (e.1, b.2.1)

/-- Whether a partition has bound as many launches in this round as its weight gives it. -/
def Part.spent (b : Part) : Bool := decide (b.weight ≤ b.served)

/-- A partition is served when no other has a launch of a higher priority to bind, and within a priority by
weighted round-robin: each binds up to its weight in a round, and a new round begins when every one that can bind has done so
(log 113). The launch that it binds, and the state. -/
def State.serve (s : State) (p : Nat) : Option (Nat × State) :=
  match s.nextBind p with
  | none => none
  | some (n, k, t) =>
    let rs := s.rivals p
    let peers := (rs.filter fun e => e.2 == k).map Prod.fst
    if rs.any fun e => decide (k < e.2) then none
    else if !(s.part p).spent then some (n, t.modPart p fun b => { b with served := b.served + 1 })
    else if peers.all fun r => (s.part r).spent then
      some (n, ({ t with parts := t.parts.mapVals fun _ (b : Part) => { b with served := 0 } }).modPart p fun b => { b with served := 1 })
    else none

/-- Whether a launch is held. -/
def State.isHeld (s : State) (p n : Nat) : Bool := match s.launch? p n with | some l => l.held | none => false

/-- `LAUNCH_BIND` (R379): the launch that the policy serves is bound, when it is not one that a window pre-emption holds. -/
def execLaunchBind (p : Nat) (s : State) : Out :=
  event s fun s => match s.serve p with | none => s | some (n, t) => if s.isHeld p n then s else t

/-- `LAUNCH_RESUME` (R379, R382, R383, log 83): the held launch is bound again when the policy serves it. -/
def execLaunchResume (p n : Nat) (s : State) : Out :=
  event s fun s => match s.serve p with | none => s | some (m, t) => if m = n ∧ s.isHeld p n then t else s

/-- Whether the sequencers that a gang or a logging launch takes whole are free, those that hold a record of it already counted
(R18, R302, R379). -/
def State.wholeFree (s : State) (p c : Nat) (l : Launch) : Bool :=
  let free := (s.freeFor p l.asid).filter fun r => !l.gang || clusterOf r == c
  let size := Nat.min (if l.gang then 64 else (s.part p).sequencers.length) l.need
  decide (size ≤ (l.ranges.filter fun r => !r.lost).length + free.length)

/-- Whether the firmware may write a record of a launch to a slot: for a range that was lost, or a further range of an accepted launch
that may be bound. Those of a gang lie in one cluster, a gang or logging launch takes free slots only, and its first records only where it
finds them all; a preload run meets no region of a current launch (R10, R11, R18, R302, R377, R378, log 112). -/
def State.mayWrite (s : State) (q : Nat) (b : BindRec) (l : Launch) : Bool :=
  let c := clusterOf q
  let lost := l.ranges.any fun r => r.lost && r.start == b.start && r.count == b.count
  let apart := l.ranges.all fun r => decide (b.start + b.count ≤ r.start ∨ r.start + r.count ≤ b.start)
  l.failing.isNone && !l.held && (l.lstate != 1 || s.mayBind b.partition l)
    && (lost || (l.lstate == 1 && apart && decide (b.start + b.count ≤ l.n)))
    && ((!l.gang && l.log == 0) || (s.slotFree q && (l.lstate != 1 || s.wholeFree b.partition c l)))
    && (!l.gang || l.ranges.all fun r => r.lost || r.ended || clusterOf r.q == c)
    && !s.preloadMeets c b.preload

/-- Whether a record may stand on a slot: the slot has no next record, its cluster belongs to the record's partition and takes part in no
halt, and a sealed ASID shares it with no other (R298, R376, R386). -/
def State.slotTakes (s : State) (q : Nat) (b : BindRec) : Bool :=
  let c := clusterOf q
  b.valid && !(s.seq q).next.valid && (s.part b.partition).clusters.contains c && !(s.cluster c).away && s.sealOk b.asid c

/-- `BIND_NEXT_WRITE`: only while the slot has no next record. A range of the launch is then bound to the slot; the launch leaves accepted
when its last range has a record (R10, R376, log 112). Bits of the record that R375 shows as zero are stored as they are and ignored in use
(DESIGN CHOICE, log 127). -/
def execBindNextWrite (q : Nat) (w0 w1 w2 w3 : Word) (s : State) : Out :=
  event s fun s =>
    let b : BindRec := { w0 := w0, w1 := w1, w2 := w2, w3 := w3 }
    if !s.slotTakes q b then s
    else
      match s.launch? b.partition b.seq with
      | none => s.writeNext q b
      | some l =>
        if !s.mayWrite q b l then s
        else
          let mine (r : Range) : Bool := r.lost && r.start == b.start && r.count == b.count
          let rs := if l.ranges.any mine then l.ranges.map fun r => if mine r then { r with q := q, lost := false } else r
            else l.ranges ++ [{ q := q, start := b.start, count := b.count }]
          s.putRecords b.partition b.seq l rs [(q, b)]

/-- `BIND_WITHDRAW`: no effect on a record that has moved (R376). -/
def execBindWithdraw (q : Nat) (s : State) : Out :=
  event s fun s =>
    let b := (s.seq q).next
    if b.valid then (s.clearNext q).loseRange b.partition b.seq q false else s

/-- Groups that the live sequencers of a core hold. -/
def State.liveGroups (s : State) (c : Nat) : BitVec 4 :=
  (List.range 4).foldl (fun g i => let x := s.seq (4 * c + i); g ||| (if x.live then x.grant else 0)) 0

/-- Whether a slot's next record may become current: its launch has left accepted (R10, R376, log 79). -/
def State.mayAdvance (s : State) (q : Nat) : Bool :=
  let x := s.seq q
  !x.live && x.next.valid && !(s.cluster (clusterOf q)).away && (s.liveGroups (coreOf q) &&& x.next.grant) == 0
    && (match s.launch? x.next.partition x.next.seq with | some l => l.lstate != 1 && l.failing.isNone | none => true)

/-- `BIND_ADVANCE` (R14, R376): the slot issues once its preload copy has ended. -/
def execBindAdvance (q : Nat) (s : State) : Out :=
  event s fun s =>
    if !s.mayAdvance q then s
    else
      let b := (s.seq q).next
      let s1 := (s.modSeq q fun x => { x with next := {} }).modCore (coreOf q) fun k => k.zeroGroups (groupsOf b.grant)
      let s1 := (s1.entryOf q b).zeroSave q b.asid
      let mine (r : Preload) : Bool := r.q == q && !r.cur
      let wait := (s1.cluster (clusterOf q)).preloads.any fun r => mine r && !r.done
      let s1 := s1.modCluster (clusterOf q) fun c =>
        { c with preloads := (c.preloads.filter fun r => !(mine r && r.done)).map fun r => if mine r then { r with cur := true } else r }
      s1.modSeq q fun x => { x with preloading := wait }

/-- The copy of a preload, as a command of the copy engine that is not logged (R377). -/
def preloadCmd (q : Nat) (b : BindRec) (r : Preload) : EngCmd :=
  { id := 2 ^ 32 + q, owner := q, op := .copy, sa := BitVec.ofNat 64 (padBase + r.off), sb := r.src, sc := BitVec.ofNat 64 r.len, tag := 0
    bar := 0, fctl := 0, asid := b.asid, partition := b.partition, launch := b.seq, log := 0, window := 0 }

/-- `PRELOAD_COPY_DONE`: the bytes arrive, or the launch fails with the error's cause (R377, R378, log 80). -/
def execPreloadCopyDone (q : Nat) (s : State) : Out :=
  event s fun s =>
    let c := clusterOf q
    match (s.cluster c).preloads.find? fun r => r.q == q && !r.done with
    | none => s
    | some r =>
      let x := s.seq q
      let b := if r.cur then x.cur else x.next
      let fail (cause : Nat) : State := s.failLaunch b.partition b.seq cause
      if padSize < r.off + r.len then fail 7
      else
        match s.engRead c (preloadCmd q b r) r.src.toNat r.len 0 0 with
        | .bad cause _ => fail cause
        | .wait s => s
        | .ok bytes =>
          let s1 := s.modPad c fun p => (p.write 0 0 r.off bytes).clear 0 0 r.off r.len
          let s1 := s1.dropReads (.engine c (2 ^ 32 + q))
          if r.cur then
            (s1.modCluster c fun k => { k with preloads := k.preloads.filter fun o => o != r }).modSeq q fun x => { x with preloading := false }
          else s1.modCluster c fun k => { k with preloads := k.preloads.map fun o => if o = r then { o with done := true } else o }

/-! ### The pre-emption ladder (R186, R380 to R384) -/

/-- Window pre-emption of a launch is requested at each of its sequencers. -/
def State.requestMark (s : State) (p n : Nat) : State :=
  (s.seqsOf p n).foldl (fun (s : State) q => s.modSeq q fun x => { x with markReq := true }) s

/-- `BUDGET_EXPIRY`: CYCLE, counted from the bind, reaches the budget (R380, log 78). -/
def execBudgetExpiry (q : Nat) (s : State) : Out :=
  event s fun s =>
    let x := s.seq q
    let lim := x.budgetFrom + x.cur.budget * 65536
    if !x.live || x.cur.budget == 0 then s
    else
      let s1 := s.modSeq q fun x => { x with csr := { x.csr with cycle := BitVec.ofNat 64 (Nat.max x.csr.cycle.toNat lim) } }
      (s1.modLaunch x.cur.partition x.cur.seq fun l => { l with demote := true }).requestMark x.cur.partition x.cur.seq

/-- `RECLAIM_WAIT_EXPIRY`: the next grade is the window (R381, log 77). -/
def execReclaimWaitExpiry (q : Nat) (s : State) : Out :=
  event s fun s =>
    let x := s.seq q
    if x.live && x.reclaim.isSome then s.requestMark x.cur.partition x.cur.seq else s

/-- Orders a cluster to halt; the sequencers of its logging launches elsewhere halt with it (`State.heldBack`), and a gang launch
lies in one cluster (R18, R384). -/
def State.haltCluster (s : State) (c : Nat) : State :=
  s.modCluster c fun x => if x.halted then x else { x with halting := true }

/-- `MARK_WAIT_EXPIRY`: the next grade is immediate, on every cluster of the launch (R381). -/
def execMarkWaitExpiry (p n : Nat) (s : State) : Out :=
  event s fun s =>
    let qs := s.seqsOf p n
    if qs.any fun q => (s.seq q).markReq then (qs.map clusterOf).eraseDups.foldl (fun (s : State) c => s.haltCluster c) s else s

/-- `POST_RECLAIM`: a count below the present grant; of two the smaller stands (R186, R187). -/
def execPostReclaim (q c : Nat) (s : State) : Out :=
  event s fun s => s.modSeq q fun x =>
    if x.live && decide (c < grants x.grant) then
      { x with reclaim := some (match x.reclaim with | some o => Nat.min o c | none => c) }
    else x

/-- `MARK_REQUEST` (R381, R382). -/
def execMarkRequest (q : Nat) (s : State) : Out :=
  event s fun s => s.modSeq q fun x => if x.live then { x with markReq := true } else x

/-- `CLUSTER_HALT` (R384). -/
def execClusterHalt (c : Nat) (s : State) : Out := event s fun s => s.haltCluster c

/-- Sequencers of a cluster that hold a record. -/
def State.liveOf (s : State) (c : Nat) : List Nat := s.seqs.keysWhere fun q x => x.live && clusterOf q == c

/-- Whether a cluster has come to rest: stores performed, append blocks assigned, the current records' preloads ended (log 81). -/
def State.atRest (s : State) (c : Nat) : Bool :=
  (s.liveOf c).all (fun q => !s.storesOpen q && (s.seq q).appends.isEmpty && !(s.seq q).preloading)
    && ((s.cluster c).cmds.all fun (k : EngCmd) => !s.inFlight c k)

/-- Whether a halt of a cluster holds a sequencer: one of the cluster, or one elsewhere of a logging launch that has a sequencer
there (R302, R384, log 96). -/
def State.haltHolds (s : State) (c q : Nat) : Bool :=
  let x := s.seq q
  x.live && (clusterOf q == c || (x.cur.log != 0 && (s.liveOf c).any fun r => (s.seq r).key == x.key))

/-- `CLUSTER_HALTED`: the links of the sequencers that halt break, their waiters of m.on give up their places, one inside an mt.mul has
its restart registers zero, and next records of the cluster are evicted (R148, R236, R251, R378, R384). -/
def execClusterHalted (c : Nat) (s : State) : Out :=
  event s fun s =>
    if !(s.cluster c).halting || !s.atRest c then s
    else
      let qs := s.seqs.keysWhere fun q _ => s.haltHolds c q
      let s1 := qs.foldl (fun (t : State) q => t.modSeq q fun x => { (s.stopSeq q x) with link := .none }) s
      let s1 := { s1 with cores := s1.cores.mapVals fun _ (k : Core) =>
        { k with waiters := k.waiters.filter fun w => (s.seq w).wantMatrix || !qs.contains w } }
      let s1 := ((List.range 64).map fun i => 64 * c + i).foldl (fun (s : State) q => s.evict q) s1
      s1.modCluster c fun k => { k with halting := false, halted := true }

/-- A monitor by its number: thermal 0 to 127, droop events from 128 on, process monitors from 192 on (R398). -/
def State.monitor (s : State) (k : Nat) : Nat := FMap.get 0 s.monitors k

/-- The firmware raises a cluster's island to 1.00 GHz for a swap, unless a monitor of it is above 110 °C (R398, R399). -/
def State.raiseIsland (s : State) (c : Nat) : State :=
  let i := 18 * (c / 16) + c % 16
  if ((List.range 128).filter fun t => Config.islandOf t == i).any fun t => decide (1760 < s.monitor t) then s
  else { s with islands := FMap.set 0 s.islands i 0 }

/-- `CELLAR_EXCHANGE` (R284): of a halted cluster, whose island the firmware first raises to 1.00 GHz unless a monitor of it is above
110 °C (R399). -/
def execCellarExchange (c : Nat) (s : State) : Out :=
  event s fun s => if (s.cluster c).halted then (s.raiseIsland c).modCluster c fun k => { k with busy := true } else s

/-- The live context of a cluster. -/
def State.contextOf (s : State) (c : Nat) : Shadow where
  pad := s.pad c
  seqs := s.seqs.filter fun e => clusterOf e.1 == c && e.2.live
  cores := s.cores.filter fun e => e.1 / 16 == c
  cmds := (s.cluster c).cmds

/-- Puts a context on a cluster; the counters of each sequencer's generations and serials go on from the larger one. -/
def State.putContext (s : State) (c : Nat) (k : Shadow) : State :=
  let old := s.seqs
  let base := FMap.mapVals s.seqs fun q (x : Seq) =>
    if clusterOf q = c ∧ x.live then { Seq.idle with hserial := x.hserial, gen := x.gen } else x
  let s1 := { s with
    seqs := k.seqs.foldl (fun (m : FMap Seq) (e : Nat × Seq) =>
      FMap.put m e.1 { e.2 with hserial := Nat.max e.2.hserial (FMap.get Seq.idle old e.1).hserial, gen := (FMap.get Seq.idle old e.1).gen }) base
    cores := k.cores.foldl (fun (m : FMap Core) (e : Nat × Core) => FMap.put m e.1 e.2.reopen) (FMap.keep s.cores fun i => i / 16 != c) }
  s1.modCluster c fun x => { x with pad := k.pad, cmds := k.cmds }

/-- A record with another priority (R375). -/
def BindRec.withPrio (b : BindRec) (k : Nat) : BindRec :=
  { b with w0 := BitVec.ofNat 64 (b.w0.toNat % 2 ^ 37 + k % 4 * 2 ^ 37 + b.w0.toNat / 2 ^ 39 * 2 ^ 39) }

/-- The sequencers of a launch that goes down one priority count a fresh budget, on clusters and in Cellars, and their records carry the
new priority (R380). -/
def State.freshBudget (s : State) (key : Nat × Nat) : State :=
  let go (x : Seq) : Seq :=
    if x.live && x.key == key then { x with budgetFrom := x.csr.cycle.toNat, cur := x.cur.withPrio (x.cur.prio - 1) } else x
  { s with
    seqs := s.seqs.mapVals fun _ (x : Seq) => go x
    clusters := s.clusters.mapVals fun _ (c : Cluster) =>
      { c with shadow := c.shadow.map fun (k : Shadow) => { k with seqs := k.seqs.mapVals fun _ (x : Seq) => go x } } }

/-- A launch that an exchange takes away is held; one whose budget ran out goes to the tail of the queue one priority lower (R380,
R384). -/
def State.holdAway (s : State) (key : Nat × Nat) : State :=
  match s.launch? key.1 key.2 with
  | none => s
  | some l =>
    if l.demote then (s.freshBudget key).holdLaunch key.1 key.2 else (s.modLaunch key.1 key.2 fun l => { l with held := true }).journal key.1 key.2

/-- A launch that an exchange brings back is held no more, unless a Cellar or a window pre-emption keeps a part of it (R384,
log 82). -/
def State.bringBack (s : State) (key : Nat × Nat) : State :=
  match s.launch? key.1 key.2 with
  | none => s
  | some l =>
    if s.inCellar key || (l.log == 0 && !l.gang && !l.snaps.isEmpty) then s
    else ((s.modLaunch key.1 key.2 fun l => { l with held := false }).dequeue key.1 key.2).journal key.1 key.2

/-- A halted cluster goes on: a k.wfi that was halted in its wait completes (R160, R381, R385). -/
def State.resumeCluster (s : State) (c : Nat) : State :=
  let qs := s.seqs.keysWhere fun q x => s.haltHolds c q && x.wfi == some x.csr.units
  (qs.foldl (fun (s : State) q => s.modSeq q fun x => { x with woken := true }) s).modCluster c fun k =>
    { k with halted := false, halting := false }

/-- `EXCHANGE_DONE`: an empty shadow exchanges in an all-zero cluster, which stays halted; an occupied one is exchanged back in,
which resumes its context (R284, R384). -/
def execExchangeDone (c : Nat) (s : State) : Out :=
  event s fun s =>
    let k := s.cluster c
    if !k.busy then s
    else
      let out := s.contextOf c
      let into : Shadow := k.shadow.getD {}
      let s1 := (s.putContext c into).modCluster c fun k => { k with shadow := some out, busy := false }
      let s1 := out.launches.foldl (fun (s : State) (e : Nat × Nat) => s.holdAway e) s1
      let s1 := into.launches.foldl (fun (s : State) (e : Nat × Nat) => s.bringBack e) s1
      if k.shadow.isSome then s1.resumeCluster c else s1

/-- `DISCARD_SHADOW` (R384). -/
def execDiscardShadow (c : Nat) (s : State) : Out :=
  event s fun s => s.modCluster c fun k => if k.busy then k else { k with shadow := none }

/-- `CLUSTER_RESUME` (R160, R381, R385). -/
def execClusterResume (c : Nat) (s : State) : Out :=
  event s fun s =>
    if (s.cluster c).busy || !((s.cluster c).halted || (s.cluster c).halting) then s else s.resumeCluster c

/-! ### Configuration (R386, R387) -/

/-- Writable bits of a configuration word, by offset / 8 from 0x200. -/
def cfgMask (k : Nat) : Word :=
  match k with
  | 0 => 0xFFFFFFFF
  | 1 => 0xFFFFFFFF
  | 2 => 0xFFFFFFFF000007FF
  | 3 => 0x000FFFFFFFF00000
  | 4 => 0xFFFFFFFF
  | 5 => 0xFFFF
  | 6 => 0x000FFFFFFFFFF000
  | 7 => 0x000FFFFFFFFFF000
  | 24 => 0xFFFFFFFF
  | _ => if 8 ≤ k ∧ k < 24 then 0x000FFFFFFFFFF000 else 0

/-- Whether a partition has a launch bound or held. -/
def State.partBusy (s : State) (p : Nat) : Bool :=
  s.launches.any fun e => e.1 / 2 ^ 32 == p && (e.2.lstate == 2 || e.2.lstate == 3 || e.2.lstate == 6 || e.2.held)

/-- A cluster changes hands: its state is zeroed and its Larder sets are invalid (R387). -/
def State.zeroCluster (s : State) (c : Nat) : State :=
  let s1 := s.modCluster c fun k => { k with pad := {}, shadow := none, sealedAsid := none }
  { s1 with cores := FMap.keep s1.cores fun i => i / 16 != c }

/-- The firmware invalidates the ASIDs of a partition (R387). -/
def State.dropAsids (s : State) (b : Part) : State :=
  { s with tlb := s.tlb.mapVals fun _ (l : List TlbEntry) => l.filter fun t => !b.hasAsid t.asid }

/-- `PARTITION_CONFIG_WRITE` (R386, R387, R416). -/
def execPartitionConfigWrite (p off : Nat) (v : Word) (s : State) : Out :=
  event s fun s =>
    let k := (off - 0x200) / 8
    if off < 0x200 ∨ 0x300 ≤ off ∨ off % 8 ≠ 0 ∨ 32 ≤ p ∨ s.partBusy p then s
    else
      let b := s.part p
      let w := v &&& cfgMask k
      let s1 := s.modPart p fun b => { b with cfg := { b.cfg with words := FMap.set 0 b.cfg.words k w } }
      let s1 := { s1 with collCounts := s1.collCounts.filter fun e => e.1 != p, colls := s1.colls.filter fun k => k.partition != p }
      if k = 0 then
        let moved := bitsSet 0 32 (fld (b.cfgWord 0 ^^^ w) 0 32)
        (moved.foldl (fun (s : State) c => s.zeroCluster c) s1).dropAsids b
      else s1

/-! ### Plain registers (R5, R318) -/

/-- A partition's block after a plain write (R370). -/
def Part.write (b : Part) (off : Nat) (v : Word) (sys : Bool) : Part :=
  if 0x120 ≤ off ∧ off < 0x140 then
    let w := (off - 0x120) / 8
    { b with lasid := FMap.set 0 b.lasid w (fld v 0 16), lpre := FMap.set 0 b.lpre w (fld v 16 8) }
  else
    match off with
    | 0x140 => if sys then { b with jbase := fld v 18 34 * 2 ^ 18 } else b
    | 0x160 => if sys then { b with nbase := fld v 0 52 } else b
    | 0x168 => if sys then { b with nsize := fld v 6 26 * 64 } else b
    | 0x178 => { b with ntail := fld v 0 32 }
    | 0x180 => { b with istat := b.istat &&& ~~~ v.truncate 4, undelivered := b.undelivered &&& ~~~ v.truncate 4 }
    | 0x308 => { b with attDone := b.attDone && !v.getLsbD 1, manDone := b.manDone && !v.getLsbD 2 }
    | _ => b

/-- A debug block after a plain write (R310). -/
def Part.writeDebug (b : Part) (off : Nat) (v : Word) : Part :=
  match off with
  | 0x00 => { b with dbgLaunch := fld v 0 32 }
  | 0x08 => { b with dbgArg0 := fld v 0 32 }
  | 0x10 => { b with dbgArg1 := fld v 0 32 }
  | 0x28 => { b with brkstop := v.getLsbD 0, watchstop := v.getLsbD 1 }
  | _ => b

/-- A translation block after a plain write (R300). -/
def Die.write (x : Die) (off : Nat) (v : Word) : Die :=
  match off with
  | 0x00 => { x with invAsid := v.truncate 16, invAll := v.getLsbD 16 }
  | 0x08 => { x with invVa := v &&& 0x00FFFFFFFFFFF000 }
  | 0x10 => { x with invPages := v.truncate 32 }
  | _ => x

/-- Whether a base die's migration runs: from its start until its frames have moved (R336). -/
def Stack.migrating (k : Stack) : Bool := k.mgPhase == 1 || k.mgPhase == 2 || k.mgPhase == 3

/-- A base die's block after a plain write; a target is not changed while its remap or migration runs (R336, log 70). -/
def Stack.write (k : Stack) (off : Nat) (v : Word) : Stack :=
  match off with
  | 0x40 => if k.rmBusy then k else { k with rmTarget := v &&& 0x3FFFFFF }
  | 0x80 => if k.migrating then k else { k with mgSrc := v &&& 0x0007FFFFFFFFF000 }
  | 0x88 => if k.migrating then k else { k with mgDst := v &&& 0x000FFFFFFFFFFFFF }
  | 0x90 => if k.migrating then k else { k with mgPages := v &&& 0x3FFFFFF }
  | _ => k

/-- The power block after a plain write: ceilings and the power limit; a value above the largest that R398 gives is stored as that
largest one (R398, log 114). -/
def State.writePower (s : State) (off : Nat) (v : Word) : State :=
  if 0x800 ≤ off ∧ off < 0x800 + 8 * 36 then { s with ceilings := FMap.set 0 s.ceilings ((off - 0x800) / 8) (Nat.min 15 (fld v 8 8)) }
  else if off = 0xA00 then { s with powerLimit := Nat.min 2400 (fld v 0 16) }
  else s

/-- The function of the host through which a register of a partition's block or of its debug block is reached (R390, R316). -/
def regFunction (pa : Nat) : Nat :=
  let o := pa - 0xF000000000000
  if 0x4000000 ≤ o ∧ o < 0x4020000 then (o - 0x4000000) / 0x1000
  else if 0x2000000 ≤ o ∧ o < 0x2002000 then (o - 0x2000000) / 0x100
  else 0

/-- A plain register write by an 8-byte address of the register region (R318); what has no writable field ignores it
(log 62); after a failed boot only the system partition's function is there (R391). -/
def State.writeRegister (s : State) (pa : Nat) (v : Word) (sys : Bool) : State :=
  let o := pa - 0xF000000000000
  if pa % 8 ≠ 0 ∨ (s.bootFailed ∧ !sys ∧ regFunction pa ≠ 0) then s
  else if 0x4000000 ≤ o ∧ o < 0x4020000 then s.modPart ((o - 0x4000000) / 0x1000) fun b => b.write (o % 0x1000) v sys
  else if 0x2000000 ≤ o ∧ o < 0x2002000 then s.modPart ((o - 0x2000000) / 0x100) fun b => b.writeDebug (o % 0x100) v
  else if !sys then s
  else if 0x1000000 ≤ o ∧ o < 0x1002000 then s.modDie ((o - 0x1000000) / 0x1000) fun x => x.write (o % 0x1000) v
  else if 0x3000000 ≤ o ∧ o < 0x3008000 then s.modStack ((o - 0x3000000) / 0x1000) fun k => k.write (o % 0x1000) v
  else if 0x5020000 ≤ o ∧ o < 0x5020000 + 32 * 0x40 ∧ o % 0x40 = 0 then
    s.modCluster ((o - 0x5020000) / 0x40) fun c => { c with preTab := fld v 0 52 }
  else if 0x6000000 ≤ o ∧ o < 0x6001000 then s.writePower (o - 0x6000000) v
  else s

/-- `REGISTER_WRITE`: an address in no region is a bus error of the management core that writes it (R5, R316, R318). -/
def execRegisterWrite (pa : Nat) (v : Word) (sys : Bool) (s : State) : Out :=
  if sys && regionOf pa == .none then .fault .busError
  else event s fun s => if regionOf pa = .registers then s.writeRegister pa v sys else s

end Sys2Proof.Machine
end

