-- ==== Sys2Proof/Machine/Pyramid.lean ====
section
/-!
DEFINITION. Sys2Proof/Machine/Pyramid.lean: the p words and the events of a stream's home (17_pyramid.md R350, R356 to R365).
-/

namespace Sys2Proof.Machine

open Sys2Proof

/-! ### Handles (R357) -/

/-- The value of a handle. -/
def handleWord (slot serial : Nat) : Word := BitVec.ofNat 64 (slot + serial * 2 ^ 8)

/-- Cause 21: the reason and the handle or descriptor address (R357). -/
def State.pyramidTrap (s : State) (reason : Nat) (v : Word) : UnitRes :=
  .trap s { cause := 21, tval := BitVec.ofNat 64 (reason * 2 ^ 56 + v.toNat % 2 ^ 56), rstg := some (0, 0, 0, 0) }

/-- A trap of a p word: nothing has taken effect and the restart registers are zero (R184). -/
def State.pTrap (s : State) (cause : Nat) (tval : Word) : UnitRes := .trap s { cause := cause, tval := tval, rstg := some (0, 0, 0, 0) }

/-- The live binding that a handle names. -/
def Seq.binding (x : Seq) (h : Word) : Option PHandle :=
  match FMap.find? x.handles (h.toNat % 8) with
  | some b => if h = handleWord (h.toNat % 8) b.serial then some b else none
  | none => none

/-- Whether a channel of the parity group of an address's home is lost by a second failure (R322, R365, log 49). -/
def State.groupLost (s : State) (pa : Nat) : Bool :=
  match s.baseDies with
  | [] => false
  | _ =>
    let pl := mapPa pa
    (s.stack pl.stack).chlost.extractLsb' (16 * (pl.group % 2)) 16 != 0

/-- The first poisoned byte of a stream's descriptor, as a generic address; the first byte when the home's group is lost. -/
def State.homeBad (s : State) (b : PHandle) : Option Word :=
  if s.groupLost b.desc then some b.va
  else (s.badSector (homeDie b.desc) b.desc 64).map fun k => b.va + BitVec.ofNat 64 (Nat.max k b.desc - b.desc)

/-- Runs a p word on a live handle whose stream's descriptor stands: reason 3 otherwise. -/
def withHandle (s : State) (q : Nat) (h : Word) (f : PHandle → PDesc → UnitRes) : UnitRes :=
  let x := s.seq q
  if x.frozen then s.frozenTrap q 0
  else
    match x.binding h with
    | none => s.pyramidTrap 3 h
    | some b =>
      if s.needsFill b.desc 64 then .wait (s.fillFor b.desc 64)
      else
      match s.streamDesc b.desc with
      | none => s.pyramidTrap 1 h
      | some d => f b d

/-! ### p.bind and p.unbind (R358) -/

/-- Where a stream lies: its descriptor's translation and its descriptor. -/
structure Bound where
  x : Xlat
  d : PDesc
deriving DecidableEq, Repr

/-- The runs of a stream by generic address: the descriptor and each level's region (R351). -/
def PDesc.regions (d : PDesc) (va : Nat) : List (Nat × Nat) :=
  (va, 64) :: (List.range d.levels).map fun j => (d.levelVa j, d.slots j * d.slotBytes)

/-- Whether any two runs overlap. -/
def runsMeet : List (Nat × Nat) → Bool
  | [] => false
  | r :: rest => rest.any (fun o => decide (r.1 < o.1 + o.2 ∧ o.1 < r.1 + r.2)) || runsMeet rest

/-- Whether every region lies in the run of the descriptor's mapping (R350). -/
def PDesc.placed (d : PDesc) (va : Nat) (x : Xlat) : Bool :=
  (d.regions va).all fun r => decide (x.base ≤ r.1 ∧ r.1 + r.2 ≤ x.limit ∧ r.1 + r.2 ≤ 2 ^ 56)

/-- The fault of the translation of one byte of a stream. -/
def State.byteFault (s : State) (q a : Nat) : Option (Nat × Word) :=
  match s.locate q a 1 .read with
  | .error c => if windowOf a = .global then some (c, BitVec.ofNat 64 a) else none
  | .ok _ => none

/-- Cause 5 at the first byte of a run of a stream that lies outside the partition's physical ranges (R387). -/
def State.gapFault (s : State) (q a n : Nat) : Option (Nat × Word) :=
  match s.locate q a 1 .read with
  | .ok (.glob x) =>
    if regionOf x.pa = .device then (s.outsideRanges (s.seq q).cur.partition x.pa n).map fun b => (5, BitVec.ofNat 64 (a + (b - x.pa)))
    else none
  | .ok (.pad _) => none
  | .error _ => none

/-- The first translation fault of a stream's regions, in the order of their bytes: cause and address (R296, R387). -/
def State.regionFault (s : State) (q : Nat) (d : PDesc) (va : Nat) : Option (Nat × Word) :=
  (d.regions va).findSome? fun r => s.byteFault q r.1 <|> s.gapFault q r.1 r.2 <|> s.byteFault q (r.1 + r.2 - 1)

/-- The checks of p.bind in their order (R350, R351, R357): the trap or the wait, or where the stream lies. -/
def State.bindCheck (s : State) (q : Nat) (a : Word) : Except UnitRes Bound :=
  if a.toNat % 64 ≠ 0 then .error (s.pTrap 3 a)
  else
    match s.locate q a.toNat 64 .read with
    | .error c => .error (s.pTrap c a)
    | .ok (.pad _) => .error (s.pyramidTrap 1 a)
    | .ok (.glob x) =>
      if regionOf x.pa ≠ .device ∨ aStore x.attr ≠ 3 ∨ aPerm x.attr ≠ 3 then .error (s.pyramidTrap 1 a)
      else if s.needsFill x.pa 64 then .error (.wait (s.fillFor x.pa 64))
      else
        match s.streamDesc x.pa with
        | none => .error (s.pyramidTrap 1 a)
        | some d =>
          match s.regionFault q d a.toNat with
          | some (c, v) => .error (s.pTrap c v)
          | none =>
            if !d.placed a.toNat x || runsMeet (d.regions a.toNat) then .error (s.pyramidTrap 1 a)
            else
              match s.homeBad { serial := 0, desc := x.pa, va := a } with
              | some v => .error (s.pTrap 19 v)
              | none => .ok { x := x, d := d }

/-- The lowest free slot of a handle table of `n` slots (DESIGN CHOICE, log 130). -/
def freeSlotOf {α : Type} (m : FMap α) (n : Nat) : Option Nat := firstFrom (fun i => (FMap.find? m i).isNone) 0 n

/-- A stream with one more binding; a logging launch that finds no owner becomes it (R358). -/
def Stream.bind (t : Stream) (q serial p n window a : Nat) (logs : Bool) : Stream :=
  let t := { t with binds := t.binds ++ [(q, serial, p, n)] }
  if t.owner.isNone && logs then { t with owner := some (p, n), apin := a, apins := [(window, a)] } else t

/-- `p.bind` (R358, log 11, log 47, log 130). -/
def execPBind (d a : Reg) (s : State) : Out :=
  runUnit s fun s q =>
    let x := s.seq q
    let va := x.getS a
    if x.frozen then s.frozenTrap q 0
    else
      match freeSlotOf x.handles 8 with
      | none => s.pyramidTrap 2 va
      | some slot =>
        match s.bindCheck q va with
        | .error r => r
        | .ok b =>
          let pa := b.x.pa
          let n := x.hserial % 0xFFFFFF + 1
          let t := s.stream pa
          let t := if t.binds.isEmpty then { t with va := va, asid := x.cur.asid } else t
          let t := t.bind q n x.cur.partition x.cur.seq x.csr.winno.toNat (s.streamCount pa) x.logs
          let s := s.modStream pa fun _ => t
          .done (s.modSeq q fun x =>
            ({ x with hserial := n, handles := FMap.put x.handles slot { serial := n, desc := pa, va := va } }).setS d
              (handleWord slot n)) .on

/-- `p.unbind` (R358). -/
def execPUnbind (a : Reg) (s : State) : Out :=
  runUnit s fun s q =>
    let x := s.seq q
    let h := x.getS a
    withHandle s q h fun b _ =>
      match s.homeBad b with
      | some v => s.pTrap 19 v
      | none =>
        let slot := h.toNat % 8
        if x.appends.any fun e => e.slot == slot then .wait s
        else
          let s := s.modSeq q fun x => { x with handles := FMap.erase x.handles slot }
          .done ((s.modStream b.desc fun t => t.unbind q (s.seq q).key (some b.serial)).flushStream b.desc) .on

/-! ### p.app (R359) -/

/-- Reads item `j` of a register group: its bytes, or none when an element is poisoned. -/
def VWork.item (w : VWork) (r : Reg) (d : PDesc) (j : Nat) : Option (List Byte) :=
  let ps := (List.range d.elems).map fun e => w.posOf (j * d.elems + e)
  if ps.any fun p => w.srcBad r w.ew p then none
  else some (ps.map fun p => toBytes (w.ew / 8) (w.src r w.ew p)).flatten

/-- Whether the mask bit that decides about a position is poisoned (R181). -/
def VWork.maskLost (w : VWork) (m : MReg) (p : Pos) : Bool := m != 0 && w.k.maskBad p.g m.toNat p.j

/-- Items that every sequencer has sent to a stream and that have no time yet. -/
def State.pendingItems (s : State) (desc : Nat) : Nat :=
  (s.seqs.map fun e => ((e.2.appends.filter fun a => a.desc == desc).map fun a => a.items.length).sum).sum

/-- `p.app` (R359, R361, R364, log 48). -/
def execPApp (d a b : Reg) (m : MReg) (s : State) : Out :=
  runUnit s fun s q =>
    let x := s.seq q
    let h := x.getS a
    let w := s.unitWork q
    if !alignedGroup d (if w.vt = 0 then 1 else w.lm) false then s.pTrap 1 (s.tvalWord q 0)
    else
    withHandle s q h fun hb pd =>
      if vtFmt w.vt ≠ pd.code ∨ w.vl % pd.elems ≠ 0 then s.pyramidTrap 4 h
      else
        match s.homeBad hb with
        | some v => s.pTrap 19 v
        | none =>
          let js := (List.range (w.vl / pd.elems)).filter fun j => w.active m (w.posOf (j * pd.elems))
          let items := js.map fun j => w.item d pd j
          if ((List.range (w.vl / pd.elems)).any fun j => w.maskLost m (w.posOf (j * pd.elems))) || items.any Option.isNone then s.pTrap 19 0
          else
            let items := items.filterMap id
            let own := (s.stream hb.desc).owner
            if items ≠ [] ∧ own.isSome ∧ own ≠ some (x.cur.partition, x.cur.seq) then s.pyramidTrap 6 h
            else if 2 ^ 48 < s.streamCount hb.desc + s.pendingItems hb.desc + items.length then s.pyramidTrap 5 h
            else
              let e : Append :=
                { reg := b, desc := hb.desc, slot := h.toNat % 8, items := items, after := x.stores.length }
              match (if x.logs && items != [] then s.reserve x.cur.partition x.cur.seq (homeDie hb.desc) (recSize 16) else some s) with
              | none => s.pTrap 13 (x.csr.winno.zeroExtend 64)
              | some s => .done (s.modSeq q fun x => { x with appends := dropTime b x.appends ++ [e] }) .on

/-- The append of a sequencer that its home may serve next: its stores before it have committed, and it is the first of its
stream (R362). -/
def Seq.readyAppends (x : Seq) (k : Nat) : List Append → List (Nat × Append)
  | [] => []
  | e :: rest =>
    if (x.appends.take k).any (fun o => o.desc == e.desc) || e.after != 0 then Seq.readyAppends x (k + 1) rest
    else (k, e) :: Seq.readyAppends x (k + 1) rest

/-- The append that PYRAMID_ASSIGN serves: appends of different streams have no order, so the schedule picks (log 2). -/
def State.nextAppend (s : State) (q : Nat) : Option (Nat × Append) :=
  let l := (s.seq q).readyAppends 0 (s.seq q).appends
  if s.writesOpen (.seq q) then none
  else match l with
    | [] => none
    | [e] => some e
    | _ => l[Config.schedule s.tick % l.length]?

/-- The places that an append writes: its descriptor and the slots of its items. -/
def State.appendPlaces (s : State) (desc : Nat) (d : PDesc) (a : Nat) (e : Append) : List Nat :=
  let t := s.stream desc
  desc :: ((List.range e.items.length).map fun i => t.pa desc (d.slotVa 0 (a + i)))

/-- The first line that an append writes and that the host may hold (R389). -/
def State.appendHeld (s : State) (desc : Nat) (d : PDesc) (a : Nat) (e : Append) : Option Nat :=
  (s.appendPlaces desc d a e).find? s.hostHolds

/-- Whether an append must wait at its home: a line that it writes waits, or a slot that its merges read is being copied (R331, R334). -/
def State.appendBusy (s : State) (desc : Nat) (d : PDesc) (a : Nat) (e : Append) : Bool :=
  (s.appendPlaces desc d a e).any s.homeWaits
    || (d.mergeSources a e.items.length).any fun m => s.rowHeld (s.redirect ((s.stream desc).pa desc (d.slotVa m.1 m.2)))

/-- The home gives a block its times, logs it, writes it and performs its merges (R352, R359, R362, R364). -/
def State.assignBlock (s : State) (q : Nat) (k : Nat) (e : Append) (d : PDesc) : State :=
  let x := s.seq q
  let a := s.streamCount e.desc
  let s :=
    if e.items.isEmpty then s
    else
      let s := if x.logs then
          let locs := locsFrom (e.desc + 16) 16
          let r : LogRec :=
            { kind := 6, space := 0, writer := q, window := x.csr.winno.toNat, addr := e.desc, locs := locs
              old := s.oldBytes 0 locs, size := recSize 16 }
          (s.unreserve x.cur.partition x.cur.seq (homeDie e.desc) r.size).pushRec x.cur.partition x.cur.seq (homeDie e.desc) r
        else s
      let s := State.appendItems e.desc d a e.items a s
      let a' := a + e.items.length
      s.admitWrite (e.desc + 16) (toBytes 8 a' ++ toBytes 8 (mergeSeq (levelCounts d.caps a')))
  s.modSeq q fun x => ({ x with appends := x.appends.eraseIdx k }).setS e.reg (BitVec.ofNat 64 a)

/-- `PYRAMID_ASSIGN` (R331, R334, R359, R389). -/
def execPyramidAssign (q : Nat) (s : State) : Out :=
  event s fun s =>
    match s.nextAppend q with
    | none => s
    | some (k, e) =>
      match s.streamDesc e.desc with
      | none => s.modSeq q fun x => { x with appends := x.appends.eraseIdx k }
      | some d =>
        if e.items.isEmpty then s.assignBlock q k e d
        else if s.appendBusy e.desc d (s.streamCount e.desc) e then s
        else
          match s.appendHeld e.desc d (s.streamCount e.desc) e with
          | some pa => s.sendBackInval pa
          | none => s.assignBlock q k e d

/-- `PYRAMID_SPAN_WRITE` (R331, R334, R352, R363, R389). -/
def execPyramidSpanWrite (desc lvl k : Nat) (s : State) : Out :=
  event s fun s =>
    match (s.stream desc).pend.find? fun p => p.level == lvl && p.num == k, s.streamDesc desc with
    | some p, some d =>
      let pa := (s.stream desc).pa desc (d.slotVa lvl k)
      if s.homeWaits pa then s else if s.hostHolds pa then s.sendBackInval pa else s.writePending desc d p
    | _, _ => s

/-! ### p.ld, p.lds and p.info (R360, R361) -/

/-- Whether the pages of a bound stream are SO pages (R294, R345). -/
def State.streamSo (s : State) (q : Nat) (b : PHandle) : Bool :=
  match s.locate q b.va.toNat 64 .read with
  | .ok (.glob t) => aOrd t.attr == 1
  | .ok (.pad _) => false
  | .error _ => false

/-- Whether a load of a stream must wait: for the sequencer's own earlier appends to it, for a strong store, and on SO pages for its
own earlier SO stores (R342, R344, R345, R362). -/
def State.pLoadWaits (s : State) (q : Nat) (b : PHandle) : Bool :=
  (s.seq q).appends.any (fun e => e.desc == b.desc) || s.loadWaits q (s.streamSo q b) false

/-- The position of 64-bit element `j` of one register: 16 to a group. -/
def VWork.pos64 (w : VWork) (j : Nat) : Pos :=
  ⟨j / 16, ((w.groups.find? fun e => e.1 == j / 16).map Prod.snd).getD 0, j % 16⟩

/-- Writes an item's elements to a register group. -/
def VWork.putItem (w : VWork) (r : Reg) (d : PDesc) (j : Nat) (b : List Byte) : VWork :=
  let es := w.ew / 8
  (List.range d.elems).foldl (fun (w : VWork) e =>
    w.put r w.ew (w.posOf (j * d.elems + e)) (ofBytes ((b.drop (e * es)).take es))) w

/-- Writes resolved items, and what the policies say of every other position of both registers (R176, R360): `n` items are
asked for, `rs` are resolved. -/
def VWork.putItems (w : VWork) (d : Reg) (pd : PDesc) (n vl : Nat) (rs : List (Nat × Resolved)) : VWork :=
  let w := rs.foldl (fun (w : VWork) e => (w.putItem d pd e.1 e.2.data.bytes).put (d + 1) 64 (w.pos64 e.1) e.2.word.toNat) w
  let got (j : Nat) : Bool := rs.any fun e => e.1 == j
  let w := (List.range (w.per * w.groups.length)).foldl (fun (w : VWork) i =>
    if i < vl ∧ got (i / pd.elems) then w
    else w.rest (if i < vl then vtInactZero w.vt else vtTailZero w.vt) d w.ew (w.posOf i)) w
  (List.range (16 * w.groups.length)).foldl (fun (w : VWork) j =>
    if got j then w else w.rest (if j < n then vtInactZero w.vt else vtTailZero w.vt) (d + 1) 64 (w.pos64 j)) w

/-- Resolves times and writes them, or raises the poison of a span (R360); slots are first filled where they need it (R322, R333). -/
def pyramidLoad (s : State) (q : Nat) (w : VWork) (d : Reg) (hb : PHandle) (pd : PDesc) (n vl lvl : Nat) (ts : List (Nat × Nat)) :
    UnitRes :=
  let slots := (ts.map fun e => s.timeSlots hb.desc pd e.2 lvl).flatten
  if s.pLoadWaits q hb then .wait s
  else if s.slotsWait hb.desc pd slots then .wait (s.fillSlots hb.desc pd slots)
  else
    let rs : List (Nat × Resolved) := ts.map fun e => (e.1, s.resolveTime hb.desc pd e.2 lvl)
    match rs.findSome? fun e => e.2.data.bad with
    | some a => s.pTrap 19 (BitVec.ofNat 64 a)
    | none => .done (w.putItems d pd n vl rs).state .on

/-- `p.ld` (R360). -/
def execPLd (d a b : Reg) (m : MReg) (l : BitVec 4) (s : State) : Out :=
  runUnit s fun s q =>
    let x := s.seq q
    let h := x.getS a
    let w := s.unitWork q
    let n := if w.vt = 0 then 1 else w.lm
    if !alignedGroup d n false || !alignedGroup b n false then s.pTrap 1 (s.tvalWord q 0)
    else
    withHandle s q h fun hb pd =>
      if vtFmt w.vt ≠ pd.code ∨ w.vl % pd.elems ≠ 0 ∨ w.lm ≠ 1 ∨ 16 * w.groups.length < w.vl / pd.elems then s.pyramidTrap 4 h
      else if b = d ∨ b = d + 1 then s.pTrap 10 (s.causeWord q 10 0)
      else
        match s.homeBad hb with
        | some v => s.pTrap 19 v
        | none =>
          if w.vl = 0 then .done s .on
          else
            let n := w.vl / pd.elems
            let js := (List.range n).filter fun j => w.active m (w.posOf (j * pd.elems))
            if ((List.range n).any fun j => w.maskLost m (w.posOf (j * pd.elems))) || (js.any fun j => w.srcBad b 64 (w.pos64 j)) then s.pTrap 19 0
            else pyramidLoad s q w d hb pd n w.vl l.toNat (js.map fun j => (j, w.src b 64 (w.pos64 j)))

/-- `p.lds` (R360). -/
def execPLds (d a b : Reg) (l : BitVec 4) (s : State) : Out :=
  runUnit s fun s q =>
    let x := s.seq q
    let h := x.getS a
    let w := s.unitWork q
    if !alignedGroup d (if w.vt = 0 then 1 else w.lm) false then s.pTrap 1 (s.tvalWord q 0)
    else
    withHandle s q h fun hb pd =>
      if vtFmt w.vt ≠ pd.code ∨ w.lm ≠ 1 ∨ w.per * w.groups.length < pd.elems then s.pyramidTrap 4 h
      else
        match s.homeBad hb with
        | some v => s.pTrap 19 v
        | none => pyramidLoad s q w d hb pd 1 pd.elems l.toNat [(0, (x.getS b).toNat)]

/-- The value that p.info selects (R361). -/
def State.streamInfo (s : State) (desc : Nat) (d : PDesc) (sel : Nat) : Word :=
  let a := s.streamCount desc
  let c := levelCounts d.caps a
  let held := (List.range d.levels).filter fun j => decide (freed c j < received c j)
  BitVec.ofNat 64 (match sel with
    | 0 => a
    | 1 => s.streamSeq desc
    | 2 => (held.map fun j => freed c j * 2 ^ j).foldl Nat.min a
    | 3 => d.levels + 2 ^ 8 * (d.elems - 1) + 2 ^ 16 * d.code.toNat + 2 ^ 24 * d.comb + 2 ^ 28 * d.rsv
    | 4 => (held.map fun j => 2 ^ j).sum
    | _ => (mapPa desc).group + 2 ^ 32 * (match (s.stream desc).owner with | some (_, n) => n | none => 0))

/-- `p.info` (R361). -/
def execPInfo (d a : Reg) (sel : BitVec 4) (s : State) : Out :=
  runUnit s fun s q =>
    let h := (s.seq q).getS a
    withHandle s q h fun hb pd =>
      match s.homeBad hb with
      | some v => s.pTrap 19 v
      | none =>
        if s.pLoadWaits q hb then .wait s
        else .done (s.modSeq q fun x => x.setS d (s.streamInfo hb.desc pd sel.toNat)) .on

end Sys2Proof.Machine
end

