-- ==== Sys2Proof/Machine/Rewind.lean ====
section
/-!
DEFINITION. Sys2Proof/Machine/Rewind.lean: undoing a launch to the start of a window, recovery, the notice ring and the debugger's
commands (12_cluster.md R283; 14_die.md R304, R309 to R315; 17_pyramid.md R364; 19_launch_tenancy.md R378, R385, R388).
-/

namespace Sys2Proof.Machine

open Sys2Proof

/-! ### Undoing to the start of a window (R304, R311, R313) -/

/-- Whether the blocks of a window read without an uncorrectable error (R313). -/
def State.blocksGood (s : State) (p : Nat) (l : Launch) (w : Nat) : Bool :=
  l.snaps.all fun b => b.window != w || !s.ringBad p b.die l.ringPair b.pos b.size

/-- The newest window, at or before the current one, that is neither retired nor truncated and whose every block reads (R313). -/
def State.newestGood (s : State) (p : Nat) (l : Launch) : Option Nat :=
  (((l.snaps.map Snap.window).filter fun w => decide (1 ≤ w ∧ l.oldestGood ≤ w ∧ w ≤ l.winno) && s.blocksGood p l w).eraseDups).foldl
    (fun m w => match m with | some v => some (Nat.max v w) | none => some w) none

/-- Records of a die's ring, of windows from `w` on, that cannot be read (R313, R315). -/
def State.badRecs (s : State) (p : Nat) (l : Launch) (w d : Nat) : Nat :=
  ((l.ring d).filter fun r => decide (w ≤ r.window) && s.ringBad p d l.ringPair r.pos r.size).length

/-- Whether every record of windows from `w` on can be read. -/
def State.recsGood (s : State) (p : Nat) (l : Launch) (w : Nat) : Bool := s.badRecs p l w 0 == 0 && s.badRecs p l w 1 == 0

/-- Counts the records that a rollback could not read, one by one (R315). -/
def State.countUnread (s : State) (d : Nat) : Nat → State
  | 0 => s
  | k + 1 => State.countUnread (s.countDie d 0x48) d k

/-- Puts a record before those appended after it. -/
def insertRec (r : LogRec) : List LogRec → List LogRec
  | [] => [r]
  | o :: rest => if r.no ≤ o.no then r :: o :: rest else o :: insertRec r rest

/-- Escape records of windows at or above `w`, oldest first. -/
def Launch.escapesFrom (l : Launch) (w : Nat) : List LogRec :=
  ((l.ring0 ++ l.ring1).filter fun r => r.kind == 7 && decide (w ≤ r.window)).foldr insertRec []

/-- Discards the commands of a launch; the rows they committed stand in the log (R311, R313). -/
def State.discardCmds (s : State) (p n : Nat) : State :=
  let mine (k : EngCmd) : Bool := k.partition == p && k.launch == n
  { s with
    clusters := s.clusters.mapVals fun _ (c : Cluster) => { c with cmds := c.cmds.filter fun k => !mine k }
    requests := s.requests.filter fun r =>
      match r.owner with
      | .engine c k => r.write || !((s.cluster c).cmds.any fun m => m.id == k && mine m)
      | .seq _ => true
      | .sample _ => true
      | .log _ => true
      | .undo _ => true
      | .other => true }

/-- Target, count and error of a barrier become 0; its phase stays (R283). -/
def Barrier.reset (b : Barrier) : Barrier := { b with target := 0, count := 0, error := false }

/-- Resets the barriers that the launch's sequencers used since the window's mark, those of sequencers that have ended among them
(R283). -/
def State.resetBarriers (s : State) (p n w : Nat) : State :=
  let live := ((s.seqsOf p n).map fun q => (s.seq q).barUsed.map fun e => (clusterOf q, e.1, e.2)).flatten
  let gone := match s.launch? p n with | some l => l.barUsed | none => []
  ((live ++ gone).filter fun e => decide (w ≤ e.2.2)).foldl (fun (s : State) e => s.modBarrier e.1 e.2.1 Barrier.reset) s

/-- The lines of a cluster's scratchpad that a restore zeroes: those of regions not live at the window's mark (R304). -/
def Pad.deadLines (p : Pad) (flags : Word) : List Nat := (List.range 2048).filter fun l => !p.lineLive flags l

/-- Zeroes lines of a scratchpad. -/
def Pad.zeroLines (p : Pad) (ls : List Nat) : Pad :=
  { p with sp := FMap.keep p.sp fun a => !ls.contains (a / 2048), spPois := FMap.keep p.spPois fun a => !ls.contains (a / 64) }

/-- Evicts next records whose preload run meets a byte that the restore changed (R378). -/
def State.evictMet (s : State) (c : Nat) (lines touched : List Nat) : State :=
  ((s.cluster c).preloads.filter fun r => !r.cur).foldl (fun (s : State) r =>
    let hit := lines.any (fun l => decide (r.off / 2048 ≤ l ∧ l ≤ (r.off + r.len - 1) / 2048))
      || touched.any fun a => decide (r.off ≤ a ∧ a < r.off + r.len)
    if r.len ≠ 0 ∧ hit then s.evict r.q else s) s

/-- Registers handles of a sequencer again with their streams' homes (R358, R383). -/
def State.rebindAll (s : State) (q window : Nat) (hs : FMap PHandle) : State :=
  let x := s.seq q
  hs.foldl (fun (s : State) e => s.modStream e.2.desc fun t =>
    t.bind q e.2.serial x.cur.partition x.cur.seq window (s.streamCount e.2.desc) x.logs) s

/-- Whether a range of a launch still stands in the next record of its slot: it has not run, and nothing of it is undone (R376). -/
def State.rangeWaits (s : State) (p n : Nat) (b : Snap) : Bool :=
  let r := (s.seq b.q).next
  !(s.seq b.q).live && r.valid && r.partition == p && r.seq == n && r.start == b.x.cur.start && r.count == b.x.cur.count

/-- Restores a block into its slot, where it halts. A slot whose k.end is undone runs again, and its handles are registered again. A block
whose sequencer was the holder takes its core's matrix unit, from any other launch's sequencer that holds it by then (R304, R357, log 22,
log 32, DESIGN CHOICE log 129). -/
def State.restoreBlock (s : State) (p n : Nat) (b : Snap) : State :=
  let q := b.q
  let x := s.seq q
  if s.rangeWaits p n b then s
  else
  let g : BitVec 4 := if x.live then b.x.grant &&& x.grant else b.x.grant &&& ~~~ s.heldGroups (coreOf q)
  let s1 := if x.live then s
    else (s.modSeq q fun x => { b.x with next := x.next, hserial := Nat.max x.hserial b.x.hserial, gen := x.gen }).rebindAll q b.window b.x.handles
  let s1 := (s1.restoreSeq q b g).modSeq q fun x => { x with stopped := true, replay := none, peerErr := none }
  let s1 := s1.modLaunch p n fun l => { l with ranges := l.ranges.map fun r => if r.q = q then { r with ended := false } else r }
  let s1 := s1.dropReads (.seq q)
  if b.holder then s1.modCore (coreOf q) fun k => k.restoreMatrix b q
  else s1.modCore (coreOf q) fun k => k.matrixOff q

/-- The Larder of each core that the launch used last is as its flagged block holds it, else invalid (R262). -/
def State.restoreLarders (s : State) (p n : Nat) (bs : List Snap) : State :=
  { s with cores := s.cores.mapVals fun i (k : Core) =>
      if k.lastLaunch = some (p, n) then
        { k with larder := match bs.findSome? fun b => if coreOf b.q = i then b.larder else none with | some m => m | none => [] }
      else k }

/-- Whether every block's slot is free for its launch (log 85). -/
def State.slotsBack (s : State) (p n : Nat) (bs : List Snap) : Bool :=
  bs.all fun b => let x := s.seq b.q; !x.live || x.key == (p, n)

/-- Undoes a launch that has come to rest to the start of window `w`: its commands are discarded, the log is undone, and the snapshots,
regions, barriers and streams follow. Its sequencers stay halted. -/
def State.undoTo (s : State) (p n w : Nat) : State :=
  let qs := s.seqsOf p n
  let s := s.discardCmds p n
  match s.launch? p n with
  | none => s
  | some l =>
    let recs := (l.ring0 ++ l.ring1).filter fun r => decide (w ≤ r.window)
    let bs := l.snaps.filter fun b => b.window == w
    let s := (s.undoFrom p n w).modLaunch p n fun l => { l with winno := w, reserved0 := 0, reserved1 := 0 }
    let s := s.streamsAfterUndo p n w
    let s := s.resetBarriers p n w
    let s := bs.foldl (fun (s : State) b => s.restoreBlock p n b) s
    let s := s.restoreLarders p n bs
    let cs := (bs.map fun b => clusterOf b.q).eraseDups
    let s := cs.foldl (fun (s : State) c =>
      let dead := (s.pad c).deadLines (l.liveFlags c w)
      let touched := ((recs.filter fun r => r.space == 1).map fun r => (r.locs.filter fun a => a / 2 ^ 22 == c).map fun a => a % 2 ^ 22).flatten
      (s.modPad c fun d => d.zeroLines dead).evictMet c dead touched) s
    match s.cwordAt (qs.headD 0) p l with
    | .error _ => s
    | .ok x => s.modLaunch p n fun l => { l with cword := BitVec.ofNat 64 (s.readPhysNat x.pa 8) }

/-! ### Notices (R314, R388) -/

/-- One entry of a notice. -/
def noticeEntry (r : LogRec) : List Byte :=
  toBytes 1 (r.extra % 256) ++ [0] ++ toBytes 2 r.writer ++ toBytes 4 r.window ++ toBytes 8 r.addr ++ toBytes 8 (r.extra / 2 ^ 32)

/-- Writes bytes to the notice ring from its head on, around its end. -/
def State.ringWrite (s : State) (p : Nat) (b : List Byte) : State :=
  let x := s.part p
  if x.nsize = 0 then s
  else
    let h := x.nhead % x.nsize
    let k := x.nsize - h
    ((s.admitWrite (x.nbase + h) (b.take k)).admitWrite x.nbase (b.drop k)).modPart p fun x => { x with nhead := (h + b.length) % x.nsize }

/-- Posts a notice as far as whole entries fit, then raises vector 1. Origin: 0 recovery, 1 REWIND, 2 STEPBACK (log 84). -/
def State.notice (s : State) (p n w before cause origin : Nat) (es : List LogRec) : State :=
  let x := s.part p
  let room := if x.nsize = 0 then 0 else (x.ntail + x.nsize - x.nhead % x.nsize - 1) % x.nsize / 8 * 8
  let k := if room < 32 then 0 else Nat.min es.length ((room - 32) / 24)
  let head := toBytes 4 n ++ toBytes 4 w ++ toBytes 4 before ++ toBytes 1 cause ++ toBytes 1 origin ++ toBytes 2 0 ++ toBytes 4 es.length
    ++ toBytes 4 k ++ toBytes 8 0
  let s1 := if room < 32 then s else s.ringWrite p (head ++ ((es.take k).map noticeEntry).flatten)
  s1.raiseVector p 1

/-! ### Recovery (R313) -/

/-- Whether the commands of a launch have ended the rows that are in flight (R311, R313). -/
def State.rowsDone (s : State) (p n : Nat) : Bool :=
  s.clusters.all fun e => e.2.cmds.all fun (k : EngCmd) => !(s.inFlight e.1 k && k.partition == p && k.launch == n)

/-- Whether a launch is at rest: stores are performed, blocks sent have their times, rows in flight have ended, and an earlier undo has
been performed (R311, R313, R335). -/
def State.rests (s : State) (p n : Nat) : Bool :=
  (s.seqsOf p n).all (fun q => (s.seq q).appends.isEmpty && !s.storesOpen q) && s.rowsDone p n && !s.undoOpen p

/-- Whether a launch's units have all come to rest, and its collectives have ended (R313). -/
def State.settled (s : State) (p n : Nat) : Bool :=
  s.rests p n
    && !(s.colls.any fun c => c.failed.isNone && c.partition == p && c.members.any fun m => m.launch == n)

/-- Whether the recovery of a launch may run now: it waits while a Cellar or a halted cluster holds a part of it. -/
def State.mayRollback (s : State) (p n : Nat) : Bool :=
  match s.launch? p n with
  | none => false
  | some l =>
    l.recovering && l.failing.isNone && !l.undoing && !s.inCellar (p, n) && s.settled p n && !((s.seqsOf p n).any fun q => (s.cluster (clusterOf q)).halted)

/-- `ROLLBACK` (R313): the newest good window is restored, status 3 is written where it can be, the journal and the notice follow
and the launch resumes once every write of the undo has been performed (R335, R403); without one, or with a record that cannot be read, the launch fails with cause 19. -/
def execRollback (p n : Nat) (s : State) : Out :=
  event s fun s =>
    if !s.mayRollback p n then s
    else
      match s.launch? p n with
      | none => s
      | some l =>
        match s.newestGood p l with
        | none => s.failLaunch p n 19
        | some w =>
          if !s.recsGood p l w then
            ((s.countUnread 0 (s.badRecs p l w 0)).countUnread 1 (s.badRecs p l w 1)).failLaunch p n 19
          else if !s.slotsBack p n (l.snaps.filter fun b => b.window == w) then s.failLaunch p n 19
          else
            let es := l.escapesFrom w
            let q := (s.seqsOf p n).headD 0
            let s1 := s.undoTo p n w
            let s1 := match s1.setCword q p n (cwordStatus 3 0) with | .ok t => t | .error _ => s1
            let s1 := (s1.modLaunch p n fun l => { l with lstate := 6, restored := w, recovering := false, undoing := true }).journal p n
            (s1.notice p n w l.winno l.recCause 0 es).finishUndo

/-- `LOG_ENGINE_FAULT`: every logging launch with records on the die fails with cause 19 (R315). -/
def execLogEngineFault (d : Nat) (s : State) : Out :=
  event s fun s =>
    let hit (l : Launch) : Bool :=
      l.log != 0 && (l.lstate == 2 || l.lstate == 3 || l.lstate == 6) && (!(l.ring d).isEmpty || l.snaps.any fun b => b.die == d)
    (s.launches.keysWhere fun _ l => hit l).foldl (fun (s : State) k => s.failLaunch (k / 2 ^ 32) (k % 2 ^ 32) 19) s

/-! ### The debugger (R310, R311) -/

/-- The launch that a debug block names, when it is not final and does not fail. -/
def State.dbgTarget (s : State) (p : Nat) : Option Launch :=
  match s.launch? p (s.part p).dbgLaunch with
  | none => none
  | some l => if l.lstate = 4 ∨ l.lstate = 5 ∨ l.failing.isSome then none else some l

/-- Whether a launch is stopped: it has sequencers and each is. -/
def State.launchStopped (s : State) (p n : Nat) : Bool :=
  let qs := s.seqsOf p n
  !qs.isEmpty && qs.all fun q => (s.seq q).stopped

/-- The stopped bit of a partition's debug block: of its target launch, once no command runs (R310, R311, log 97). -/
def State.dbgStopped (s : State) (p : Nat) : Bool := !(s.part p).dbgBusy && s.launchStopped p (s.part p).dbgLaunch

/-- Ends a command with a result. -/
def State.dbgResult (s : State) (p r : Nat) : State := s.modPart p fun b => { b with dbgResult := r }

/-- Runs a command of the debug block that is not busy, on its launch. -/
def dbgCommand (s : State) (p : Nat) (f : State → Nat → Launch → State) : Out :=
  hostEvent p s fun s =>
    if (s.part p).dbgBusy then s
    else match s.dbgTarget p with | none => s.dbgResult p 2 | some l => f s (s.part p).dbgLaunch l

/-- The same, on a stopped launch that is at rest. -/
def dbgStoppedCommand (s : State) (p : Nat) (f : State → Nat → Launch → State) : Out :=
  dbgCommand s p fun s n l => if s.launchStopped p n && s.rests p n then f s n l else s.dbgResult p 1

/-- `DEBUG_STOP`. -/
def execDebugStop (p : Nat) (s : State) : Out := dbgCommand s p fun s n _ => (s.dbgResult p 0).debugHalt p n

/-- Whether what a debug block waits for is complete: its launch is final, or every sequencer of it has halted and it is at rest (R311,
R362, R402, R403). -/
def State.haltDone (s : State) (p : Nat) : Bool :=
  let n := (s.part p).dbgLaunch
  (s.part p).dbgBusy && ((s.dbgTarget p).isNone
    || (s.launchStopped p n && s.rests p n))

/-- `DEBUG_HALTED`: busy falls and stopped rises (R311). -/
def execDebugHalted (p : Nat) (s : State) : Out :=
  event s fun s => if s.haltDone p then s.modPart p fun b => { b with dbgBusy := false } else s

/-- Sequencers and commands of a launch go on. -/
def State.resumeAll (s : State) (p n : Nat) : State :=
  { s with
    seqs := s.seqs.mapVals fun _ (x : Seq) =>
      if x.live && x.cur.partition == p && x.cur.seq == n then { x with stopped := false } else x
    cores := s.cores.mapVals fun _ (k : Core) =>
      match k.holder with
      | some q => if (s.seq q).live && (s.seq q).key == (p, n) then k.reopen else k
      | none => k
    clusters := s.clusters.mapVals fun _ (c : Cluster) =>
      { c with cmds := c.cmds.map fun (k : EngCmd) => if k.partition = p ∧ k.launch = n then { k with paused := false } else k } }

/-- `DEBUG_RESUME`. -/
def execDebugResume (p : Nat) (s : State) : Out :=
  dbgStoppedCommand s p fun s n _ => (s.resumeAll p n).dbgResult p 0

/-- REWIND to a window: the result, and the state. A window whose blocks or records cannot be read counts as retired, and the
records are counted (R315, log 88). -/
def State.rewindTo (s : State) (p n w origin : Nat) (force : Bool) (l : Launch) : State × Nat :=
  if w = 0 ∨ l.winno < w then (s, 2)
  else if w < l.oldestGood ∨ !(l.snaps.any fun b => b.window == w) ∨ !s.blocksGood p l w
      ∨ !s.slotsBack p n (l.snaps.filter fun b => b.window == w) then (s, 6)
  else if !s.recsGood p l w then ((s.countUnread 0 (s.badRecs p l w 0)).countUnread 1 (s.badRecs p l w 1), 6)
  else
    let es := l.escapesFrom w
    if !es.isEmpty && !force then (s, 3)
    else
      let s1 := s.undoTo p n w
      if force then ((s1.modPart p fun b => { b with dbgEscapes := es.length }).notice p n w l.winno 0 origin es, 0) else (s1, 0)

/-- `DEBUG_REWIND`: busy reads 1 until every write of the undo has been performed (R335, R403). -/
def execDebugRewind (p : Nat) (force : Bool) (s : State) : Out :=
  dbgStoppedCommand s p fun s n l =>
    if l.log = 0 then s.dbgResult p 5
    else
      let (s1, r) := s.rewindTo p n (s.part p).dbgArg0 1 force l
      (s1.dbgResult p r).modPart p fun b => { b with dbgBusy := s1.undoOpen p }

/-- Whether a sequencer holds a current record of a launch. -/
def State.isOf (s : State) (q p n : Nat) : Bool := (s.seq q).live && (s.seq q).key == (p, n)

/-- `DEBUG_REPLAY`: one sequencer and its commands run on. -/
def execDebugReplay (p : Nat) (s : State) : Out :=
  dbgStoppedCommand s p fun s n _ =>
    let q := (s.part p).dbgArg0
    let u := (s.part p).dbgArg1
    if !s.isOf q p n then s.dbgResult p 2
    else if u = 0 then s.dbgResult p 0
    else
      let s1 := s.modSeq q fun x =>
        { x with stopped := false, replay := some { target := x.csr.units.toNat + u, alone := true } }
      let s1 := if (s1.core (coreOf q)).holder = some q then s1.modCore (coreOf q) Core.reopen else s1
      let s1 := s1.modCluster (clusterOf q) fun c =>
        { c with cmds := c.cmds.map fun (k : EngCmd) => if k.owner = q then { k with paused := false } else k }
      s1.modPart p fun b => { b with dbgBusy := true }

/-- Whether a wait for the watched phase of a barrier cannot end: the phase has not passed and no command that runs names the barrier
(R311, log 88). -/
def State.barrierStuck (s : State) (q b : Nat) : Bool :=
  FMap.find? (s.seq q).watched b == some (s.barrier (clusterOf q) b).phase
    && !((s.cluster (clusterOf q)).cmds.any fun k => k.bar == b && !k.paused)

/-- Whether a wait for the collective of a handle slot cannot end: it is open, and a rank of this package has not joined or a full ring
holds its results (R311, log 88). -/
def State.collStuck (s : State) (q slot : Nat) : Bool :=
  let x := s.seq q
  match FMap.find? x.chandles slot with
  | none => false
  | some c =>
    c.state == 0 && s.colls.any fun k =>
      k.partition == x.cur.partition && (k.members.any fun m => m.q == q && m.launch == x.cur.seq && m.slot == slot)
        && (!k.allHere || k.blocked.isSome)

/-- Whether a wait for matrix mode cannot end: another sequencer of the stopped launch holds it (R236, R311). -/
def State.matrixStuck (s : State) (q : Nat) : Bool :=
  let k := s.core (coreOf q)
  k.waiters.contains q && match k.holder with | some h => h != q && (s.seq h).live && (s.seq h).key == (s.seq q).key | none => false

/-- Whether a sequencer waits for what no one else of a stopped launch can bring: the mark, matrix mode, a barrier, a collective, which
k.end and w.mark wait for too (R20, R282, R302, R311, R413). -/
def State.blockedAlone (s : State) (q : Nat) : Bool :=
  let x := s.seq q
  let w := s.wordAt q 0
  let bar := w / 2048 % 32
  let cb (fn : Nat) : Bool := w / 2 ^ 26 == 0x31 && w % 2048 == fn
  x.mark == .arrived || s.matrixStuck q
    || (cb 2 && s.barrierStuck q bar)
    || (cb 3 && x.arrived.contains (bar, x.pc.q0) && s.barrierStuck q bar)
    || (w / 2 ^ 26 == 0x38 && w % 2048 == 1
        && (let h := x.getS (BitVec.ofNat 5 (w / 65536)); (x.collHandle h).isSome && s.collStuck q (h.toNat % 4)))
    || ((w == 6 || (w / 2 ^ 26 == 0x3C && w % 2048 == 0)) && (List.range 4).any fun i => s.collStuck q i)

/-- `REPLAY_COUNT_REACHED`: the sequencer has retired its units, or waits without end: result 7 and the count reached (log 88). -/
def execReplayCountReached (p : Nat) (s : State) : Out :=
  event s fun s =>
    let n := (s.part p).dbgLaunch
    match (s.seqsOf p n).find? fun q => (s.seq q).replay.isSome with
    | none => s
    | some q =>
      match (s.seq q).replay with
      | none => s
      | some r =>
        let u := (s.seq q).csr.units.toNat
        let stop (s : State) (res : Nat) : State :=
          ((s.modSeq q fun x => { x with replay := none }).debugHalt p n).dbgResult p res
        if r.target ≤ u then stop s 0
        else if r.alone && s.blockedAlone q then
          (stop s 7).modPart p fun b => { b with dbgArg1 := b.dbgArg1 - (r.target - u) }
        else s

/-- `DEBUG_STEPBACK`: to the newest restorable window that holds the count, then on to it. -/
def execDebugStepback (p : Nat) (force : Bool) (s : State) : Out :=
  dbgStoppedCommand s p fun s n l =>
    let q := (s.part p).dbgArg0
    let k := (s.part p).dbgArg1
    let c := (s.seq q).csr.units.toNat
    if !l.det then s.dbgResult p 4
    else if l.log = 0 then s.dbgResult p 5
    else if !s.isOf q p n || decide (c < k) then s.dbgResult p 2
    else
      let ok := l.snaps.filter fun b => b.q == q && decide (b.x.csr.units.toNat ≤ c - k) && decide (l.oldestGood ≤ b.window ∧ b.window ≤ l.winno)
      match ok with
      | [] => s.dbgResult p 6
      | _ =>
        let (s1, r) := s.rewindTo p n (ok.foldl (fun m b => Nat.max m b.window) 0) 2 force l
        let s1 := s1.modPart p fun b => { b with dbgBusy := s1.undoOpen p }
        if r ≠ 0 ∨ (s1.seq q).csr.units.toNat = c - k then s1.dbgResult p r
        else
          let s2 := if s1.undoOpen p then s1.modLaunch p n fun l => { l with undoing := true } else s1.resumeAll p n
          let s2 := s2.modSeq q fun x => { x with replay := some { target := c - k, alone := false } }
          s2.modPart p fun b => { b with dbgBusy := true }

end Sys2Proof.Machine
end

