-- ==== Sys2Proof/Machine/Platform.lean ====
section
/-!
DEFINITION. Sys2Proof/Machine/Platform.lean: reset, life cycle and power (19_launch_tenancy.md R391, R392, R398, R399), and the
traps of a unit that cannot be decoded or fetched (02_words_and_opcode_map.md R25, R34).
-/

namespace Sys2Proof.Machine

open Sys2Proof

/-! ### Reset and life cycle -/

/-- A base die after a reset: its row-remap table, reloaded into both copies, and nothing else (R331, R391). -/
def Stack.reloaded (k : Stack) : Stack :=
  { remap := k.remap.mapVals fun _ (l : List Remap) => l.map fun r => { r with bad0 := false, bad1 := false } }

/-- A base die after a life-cycle transition: failed channels stay out of service while the package is powered (R322, R392). -/
def Stack.moved (k : Stack) : Stack := { k.reloaded with chfail := k.chfail, chlost := k.chlost }

/-- Every SRAM zeroed and HBM wiped (R391, R392): what fuses, sensors, the step counters and the firmware's own store hold stays. -/
def State.wipe (s : State) : State :=
  { State.reset with
    tick := s.tick, now := s.now, inputs := s.inputs, upsets := s.upsets, life := s.life, keys := s.keys, svn := s.svn, m0 := s.m0
    monitors := s.monitors, asidTable := s.asidTable, peerTable := s.peerTable
    baseDies := s.baseDies.mapVals fun _ (k : Stack) => k.reloaded }

/-- The image that a slot of the boot flash holds: its header, its signature and its body (R391). -/
def imageOf (slot : List Byte) : List Byte := slot.take (29888 + bytesNat slot 12 4)

/-- Whether the boot ROM accepts an image: its layout, the hash of its key, its security version and its signature (R391, log 61). -/
def imageOk (b : List Byte) : Bool :=
  let key := (b.drop 16).take 64
  b.length == 29888 + bytesNat b 12 4 && b.take 4 == [0x56, 0x59, 0x46, 0x57] && ((b.drop 80).take 16).all (· == 0)
    && (shake256 key).take 32 == (List.range 32).map Config.keyHash
    && decide (Config.fusedSvn ≤ bytesNat b 8 4)
    && slhVerify slh256s key (b.take 96 ++ b.drop 29888) ((b.drop 96).take 29792)

/-- `RESET`: slot 0 is tried, then slot 1; a booted image is measured and the firmware enables partition 0 (R391, log 61). -/
def execReset (s : State) : Out :=
  event s fun s =>
    match [imageOf (Config.flash (2 * s.tick)), imageOf (Config.flash (2 * s.tick + 1))].find? imageOk with
    | none => { s.wipe with bootFailed := true }
    | some b =>
      ({ s.wipe with svn := BitVec.ofNat 32 (bytesNat b 8 4), m0 := shake64 b }).modPart 0 fun b =>
        { b with cfg := { words := [(2, 1)] } }

/-- Rank of a life-cycle state in the order in which it moves (R392). -/
def lifeRank : LifeState → Nat
  | .manufacture => 0 | .provisioned => 1 | .production => 2 | .return => 3 | .scrapped => 4

/-- Whether the device holds its keys after it has entered a life-cycle state: injected when it is provisioned, erased when it is
returned, destroyed when it is scrapped (R392). -/
def keysIn (t : LifeState) (keys : Bool) : Bool :=
  match t with
  | .manufacture => false
  | .provisioned => true
  | .production => keys
  | .return => false
  | .scrapped => false

/-- `LIFECYCLE_TRANSITION`: to the next state, or to scrapped from any earlier one; every SRAM and HBM is wiped (R392, log 91). -/
def execLifecycleTransition (t : LifeState) (s : State) : Out :=
  event s fun s =>
    let a := lifeRank s.life
    let b := lifeRank t
    if b = a + 1 ∨ (b = 4 ∧ a < 4) then
      { s.wipe with life := t, keys := keysIn t s.keys, baseDies := s.baseDies.mapVals fun _ (k : Stack) => k.moved }
    else s

/-! ### Power (R398, R399) -/

/-- The thermal monitors of an island and the process monitors read anew: their places and readings are open (log 10). -/
def State.senseIsland (s : State) (island : Nat) : State :=
  let heat := ((List.range 128).filter fun t => Config.islandOf t == island).foldl (fun m t =>
    FMap.set 0 m t (Config.sensor s.tick t % 65536)) s.monitors
  { s with monitors := (List.range 32).foldl (fun m k => FMap.set 0 m (192 + k) (Config.sensor s.tick (129 + k) % 65536)) heat }

/-- `THERMAL_STEP`: temperatures in sixteenths of a degree (R398). -/
def execThermalStep (island : Nat) (s : State) : Out :=
  event s fun s =>
    let s := s.senseIsland island
    let ts := ((List.range 128).filter fun t => Config.islandOf t == island).map s.monitor
    let cur := FMap.get 0 s.islands island
    let ceil := FMap.get 0 s.ceilings island
    let next :=
      if ts.any fun t => decide (1760 < t) then 15
      else if ts.any fun t => decide (1600 < t) then Nat.min 15 (cur + 1)
      else if ts.all fun t => decide (t < 1520) then Nat.max ceil (cur - 1)
      else cur
    if island < 36 then { s with islands := FMap.set 0 s.islands island next } else s

/-- `DROOP_EVENT` (R398). -/
def execDroopEvent (monitor : Nat) (s : State) : Out :=
  event s fun s =>
    if monitor < 64 then { s with monitors := FMap.set 0 s.monitors (128 + monitor) (bump (s.monitor (128 + monitor))) } else s

/-- `POWER_LIMIT_STEP`: above the limit the cluster islands drop one step each (R398); the averaged power is open (log 10). -/
def execPowerLimitStep (s : State) : Out :=
  event s fun s =>
    let w := Config.sensor s.tick 128 % 65536
    let s := { s with powerAvg := w }
    if w ≤ s.powerLimit then s
    else
      { s with islands := (((List.range 2).map fun d => (List.range 16).map fun k => 18 * d + k).flatten).foldl (fun m i =>
          FMap.set 0 m i (Nat.min 15 (FMap.get 0 m i + 1))) s.islands }

/-! ### Units that do not decode or cannot be fetched -/

/-- `ILLEGAL_INSTRUCTION`: cause 1, or 2 when the convoy rules are broken, with the word and its position (R25, R34, R126). In a
unit that holds a vector word, and at a p word, the restart registers are then zero (R184, R190). -/
def execIllegalInstruction (bad : Bool) (w : IWord) (pos : BitVec 2) (s : State) : Out :=
  runUnit s fun s q =>
    let vec := convoyableMajor w || (w.toNat / 2 ^ 26 == 0x34) || (s.fetchUnit q (s.seq q).pc.q0).1.any convoyableMajor
    .trap s
      { cause := if bad then 2 else 1, tval := BitVec.ofNat 64 (w.toNat + pos.toNat * 2 ^ 32), pos := pos.toNat
        rstg := if vec then some (0, 0, 0, 0) else none }

/-- `FETCH_FAULT`: the fetch fault's cause, with the address that failed and the place of its word in the unit (R34, R128, R297). -/
def execFetchFault (cause : BitVec 8) (va : Word) (s : State) : Out :=
  runUnit s fun s q => .trap s { cause := cause.toNat, tval := va, pos := (va - (s.seq q).pc.q0).toNat / 4 % 4 }

end Sys2Proof.Machine
end

