-- ==== Sys2Proof/Machine/Scalar.lean ====
section
/-!
DEFINITION. Sys2Proof/Machine/Scalar.lean: the integer ALU words of majors a, s, ai and si, ins, and the pushes of
bq (06_sequencer_instructions.md R138 to R142; 05_sequencer.md R120).
-/

namespace Sys2Proof.Machine

open Sys2Proof

/-- A word of major a or s over two registers of its file (R139). -/
def aluA2 (f : Word → Word → Word) (d a b : Reg) (s : State) : Out := seqUnit s fun x => x.setA d (f (x.getA a) (x.getA b))
/-- A word of major s over two registers (R139). -/
def aluS2 (f : Word → Word → Word) (d a b : Reg) (s : State) : Out := seqUnit s fun x => x.setS d (f (x.getS a) (x.getS b))
/-- A word of major a over one register (R139). -/
def aluA1 (f : Word → Word) (d a : Reg) (s : State) : Out := seqUnit s fun x => x.setA d (f (x.getA a))
/-- A word of major s over one register (R139). -/
def aluS1 (f : Word → Word) (d a : Reg) (s : State) : Out := seqUnit s fun x => x.setS d (f (x.getS a))

/-- `a.add` (R140). -/
def execAAdd (d a b : Reg) (s : State) : Out := aluA2 (fun x y => x + y) d a b s
/-- `a.sub` (R140). -/
def execASub (d a b : Reg) (s : State) : Out := aluA2 (fun x y => x - y) d a b s
/-- `a.and` (R140). -/
def execAAnd (d a b : Reg) (s : State) : Out := aluA2 (fun x y => x &&& y) d a b s
/-- `a.or` (R140). -/
def execAOr (d a b : Reg) (s : State) : Out := aluA2 (fun x y => x ||| y) d a b s
/-- `a.xor` (R140). -/
def execAXor (d a b : Reg) (s : State) : Out := aluA2 (fun x y => x ^^^ y) d a b s
/-- `a.shl` (R140). -/
def execAShl (d a b : Reg) (s : State) : Out := aluA2 (fun x y => aluShl x y) d a b s
/-- `a.shr` (R140). -/
def execAShr (d a b : Reg) (s : State) : Out := aluA2 (fun x y => aluShr x y) d a b s
/-- `a.sra` (R140). -/
def execASra (d a b : Reg) (s : State) : Out := aluA2 (fun x y => aluSra x y) d a b s
/-- `a.slt` (R140). -/
def execASlt (d a b : Reg) (s : State) : Out := aluA2 (fun x y => aluSlt x y) d a b s
/-- `a.sltz` (R140). -/
def execASltz (d a b : Reg) (s : State) : Out := aluA2 (fun x y => aluSltz x y) d a b s
/-- `a.min` (R140). -/
def execAMin (d a b : Reg) (s : State) : Out := aluA2 (fun x y => aluMin x y) d a b s
/-- `a.max` (R140). -/
def execAMax (d a b : Reg) (s : State) : Out := aluA2 (fun x y => aluMax x y) d a b s
/-- `a.minz` (R140). -/
def execAMinz (d a b : Reg) (s : State) : Out := aluA2 (fun x y => aluMinz x y) d a b s
/-- `a.maxz` (R140). -/
def execAMaxz (d a b : Reg) (s : State) : Out := aluA2 (fun x y => aluMaxz x y) d a b s
/-- `a.mul` (R140). -/
def execAMul (d a b : Reg) (s : State) : Out := aluA2 (fun x y => x * y) d a b s
/-- `a.mulh` (R140). -/
def execAMulh (d a b : Reg) (s : State) : Out := aluA2 (fun x y => aluMulh x y) d a b s
/-- `a.mulhz` (R140). -/
def execAMulhz (d a b : Reg) (s : State) : Out := aluA2 (fun x y => aluMulhz x y) d a b s
/-- `a.div` (R140). -/
def execADiv (d a b : Reg) (s : State) : Out := aluA2 (fun x y => aluDiv x y) d a b s
/-- `a.divz` (R140). -/
def execADivz (d a b : Reg) (s : State) : Out := aluA2 (fun x y => aluDivz x y) d a b s
/-- `a.rem` (R140). -/
def execARem (d a b : Reg) (s : State) : Out := aluA2 (fun x y => aluRem x y) d a b s
/-- `a.remz` (R140). -/
def execARemz (d a b : Reg) (s : State) : Out := aluA2 (fun x y => aluRemz x y) d a b s
/-- `a.addw` (R140). -/
def execAAddw (d a b : Reg) (s : State) : Out := aluA2 (fun x y => aluAddw x y) d a b s
/-- `a.subw` (R140). -/
def execASubw (d a b : Reg) (s : State) : Out := aluA2 (fun x y => aluSubw x y) d a b s
/-- `a.clz` (R140). -/
def execAClz (d a : Reg) (s : State) : Out := aluA1 aluClz d a s
/-- `a.ctz` (R140). -/
def execACtz (d a : Reg) (s : State) : Out := aluA1 aluCtz d a s
/-- `a.pop` (R140). -/
def execAPop (d a : Reg) (s : State) : Out := aluA1 aluPop d a s
/-- `a.sext` (R140). -/
def execASext (d a : Reg) (w : ExtW) (s : State) : Out := aluA1 (aluSext w) d a s
/-- `a.zext` (R140). -/
def execAZext (d a : Reg) (w : ExtW) (s : State) : Out := aluA1 (aluZext w) d a s
/-- `ai.add` (R140). -/
def execAiAdd (d a : Reg) (i : BitVec 12) (s : State) : Out := aluA1 (fun x => x + imm12 i) d a s
/-- `ai.and` (R140). -/
def execAiAnd (d a : Reg) (i : BitVec 12) (s : State) : Out := aluA1 (fun x => x &&& imm12 i) d a s
/-- `ai.or` (R140). -/
def execAiOr (d a : Reg) (i : BitVec 12) (s : State) : Out := aluA1 (fun x => x ||| imm12 i) d a s
/-- `ai.xor` (R140). -/
def execAiXor (d a : Reg) (i : BitVec 12) (s : State) : Out := aluA1 (fun x => x ^^^ imm12 i) d a s
/-- `ai.slt` (R140). -/
def execAiSlt (d a : Reg) (i : BitVec 12) (s : State) : Out := aluA1 (fun x => aluSlt x (imm12 i)) d a s
/-- `ai.sltz` (R140). -/
def execAiSltz (d a : Reg) (i : BitVec 12) (s : State) : Out := aluA1 (fun x => aluSltz x (imm12 i)) d a s
/-- `ai.mul` (R140). -/
def execAiMul (d a : Reg) (i : BitVec 12) (s : State) : Out := aluA1 (fun x => x * imm12 i) d a s
/-- `ai.shl` (R31, R140). -/
def execAiShl (d a : Reg) (c : BitVec 6) (s : State) : Out := aluA1 (fun x => aluShl x (c.zeroExtend 64)) d a s
/-- `ai.shr` (R31, R140). -/
def execAiShr (d a : Reg) (c : BitVec 6) (s : State) : Out := aluA1 (fun x => aluShr x (c.zeroExtend 64)) d a s
/-- `ai.sra` (R31, R140). -/
def execAiSra (d a : Reg) (c : BitVec 6) (s : State) : Out := aluA1 (fun x => aluSra x (c.zeroExtend 64)) d a s
/-- `s.add` (R140). -/
def execSAdd (d a b : Reg) (s : State) : Out := aluS2 (fun x y => x + y) d a b s
/-- `s.sub` (R140). -/
def execSSub (d a b : Reg) (s : State) : Out := aluS2 (fun x y => x - y) d a b s
/-- `s.and` (R140). -/
def execSAnd (d a b : Reg) (s : State) : Out := aluS2 (fun x y => x &&& y) d a b s
/-- `s.or` (R140). -/
def execSOr (d a b : Reg) (s : State) : Out := aluS2 (fun x y => x ||| y) d a b s
/-- `s.xor` (R140). -/
def execSXor (d a b : Reg) (s : State) : Out := aluS2 (fun x y => x ^^^ y) d a b s
/-- `s.shl` (R140). -/
def execSShl (d a b : Reg) (s : State) : Out := aluS2 (fun x y => aluShl x y) d a b s
/-- `s.shr` (R140). -/
def execSShr (d a b : Reg) (s : State) : Out := aluS2 (fun x y => aluShr x y) d a b s
/-- `s.sra` (R140). -/
def execSSra (d a b : Reg) (s : State) : Out := aluS2 (fun x y => aluSra x y) d a b s
/-- `s.slt` (R140). -/
def execSSlt (d a b : Reg) (s : State) : Out := aluS2 (fun x y => aluSlt x y) d a b s
/-- `s.sltz` (R140). -/
def execSSltz (d a b : Reg) (s : State) : Out := aluS2 (fun x y => aluSltz x y) d a b s
/-- `s.min` (R140). -/
def execSMin (d a b : Reg) (s : State) : Out := aluS2 (fun x y => aluMin x y) d a b s
/-- `s.max` (R140). -/
def execSMax (d a b : Reg) (s : State) : Out := aluS2 (fun x y => aluMax x y) d a b s
/-- `s.minz` (R140). -/
def execSMinz (d a b : Reg) (s : State) : Out := aluS2 (fun x y => aluMinz x y) d a b s
/-- `s.maxz` (R140). -/
def execSMaxz (d a b : Reg) (s : State) : Out := aluS2 (fun x y => aluMaxz x y) d a b s
/-- `s.mul` (R140). -/
def execSMul (d a b : Reg) (s : State) : Out := aluS2 (fun x y => x * y) d a b s
/-- `s.mulh` (R140). -/
def execSMulh (d a b : Reg) (s : State) : Out := aluS2 (fun x y => aluMulh x y) d a b s
/-- `s.mulhz` (R140). -/
def execSMulhz (d a b : Reg) (s : State) : Out := aluS2 (fun x y => aluMulhz x y) d a b s
/-- `s.div` (R140). -/
def execSDiv (d a b : Reg) (s : State) : Out := aluS2 (fun x y => aluDiv x y) d a b s
/-- `s.divz` (R140). -/
def execSDivz (d a b : Reg) (s : State) : Out := aluS2 (fun x y => aluDivz x y) d a b s
/-- `s.rem` (R140). -/
def execSRem (d a b : Reg) (s : State) : Out := aluS2 (fun x y => aluRem x y) d a b s
/-- `s.remz` (R140). -/
def execSRemz (d a b : Reg) (s : State) : Out := aluS2 (fun x y => aluRemz x y) d a b s
/-- `s.addw` (R140). -/
def execSAddw (d a b : Reg) (s : State) : Out := aluS2 (fun x y => aluAddw x y) d a b s
/-- `s.subw` (R140). -/
def execSSubw (d a b : Reg) (s : State) : Out := aluS2 (fun x y => aluSubw x y) d a b s
/-- `s.clz` (R140). -/
def execSClz (d a : Reg) (s : State) : Out := aluS1 aluClz d a s
/-- `s.ctz` (R140). -/
def execSCtz (d a : Reg) (s : State) : Out := aluS1 aluCtz d a s
/-- `s.pop` (R140). -/
def execSPop (d a : Reg) (s : State) : Out := aluS1 aluPop d a s
/-- `s.sext` (R140). -/
def execSSext (d a : Reg) (w : ExtW) (s : State) : Out := aluS1 (aluSext w) d a s
/-- `s.zext` (R140). -/
def execSZext (d a : Reg) (w : ExtW) (s : State) : Out := aluS1 (aluZext w) d a s
/-- `si.add` (R140). -/
def execSiAdd (d a : Reg) (i : BitVec 12) (s : State) : Out := aluS1 (fun x => x + imm12 i) d a s
/-- `si.and` (R140). -/
def execSiAnd (d a : Reg) (i : BitVec 12) (s : State) : Out := aluS1 (fun x => x &&& imm12 i) d a s
/-- `si.or` (R140). -/
def execSiOr (d a : Reg) (i : BitVec 12) (s : State) : Out := aluS1 (fun x => x ||| imm12 i) d a s
/-- `si.xor` (R140). -/
def execSiXor (d a : Reg) (i : BitVec 12) (s : State) : Out := aluS1 (fun x => x ^^^ imm12 i) d a s
/-- `si.slt` (R140). -/
def execSiSlt (d a : Reg) (i : BitVec 12) (s : State) : Out := aluS1 (fun x => aluSlt x (imm12 i)) d a s
/-- `si.sltz` (R140). -/
def execSiSltz (d a : Reg) (i : BitVec 12) (s : State) : Out := aluS1 (fun x => aluSltz x (imm12 i)) d a s
/-- `si.mul` (R140). -/
def execSiMul (d a : Reg) (i : BitVec 12) (s : State) : Out := aluS1 (fun x => x * imm12 i) d a s
/-- `si.shl` (R31, R140). -/
def execSiShl (d a : Reg) (c : BitVec 6) (s : State) : Out := aluS1 (fun x => aluShl x (c.zeroExtend 64)) d a s
/-- `si.shr` (R31, R140). -/
def execSiShr (d a : Reg) (c : BitVec 6) (s : State) : Out := aluS1 (fun x => aluShr x (c.zeroExtend 64)) d a s
/-- `si.sra` (R31, R140). -/
def execSiSra (d a : Reg) (c : BitVec 6) (s : State) : Out := aluS1 (fun x => aluSra x (c.zeroExtend 64)) d a s
/-- `ins` (R142): side 0 names an a-register, side 1 an s-register. -/
def execIns (d : Reg) (side : Bool) (q : BitVec 2) (i : BitVec 16) (s : State) : Out :=
  seqUnit s fun x => if side then x.setS d (insQuarter (x.getS d) q i) else x.setA d (insQuarter (x.getA d) q i)

/-- Pushes one bit onto bq; a full bq is cause 1 (R120, R141). -/
def pushBq (f : Word → Word → Bool) (a b : Reg) (s : State) : Out :=
  runUnit s fun s q =>
    let x := s.seq q
    if 8 ≤ x.qs.bq.length then s.illegal q
    else .done (s.modSeq q fun x => { x with qs := { x.qs with bq := x.qs.bq ++ [f (x.getS a) (x.getS b)] } }) .on

/-- `s.bqeq` (R141). -/
def execSBqeq (a b : Reg) (s : State) : Out := pushBq (fun x y => x == y) a b s
/-- `s.bqne` (R141). -/
def execSBqne (a b : Reg) (s : State) : Out := pushBq (fun x y => x != y) a b s
/-- `s.bqlt` (R141). -/
def execSBqlt (a b : Reg) (s : State) : Out := pushBq (fun x y => x.slt y) a b s
/-- `s.bqge` (R141). -/
def execSBqge (a b : Reg) (s : State) : Out := pushBq (fun x y => !x.slt y) a b s
/-- `s.bqltz` (R141). -/
def execSBqltz (a b : Reg) (s : State) : Out := pushBq (fun x y => x.ult y) a b s
/-- `s.bqgez` (R141). -/
def execSBqgez (a b : Reg) (s : State) : Out := pushBq (fun x y => !x.ult y) a b s

end Sys2Proof.Machine
end

