-- ==== Sys2Proof/Machine/ScalarFp.lean ====
section
/-!
DEFINITION. Sys2Proof/Machine/ScalarFp.lean: the scalar floating-point words (06_sequencer_instructions.md R154,
R155).
-/

namespace Sys2Proof.Machine

open Sys2Proof

/-- An sf word: its result, zero-extended, goes to s[rd] and its flags to the scalar FFLAGS (R154). `f` takes the
format, the sampled control and the values of s[ra], s[rb] and s[rd]. -/
def sfUnit (f : Fmt → FCtl → Nat → Nat → Nat → Nat × FFlags) (d a b : Reg) (t : FpFmt) (s : State) : Out :=
  seqUnit s fun x =>
    let (r, fl) := f (.ieee t) x.fctl (x.getS a).toNat (x.getS b).toNat (x.getS d).toNat
    (x.orFlags fl).setS d (BitVec.ofNat 64 r)

/-- A comparison's Boolean as a result. -/
def boolRes (r : Bool × FFlags) : Nat × FFlags := (if r.1 then 1 else 0, r.2)

/-- `sf.add` (R155). -/
def execSfAdd (d a b : Reg) (t : FpFmt) (s : State) : Out := sfUnit (fun f c x y _ => fpAdd f c x y) d a b t s
/-- `sf.sub` (R155). -/
def execSfSub (d a b : Reg) (t : FpFmt) (s : State) : Out := sfUnit (fun f c x y _ => fpSub f c x y) d a b t s
/-- `sf.mul` (R155). -/
def execSfMul (d a b : Reg) (t : FpFmt) (s : State) : Out := sfUnit (fun f c x y _ => fpMul f c x y) d a b t s
/-- `sf.div` (R155). -/
def execSfDiv (d a b : Reg) (t : FpFmt) (s : State) : Out := sfUnit (fun f c x y _ => fpDiv f c x y) d a b t s
/-- `sf.sqrt` (R155). -/
def execSfSqrt (d a : Reg) (t : FpFmt) (s : State) : Out := sfUnit (fun f c x _ _ => fpSqrt f c x) d a 0 t s
/-- `sf.min` (R155). -/
def execSfMin (d a b : Reg) (t : FpFmt) (s : State) : Out := sfUnit (fun f c x y _ => fpMinMax f c false x y) d a b t s
/-- `sf.max` (R155). -/
def execSfMax (d a b : Reg) (t : FpFmt) (s : State) : Out := sfUnit (fun f c x y _ => fpMinMax f c true x y) d a b t s
/-- `sf.fma` (R155): the addend is s[rd]. -/
def execSfFma (d a b : Reg) (t : FpFmt) (s : State) : Out := sfUnit (fun f c x y z => fpFma f c false false x y z) d a b t s
/-- `sf.cvfi` (R155): a signed 64-bit integer to the format. -/
def execSfCvfi (d a : Reg) (t : FpFmt) (s : State) : Out :=
  sfUnit (fun f c x _ _ => f.convert c c.sat ((Fmt.int true 6).decode x)) d a 0 t s
/-- `sf.cvif` (R155): the format to a signed 64-bit integer. -/
def execSfCvif (d a : Reg) (t : FpFmt) (s : State) : Out :=
  sfUnit (fun f c x _ _ =>
    let (_, v, fa) := fpOperand f c x
    let (r, fl) := toIntFmt true 64 c.mode v
    (r, fl ||| fa)) d a 0 t s
/-- `sf.cvff` (R155): the format to binary32. -/
def execSfCvff (d a : Reg) (t : FpFmt) (s : State) : Out :=
  sfUnit (fun f c x _ _ => convertElem f (.ieee .f32) c false (x % 2 ^ f.width)) d a 0 t s
/-- `sf.lt` (R155). -/
def execSfLt (d a b : Reg) (t : FpFmt) (s : State) : Out := sfUnit (fun f c x y _ => boolRes (fpCmp f c .lt x y)) d a b t s
/-- `sf.eq` (R155). -/
def execSfEq (d a b : Reg) (t : FpFmt) (s : State) : Out := sfUnit (fun f c x y _ => boolRes (fpCmp f c .eq x y)) d a b t s
/-- `sf.le` (R155). -/
def execSfLe (d a b : Reg) (t : FpFmt) (s : State) : Out := sfUnit (fun f c x y _ => boolRes (fpCmp f c .le x y)) d a b t s

end Sys2Proof.Machine
end

