-- ==== Sys2Proof/Machine/Transfer.lean ====
section
/-!
DEFINITION. Sys2Proof/Machine/Transfer.lean: transfers between the halves (06_sequencer_instructions.md R153;
05_sequencer.md R119 to R122, R133). Queue counts are checked in program order (R120), so no unit waits.
-/

namespace Sys2Proof.Machine

open Sys2Proof

/-- `x.stoa` (R153). -/
def execXStoa (a : Reg) (s : State) : Out :=
  runUnit s fun s q =>
    let x := s.seq q
    if 8 ≤ x.qs.xa.length then s.illegal q
    else .done (s.modSeq q fun x => { x with qs := { x.qs with xa := x.qs.xa ++ [x.getS a] } }) .on

/-- `x.afroms` (R153). -/
def execXAfroms (d : Reg) (s : State) : Out :=
  runUnit s fun s q =>
    match (s.seq q).qs.xa with
    | [] => s.illegal q
    | v :: rest => .done (s.modSeq q fun x => ({ x with qs := { x.qs with xa := rest } }).setA d v) .on

/-- `x.atoe` (R153). -/
def execXAtoe (a : Reg) (s : State) : Out :=
  runUnit s fun s q =>
    let x := s.seq q
    if 8 ≤ x.qs.xe.length then s.illegal q
    else .done (s.modSeq q fun x => { x with qs := { x.qs with xe := x.qs.xe ++ [{ val := x.getA a }] } }) .on

/-- `x.sfrome`: a poisoned entry raises cause 9 with the address and the word that faulted (R133, R153). -/
def execXSfrome (d : Reg) (s : State) : Out :=
  runUnit s fun s q =>
    match (s.seq q).qs.xe with
    | [] => s.illegal q
    | e :: rest =>
      match e.bad with
      | some m => .trap s { cause := 9, tval := m.addr, sub := m.cause, eapc := some m.word }
      | none => .done (s.modSeq q fun x => ({ x with qs := { x.qs with xe := rest } }).setS d e.val) .on

/-- `x.spush` (R153). -/
def execXSpush (a : Reg) (s : State) : Out :=
  runUnit s fun s q =>
    let x := s.seq q
    if 16 ≤ x.qs.sq.length then s.illegal q
    else .done (s.modSeq q fun x => { x with qs := { x.qs with sq := x.qs.sq ++ [x.getS a] } }) .on

/-- Queues after a drain of those named by a mask: bits 4 to 7 are sq, xa, xe and bq; the lq queues hold nothing
between units (R43, R122). -/
def Queues.drain (k : Queues) (m : BitVec 8) : Queues where
  sq := if m.getLsbD 4 then [] else k.sq
  xa := if m.getLsbD 5 then [] else k.xa
  xe := if m.getLsbD 6 then [] else k.xe
  bq := if m.getLsbD 7 then [] else k.bq

/-- `x.drain` (R122). -/
def execXDrain (m : BitVec 8) (s : State) : Out := seqUnit s fun x => { x with qs := x.qs.drain m }

end Sys2Proof.Machine
end

