-- ==== Sys2Proof/Machine/VWords.lean ====
section
/-!
DEFINITION. Sys2Proof/Machine/VWords.lean: the meaning of each row of majors v, vs, vi, vf, vfs, vcv, vp, vw, vld, vst and
vlk, of the matrix words that may end a convoy, and of a convoy: each is a unit of one word or of several
(02_words_and_opcode_map.md R33, R34).
-/

namespace Sys2Proof.Machine

open Sys2Proof

/-- `v.add` (R194). -/
def execVAdd (_l : Bool) (d : Reg) (a : Reg) (b : Reg) (m : BitVec 3) (s : State) : Out := vecUnit [.int .vv .add d a b m] s
/-- `v.sub` (R194). -/
def execVSub (_l : Bool) (d : Reg) (a : Reg) (b : Reg) (m : BitVec 3) (s : State) : Out := vecUnit [.int .vv .sub d a b m] s
/-- `v.rsub` (R194). -/
def execVRsub (_l : Bool) (d : Reg) (a : Reg) (b : Reg) (m : BitVec 3) (s : State) : Out := vecUnit [.int .vv .rsub d a b m] s
/-- `v.mul` (R194). -/
def execVMul (_l : Bool) (d : Reg) (a : Reg) (b : Reg) (m : BitVec 3) (s : State) : Out := vecUnit [.int .vv .mul d a b m] s
/-- `v.mulh` (R194). -/
def execVMulh (_l : Bool) (d : Reg) (a : Reg) (b : Reg) (m : BitVec 3) (s : State) : Out := vecUnit [.int .vv .mulh d a b m] s
/-- `v.mulhz` (R194). -/
def execVMulhz (_l : Bool) (d : Reg) (a : Reg) (b : Reg) (m : BitVec 3) (s : State) : Out := vecUnit [.int .vv .mulhz d a b m] s
/-- `v.mac` (R194). -/
def execVMac (_l : Bool) (d : Reg) (a : Reg) (b : Reg) (m : BitVec 3) (s : State) : Out := vecUnit [.int .vv .mac d a b m] s
/-- `v.nmac` (R194). -/
def execVNmac (_l : Bool) (d : Reg) (a : Reg) (b : Reg) (m : BitVec 3) (s : State) : Out := vecUnit [.int .vv .nmac d a b m] s
/-- `v.and` (R194). -/
def execVAnd (_l : Bool) (d : Reg) (a : Reg) (b : Reg) (m : BitVec 3) (s : State) : Out := vecUnit [.int .vv .and d a b m] s
/-- `v.or` (R194). -/
def execVOr (_l : Bool) (d : Reg) (a : Reg) (b : Reg) (m : BitVec 3) (s : State) : Out := vecUnit [.int .vv .or d a b m] s
/-- `v.xor` (R194). -/
def execVXor (_l : Bool) (d : Reg) (a : Reg) (b : Reg) (m : BitVec 3) (s : State) : Out := vecUnit [.int .vv .xor d a b m] s
/-- `v.shl` (R194). -/
def execVShl (_l : Bool) (d : Reg) (a : Reg) (b : Reg) (m : BitVec 3) (s : State) : Out := vecUnit [.int .vv .shl d a b m] s
/-- `v.shr` (R194). -/
def execVShr (_l : Bool) (d : Reg) (a : Reg) (b : Reg) (m : BitVec 3) (s : State) : Out := vecUnit [.int .vv .shr d a b m] s
/-- `v.sra` (R194). -/
def execVSra (_l : Bool) (d : Reg) (a : Reg) (b : Reg) (m : BitVec 3) (s : State) : Out := vecUnit [.int .vv .sra d a b m] s
/-- `v.rshr` (R195). -/
def execVRshr (_l : Bool) (d : Reg) (a : Reg) (b : Reg) (m : BitVec 3) (s : State) : Out := vecUnit [.int .vv .rshr d a b m] s
/-- `v.rshre` (R195). -/
def execVRshre (_l : Bool) (d : Reg) (a : Reg) (b : Reg) (m : BitVec 3) (s : State) : Out := vecUnit [.int .vv .rshre d a b m] s
/-- `v.min` (R194). -/
def execVMin (_l : Bool) (d : Reg) (a : Reg) (b : Reg) (m : BitVec 3) (s : State) : Out := vecUnit [.int .vv .min d a b m] s
/-- `v.max` (R194). -/
def execVMax (_l : Bool) (d : Reg) (a : Reg) (b : Reg) (m : BitVec 3) (s : State) : Out := vecUnit [.int .vv .max d a b m] s
/-- `v.minz` (R194). -/
def execVMinz (_l : Bool) (d : Reg) (a : Reg) (b : Reg) (m : BitVec 3) (s : State) : Out := vecUnit [.int .vv .minz d a b m] s
/-- `v.maxz` (R194). -/
def execVMaxz (_l : Bool) (d : Reg) (a : Reg) (b : Reg) (m : BitVec 3) (s : State) : Out := vecUnit [.int .vv .maxz d a b m] s
/-- `v.abs` (R194). -/
def execVAbs (_l : Bool) (d : Reg) (a : Reg) (m : BitVec 3) (s : State) : Out := vecUnit [.int .vv .abs d a 0 m] s
/-- `v.avg` (R194). -/
def execVAvg (_l : Bool) (d : Reg) (a : Reg) (b : Reg) (m : BitVec 3) (s : State) : Out := vecUnit [.int .vv .avg d a b m] s
/-- `v.div` (R194). -/
def execVDiv (_l : Bool) (d : Reg) (a : Reg) (b : Reg) (m : BitVec 3) (s : State) : Out := vecUnit [.int .vv .div d a b m] s
/-- `v.divz` (R194). -/
def execVDivz (_l : Bool) (d : Reg) (a : Reg) (b : Reg) (m : BitVec 3) (s : State) : Out := vecUnit [.int .vv .divz d a b m] s
/-- `v.rem` (R194). -/
def execVRem (_l : Bool) (d : Reg) (a : Reg) (b : Reg) (m : BitVec 3) (s : State) : Out := vecUnit [.int .vv .rem d a b m] s
/-- `v.remz` (R194). -/
def execVRemz (_l : Bool) (d : Reg) (a : Reg) (b : Reg) (m : BitVec 3) (s : State) : Out := vecUnit [.int .vv .remz d a b m] s
/-- `v.cmpeq` (R196). -/
def execVCmpeq (_l : Bool) (d : Reg) (a : Reg) (b : Reg) (m : BitVec 3) (s : State) : Out := vecUnit [.int .vv .cmpeq d a b m] s
/-- `v.cmpne` (R196). -/
def execVCmpne (_l : Bool) (d : Reg) (a : Reg) (b : Reg) (m : BitVec 3) (s : State) : Out := vecUnit [.int .vv .cmpne d a b m] s
/-- `v.cmplt` (R196). -/
def execVCmplt (_l : Bool) (d : Reg) (a : Reg) (b : Reg) (m : BitVec 3) (s : State) : Out := vecUnit [.int .vv .cmplt d a b m] s
/-- `v.cmple` (R196). -/
def execVCmple (_l : Bool) (d : Reg) (a : Reg) (b : Reg) (m : BitVec 3) (s : State) : Out := vecUnit [.int .vv .cmple d a b m] s
/-- `v.cmpltz` (R196). -/
def execVCmpltz (_l : Bool) (d : Reg) (a : Reg) (b : Reg) (m : BitVec 3) (s : State) : Out := vecUnit [.int .vv .cmpltz d a b m] s
/-- `v.cmplez` (R196). -/
def execVCmplez (_l : Bool) (d : Reg) (a : Reg) (b : Reg) (m : BitVec 3) (s : State) : Out := vecUnit [.int .vv .cmplez d a b m] s
/-- `v.sel` (R197). -/
def execVSel (_l : Bool) (d : Reg) (a : Reg) (b : Reg) (m : BitVec 3) (s : State) : Out := vecUnit [.int .vv .sel d a b m] s
/-- `v.mv` (R197). -/
def execVMv (_l : Bool) (d : Reg) (a : Reg) (m : BitVec 3) (s : State) : Out := vecUnit [.int .vv .mv d a 0 m] s
/-- `v.clz` (R194). -/
def execVClz (_l : Bool) (d : Reg) (a : Reg) (m : BitVec 3) (s : State) : Out := vecUnit [.int .vv .clz d a 0 m] s
/-- `v.pop` (R194). -/
def execVPop (_l : Bool) (d : Reg) (a : Reg) (m : BitVec 3) (s : State) : Out := vecUnit [.int .vv .pop d a 0 m] s
/-- `vs.add` (R194). -/
def execVsAdd (_l : Bool) (d : Reg) (a : Reg) (b : Reg) (m : BitVec 3) (s : State) : Out := vecUnit [.int .vs .add d a b m] s
/-- `vs.sub` (R194). -/
def execVsSub (_l : Bool) (d : Reg) (a : Reg) (b : Reg) (m : BitVec 3) (s : State) : Out := vecUnit [.int .vs .sub d a b m] s
/-- `vs.rsub` (R194). -/
def execVsRsub (_l : Bool) (d : Reg) (a : Reg) (b : Reg) (m : BitVec 3) (s : State) : Out := vecUnit [.int .vs .rsub d a b m] s
/-- `vs.mul` (R194). -/
def execVsMul (_l : Bool) (d : Reg) (a : Reg) (b : Reg) (m : BitVec 3) (s : State) : Out := vecUnit [.int .vs .mul d a b m] s
/-- `vs.mulh` (R194). -/
def execVsMulh (_l : Bool) (d : Reg) (a : Reg) (b : Reg) (m : BitVec 3) (s : State) : Out := vecUnit [.int .vs .mulh d a b m] s
/-- `vs.mulhz` (R194). -/
def execVsMulhz (_l : Bool) (d : Reg) (a : Reg) (b : Reg) (m : BitVec 3) (s : State) : Out := vecUnit [.int .vs .mulhz d a b m] s
/-- `vs.mac` (R194). -/
def execVsMac (_l : Bool) (d : Reg) (a : Reg) (b : Reg) (m : BitVec 3) (s : State) : Out := vecUnit [.int .vs .mac d a b m] s
/-- `vs.nmac` (R194). -/
def execVsNmac (_l : Bool) (d : Reg) (a : Reg) (b : Reg) (m : BitVec 3) (s : State) : Out := vecUnit [.int .vs .nmac d a b m] s
/-- `vs.and` (R194). -/
def execVsAnd (_l : Bool) (d : Reg) (a : Reg) (b : Reg) (m : BitVec 3) (s : State) : Out := vecUnit [.int .vs .and d a b m] s
/-- `vs.or` (R194). -/
def execVsOr (_l : Bool) (d : Reg) (a : Reg) (b : Reg) (m : BitVec 3) (s : State) : Out := vecUnit [.int .vs .or d a b m] s
/-- `vs.xor` (R194). -/
def execVsXor (_l : Bool) (d : Reg) (a : Reg) (b : Reg) (m : BitVec 3) (s : State) : Out := vecUnit [.int .vs .xor d a b m] s
/-- `vs.shl` (R194). -/
def execVsShl (_l : Bool) (d : Reg) (a : Reg) (b : Reg) (m : BitVec 3) (s : State) : Out := vecUnit [.int .vs .shl d a b m] s
/-- `vs.shr` (R194). -/
def execVsShr (_l : Bool) (d : Reg) (a : Reg) (b : Reg) (m : BitVec 3) (s : State) : Out := vecUnit [.int .vs .shr d a b m] s
/-- `vs.sra` (R194). -/
def execVsSra (_l : Bool) (d : Reg) (a : Reg) (b : Reg) (m : BitVec 3) (s : State) : Out := vecUnit [.int .vs .sra d a b m] s
/-- `vs.rshr` (R195). -/
def execVsRshr (_l : Bool) (d : Reg) (a : Reg) (b : Reg) (m : BitVec 3) (s : State) : Out := vecUnit [.int .vs .rshr d a b m] s
/-- `vs.rshre` (R195). -/
def execVsRshre (_l : Bool) (d : Reg) (a : Reg) (b : Reg) (m : BitVec 3) (s : State) : Out := vecUnit [.int .vs .rshre d a b m] s
/-- `vs.min` (R194). -/
def execVsMin (_l : Bool) (d : Reg) (a : Reg) (b : Reg) (m : BitVec 3) (s : State) : Out := vecUnit [.int .vs .min d a b m] s
/-- `vs.max` (R194). -/
def execVsMax (_l : Bool) (d : Reg) (a : Reg) (b : Reg) (m : BitVec 3) (s : State) : Out := vecUnit [.int .vs .max d a b m] s
/-- `vs.minz` (R194). -/
def execVsMinz (_l : Bool) (d : Reg) (a : Reg) (b : Reg) (m : BitVec 3) (s : State) : Out := vecUnit [.int .vs .minz d a b m] s
/-- `vs.maxz` (R194). -/
def execVsMaxz (_l : Bool) (d : Reg) (a : Reg) (b : Reg) (m : BitVec 3) (s : State) : Out := vecUnit [.int .vs .maxz d a b m] s
/-- `vs.avg` (R194). -/
def execVsAvg (_l : Bool) (d : Reg) (a : Reg) (b : Reg) (m : BitVec 3) (s : State) : Out := vecUnit [.int .vs .avg d a b m] s
/-- `vs.div` (R194). -/
def execVsDiv (_l : Bool) (d : Reg) (a : Reg) (b : Reg) (m : BitVec 3) (s : State) : Out := vecUnit [.int .vs .div d a b m] s
/-- `vs.divz` (R194). -/
def execVsDivz (_l : Bool) (d : Reg) (a : Reg) (b : Reg) (m : BitVec 3) (s : State) : Out := vecUnit [.int .vs .divz d a b m] s
/-- `vs.rem` (R194). -/
def execVsRem (_l : Bool) (d : Reg) (a : Reg) (b : Reg) (m : BitVec 3) (s : State) : Out := vecUnit [.int .vs .rem d a b m] s
/-- `vs.remz` (R194). -/
def execVsRemz (_l : Bool) (d : Reg) (a : Reg) (b : Reg) (m : BitVec 3) (s : State) : Out := vecUnit [.int .vs .remz d a b m] s
/-- `vs.cmpeq` (R196). -/
def execVsCmpeq (_l : Bool) (d : Reg) (a : Reg) (b : Reg) (m : BitVec 3) (s : State) : Out := vecUnit [.int .vs .cmpeq d a b m] s
/-- `vs.cmpne` (R196). -/
def execVsCmpne (_l : Bool) (d : Reg) (a : Reg) (b : Reg) (m : BitVec 3) (s : State) : Out := vecUnit [.int .vs .cmpne d a b m] s
/-- `vs.cmplt` (R196). -/
def execVsCmplt (_l : Bool) (d : Reg) (a : Reg) (b : Reg) (m : BitVec 3) (s : State) : Out := vecUnit [.int .vs .cmplt d a b m] s
/-- `vs.cmple` (R196). -/
def execVsCmple (_l : Bool) (d : Reg) (a : Reg) (b : Reg) (m : BitVec 3) (s : State) : Out := vecUnit [.int .vs .cmple d a b m] s
/-- `vs.cmpltz` (R196). -/
def execVsCmpltz (_l : Bool) (d : Reg) (a : Reg) (b : Reg) (m : BitVec 3) (s : State) : Out := vecUnit [.int .vs .cmpltz d a b m] s
/-- `vs.cmplez` (R196). -/
def execVsCmplez (_l : Bool) (d : Reg) (a : Reg) (b : Reg) (m : BitVec 3) (s : State) : Out := vecUnit [.int .vs .cmplez d a b m] s
/-- `vs.sel` (R197). -/
def execVsSel (_l : Bool) (d : Reg) (a : Reg) (b : Reg) (m : BitVec 3) (s : State) : Out := vecUnit [.int .vs .sel d a b m] s
/-- `vs.mv` (R197). -/
def execVsMv (_l : Bool) (d : Reg) (b : Reg) (m : BitVec 3) (s : State) : Out := vecUnit [.int .vs .mv d 0 b m] s
/-- `vi.add` (R194). -/
def execViAdd (_l : Bool) (d : Reg) (a : Reg) (i : Reg) (m : BitVec 3) (s : State) : Out := vecUnit [.int .vi .add d a i m] s
/-- `vi.sub` (R194). -/
def execViSub (_l : Bool) (d : Reg) (a : Reg) (i : Reg) (m : BitVec 3) (s : State) : Out := vecUnit [.int .vi .sub d a i m] s
/-- `vi.rsub` (R194). -/
def execViRsub (_l : Bool) (d : Reg) (a : Reg) (i : Reg) (m : BitVec 3) (s : State) : Out := vecUnit [.int .vi .rsub d a i m] s
/-- `vi.mul` (R194). -/
def execViMul (_l : Bool) (d : Reg) (a : Reg) (i : Reg) (m : BitVec 3) (s : State) : Out := vecUnit [.int .vi .mul d a i m] s
/-- `vi.mulh` (R194). -/
def execViMulh (_l : Bool) (d : Reg) (a : Reg) (i : Reg) (m : BitVec 3) (s : State) : Out := vecUnit [.int .vi .mulh d a i m] s
/-- `vi.mulhz` (R194). -/
def execViMulhz (_l : Bool) (d : Reg) (a : Reg) (i : Reg) (m : BitVec 3) (s : State) : Out := vecUnit [.int .vi .mulhz d a i m] s
/-- `vi.mac` (R194). -/
def execViMac (_l : Bool) (d : Reg) (a : Reg) (i : Reg) (m : BitVec 3) (s : State) : Out := vecUnit [.int .vi .mac d a i m] s
/-- `vi.nmac` (R194). -/
def execViNmac (_l : Bool) (d : Reg) (a : Reg) (i : Reg) (m : BitVec 3) (s : State) : Out := vecUnit [.int .vi .nmac d a i m] s
/-- `vi.and` (R194). -/
def execViAnd (_l : Bool) (d : Reg) (a : Reg) (i : Reg) (m : BitVec 3) (s : State) : Out := vecUnit [.int .vi .and d a i m] s
/-- `vi.or` (R194). -/
def execViOr (_l : Bool) (d : Reg) (a : Reg) (i : Reg) (m : BitVec 3) (s : State) : Out := vecUnit [.int .vi .or d a i m] s
/-- `vi.xor` (R194). -/
def execViXor (_l : Bool) (d : Reg) (a : Reg) (i : Reg) (m : BitVec 3) (s : State) : Out := vecUnit [.int .vi .xor d a i m] s
/-- `vi.shl` (R194). -/
def execViShl (_l : Bool) (d : Reg) (a : Reg) (i : Reg) (m : BitVec 3) (s : State) : Out := vecUnit [.int .vi .shl d a i m] s
/-- `vi.shr` (R194). -/
def execViShr (_l : Bool) (d : Reg) (a : Reg) (i : Reg) (m : BitVec 3) (s : State) : Out := vecUnit [.int .vi .shr d a i m] s
/-- `vi.sra` (R194). -/
def execViSra (_l : Bool) (d : Reg) (a : Reg) (i : Reg) (m : BitVec 3) (s : State) : Out := vecUnit [.int .vi .sra d a i m] s
/-- `vi.rshr` (R195). -/
def execViRshr (_l : Bool) (d : Reg) (a : Reg) (i : Reg) (m : BitVec 3) (s : State) : Out := vecUnit [.int .vi .rshr d a i m] s
/-- `vi.rshre` (R195). -/
def execViRshre (_l : Bool) (d : Reg) (a : Reg) (i : Reg) (m : BitVec 3) (s : State) : Out := vecUnit [.int .vi .rshre d a i m] s
/-- `vi.min` (R194). -/
def execViMin (_l : Bool) (d : Reg) (a : Reg) (i : Reg) (m : BitVec 3) (s : State) : Out := vecUnit [.int .vi .min d a i m] s
/-- `vi.max` (R194). -/
def execViMax (_l : Bool) (d : Reg) (a : Reg) (i : Reg) (m : BitVec 3) (s : State) : Out := vecUnit [.int .vi .max d a i m] s
/-- `vi.minz` (R194). -/
def execViMinz (_l : Bool) (d : Reg) (a : Reg) (i : Reg) (m : BitVec 3) (s : State) : Out := vecUnit [.int .vi .minz d a i m] s
/-- `vi.maxz` (R194). -/
def execViMaxz (_l : Bool) (d : Reg) (a : Reg) (i : Reg) (m : BitVec 3) (s : State) : Out := vecUnit [.int .vi .maxz d a i m] s
/-- `vi.avg` (R194). -/
def execViAvg (_l : Bool) (d : Reg) (a : Reg) (i : Reg) (m : BitVec 3) (s : State) : Out := vecUnit [.int .vi .avg d a i m] s
/-- `vi.div` (R194). -/
def execViDiv (_l : Bool) (d : Reg) (a : Reg) (i : Reg) (m : BitVec 3) (s : State) : Out := vecUnit [.int .vi .div d a i m] s
/-- `vi.divz` (R194). -/
def execViDivz (_l : Bool) (d : Reg) (a : Reg) (i : Reg) (m : BitVec 3) (s : State) : Out := vecUnit [.int .vi .divz d a i m] s
/-- `vi.rem` (R194). -/
def execViRem (_l : Bool) (d : Reg) (a : Reg) (i : Reg) (m : BitVec 3) (s : State) : Out := vecUnit [.int .vi .rem d a i m] s
/-- `vi.remz` (R194). -/
def execViRemz (_l : Bool) (d : Reg) (a : Reg) (i : Reg) (m : BitVec 3) (s : State) : Out := vecUnit [.int .vi .remz d a i m] s
/-- `vi.cmpeq` (R196). -/
def execViCmpeq (_l : Bool) (d : Reg) (a : Reg) (i : Reg) (m : BitVec 3) (s : State) : Out := vecUnit [.int .vi .cmpeq d a i m] s
/-- `vi.cmpne` (R196). -/
def execViCmpne (_l : Bool) (d : Reg) (a : Reg) (i : Reg) (m : BitVec 3) (s : State) : Out := vecUnit [.int .vi .cmpne d a i m] s
/-- `vi.cmplt` (R196). -/
def execViCmplt (_l : Bool) (d : Reg) (a : Reg) (i : Reg) (m : BitVec 3) (s : State) : Out := vecUnit [.int .vi .cmplt d a i m] s
/-- `vi.cmple` (R196). -/
def execViCmple (_l : Bool) (d : Reg) (a : Reg) (i : Reg) (m : BitVec 3) (s : State) : Out := vecUnit [.int .vi .cmple d a i m] s
/-- `vi.cmpltz` (R196). -/
def execViCmpltz (_l : Bool) (d : Reg) (a : Reg) (i : Reg) (m : BitVec 3) (s : State) : Out := vecUnit [.int .vi .cmpltz d a i m] s
/-- `vi.cmplez` (R196). -/
def execViCmplez (_l : Bool) (d : Reg) (a : Reg) (i : Reg) (m : BitVec 3) (s : State) : Out := vecUnit [.int .vi .cmplez d a i m] s
/-- `vi.sel` (R197). -/
def execViSel (_l : Bool) (d : Reg) (a : Reg) (i : Reg) (m : BitVec 3) (s : State) : Out := vecUnit [.int .vi .sel d a i m] s
/-- `vi.mv` (R197). -/
def execViMv (_l : Bool) (d : Reg) (i : Reg) (m : BitVec 3) (s : State) : Out := vecUnit [.int .vi .mv d 0 i m] s
/-- `vf.add` (R199). -/
def execVfAdd (_l : Bool) (d : Reg) (a : Reg) (b : Reg) (m : BitVec 3) (s : State) : Out := vecUnit [.fp false .add d a b m] s
/-- `vf.sub` (R199). -/
def execVfSub (_l : Bool) (d : Reg) (a : Reg) (b : Reg) (m : BitVec 3) (s : State) : Out := vecUnit [.fp false .sub d a b m] s
/-- `vf.mul` (R199). -/
def execVfMul (_l : Bool) (d : Reg) (a : Reg) (b : Reg) (m : BitVec 3) (s : State) : Out := vecUnit [.fp false .mul d a b m] s
/-- `vf.div` (R199). -/
def execVfDiv (_l : Bool) (d : Reg) (a : Reg) (b : Reg) (m : BitVec 3) (s : State) : Out := vecUnit [.fp false .div d a b m] s
/-- `vf.fma` (R199). -/
def execVfFma (_l : Bool) (d : Reg) (a : Reg) (b : Reg) (m : BitVec 3) (s : State) : Out := vecUnit [.fp false .fma d a b m] s
/-- `vf.fms` (R199). -/
def execVfFms (_l : Bool) (d : Reg) (a : Reg) (b : Reg) (m : BitVec 3) (s : State) : Out := vecUnit [.fp false .fms d a b m] s
/-- `vf.fnma` (R199). -/
def execVfFnma (_l : Bool) (d : Reg) (a : Reg) (b : Reg) (m : BitVec 3) (s : State) : Out := vecUnit [.fp false .fnma d a b m] s
/-- `vf.min` (R199). -/
def execVfMin (_l : Bool) (d : Reg) (a : Reg) (b : Reg) (m : BitVec 3) (s : State) : Out := vecUnit [.fp false .min d a b m] s
/-- `vf.max` (R199). -/
def execVfMax (_l : Bool) (d : Reg) (a : Reg) (b : Reg) (m : BitVec 3) (s : State) : Out := vecUnit [.fp false .max d a b m] s
/-- `vf.abs` (R199). -/
def execVfAbs (_l : Bool) (d : Reg) (a : Reg) (m : BitVec 3) (s : State) : Out := vecUnit [.fp false .abs d a 0 m] s
/-- `vf.neg` (R199). -/
def execVfNeg (_l : Bool) (d : Reg) (a : Reg) (m : BitVec 3) (s : State) : Out := vecUnit [.fp false .neg d a 0 m] s
/-- `vf.sqrt` (R199). -/
def execVfSqrt (_l : Bool) (d : Reg) (a : Reg) (m : BitVec 3) (s : State) : Out := vecUnit [.fp false .sqrt d a 0 m] s
/-- `vf.rcpe` (R113). -/
def execVfRcpe (_l : Bool) (d : Reg) (a : Reg) (m : BitVec 3) (s : State) : Out := vecUnit [.fp false .rcpe d a 0 m] s
/-- `vf.rsqe` (R114). -/
def execVfRsqe (_l : Bool) (d : Reg) (a : Reg) (m : BitVec 3) (s : State) : Out := vecUnit [.fp false .rsqe d a 0 m] s
/-- `vf.exp2` (R201). -/
def execVfExp2 (_l : Bool) (d : Reg) (a : Reg) (m : BitVec 3) (s : State) : Out := vecUnit [.fp false .exp2 d a 0 m] s
/-- `vf.cmpeq` (R199). -/
def execVfCmpeq (_l : Bool) (d : Reg) (a : Reg) (b : Reg) (m : BitVec 3) (s : State) : Out := vecUnit [.fp false .cmpeq d a b m] s
/-- `vf.cmplt` (R199). -/
def execVfCmplt (_l : Bool) (d : Reg) (a : Reg) (b : Reg) (m : BitVec 3) (s : State) : Out := vecUnit [.fp false .cmplt d a b m] s
/-- `vf.cmple` (R199). -/
def execVfCmple (_l : Bool) (d : Reg) (a : Reg) (b : Reg) (m : BitVec 3) (s : State) : Out := vecUnit [.fp false .cmple d a b m] s
/-- `vf.class` (R200). -/
def execVfClass (_l : Bool) (d : Reg) (a : Reg) (m : BitVec 3) (s : State) : Out := vecUnit [.fp false .class d a 0 m] s
/-- `vf.sgnj` (R199). -/
def execVfSgnj (_l : Bool) (d : Reg) (a : Reg) (b : Reg) (m : BitVec 3) (s : State) : Out := vecUnit [.fp false .sgnj d a b m] s
/-- `vf.maxm` (R199). -/
def execVfMaxm (_l : Bool) (d : Reg) (a : Reg) (b : Reg) (m : BitVec 3) (s : State) : Out := vecUnit [.fp false .maxm d a b m] s
/-- `vfs.add` (R199). -/
def execVfsAdd (_l : Bool) (d : Reg) (a : Reg) (b : Reg) (m : BitVec 3) (s : State) : Out := vecUnit [.fp true .add d a b m] s
/-- `vfs.sub` (R199). -/
def execVfsSub (_l : Bool) (d : Reg) (a : Reg) (b : Reg) (m : BitVec 3) (s : State) : Out := vecUnit [.fp true .sub d a b m] s
/-- `vfs.mul` (R199). -/
def execVfsMul (_l : Bool) (d : Reg) (a : Reg) (b : Reg) (m : BitVec 3) (s : State) : Out := vecUnit [.fp true .mul d a b m] s
/-- `vfs.div` (R199). -/
def execVfsDiv (_l : Bool) (d : Reg) (a : Reg) (b : Reg) (m : BitVec 3) (s : State) : Out := vecUnit [.fp true .div d a b m] s
/-- `vfs.fma` (R199). -/
def execVfsFma (_l : Bool) (d : Reg) (a : Reg) (b : Reg) (m : BitVec 3) (s : State) : Out := vecUnit [.fp true .fma d a b m] s
/-- `vfs.fms` (R199). -/
def execVfsFms (_l : Bool) (d : Reg) (a : Reg) (b : Reg) (m : BitVec 3) (s : State) : Out := vecUnit [.fp true .fms d a b m] s
/-- `vfs.fnma` (R199). -/
def execVfsFnma (_l : Bool) (d : Reg) (a : Reg) (b : Reg) (m : BitVec 3) (s : State) : Out := vecUnit [.fp true .fnma d a b m] s
/-- `vfs.min` (R199). -/
def execVfsMin (_l : Bool) (d : Reg) (a : Reg) (b : Reg) (m : BitVec 3) (s : State) : Out := vecUnit [.fp true .min d a b m] s
/-- `vfs.max` (R199). -/
def execVfsMax (_l : Bool) (d : Reg) (a : Reg) (b : Reg) (m : BitVec 3) (s : State) : Out := vecUnit [.fp true .max d a b m] s
/-- `vfs.cmpeq` (R199). -/
def execVfsCmpeq (_l : Bool) (d : Reg) (a : Reg) (b : Reg) (m : BitVec 3) (s : State) : Out := vecUnit [.fp true .cmpeq d a b m] s
/-- `vfs.cmplt` (R199). -/
def execVfsCmplt (_l : Bool) (d : Reg) (a : Reg) (b : Reg) (m : BitVec 3) (s : State) : Out := vecUnit [.fp true .cmplt d a b m] s
/-- `vfs.cmple` (R199). -/
def execVfsCmple (_l : Bool) (d : Reg) (a : Reg) (b : Reg) (m : BitVec 3) (s : State) : Out := vecUnit [.fp true .cmple d a b m] s
/-- `vfs.sgnj` (R199). -/
def execVfsSgnj (_l : Bool) (d : Reg) (a : Reg) (b : Reg) (m : BitVec 3) (s : State) : Out := vecUnit [.fp true .sgnj d a b m] s
/-- `vfs.maxm` (R199). -/
def execVfsMaxm (_l : Bool) (d : Reg) (a : Reg) (b : Reg) (m : BitVec 3) (s : State) : Out := vecUnit [.fp true .maxm d a b m] s
/-- `vcv.cvt` (R205). -/
def execVcvCvt (_l : Bool) (d : Reg) (a : Reg) (m : BitVec 3) (s : State) : Out := vecUnit [.cvt false d a m] s
/-- `vcv.cvts` (R205). -/
def execVcvCvts (_l : Bool) (d : Reg) (a : Reg) (m : BitVec 3) (s : State) : Out := vecUnit [.cvt true d a m] s
/-- `vcv.qnt` (R206). -/
def execVcvQnt (_l : Bool) (d : Reg) (a : Reg) (b : Reg) (m : BitVec 3) (s : State) : Out := vecUnit [.qnt d a b m] s
/-- `vcv.had` (R207). -/
def execVcvHad (_l : Bool) (d : Reg) (a : Reg) (i : Reg) (m : BitVec 3) (s : State) : Out := vecUnit [.had d a i m] s
/-- `vcv.hash` (R208). -/
def execVcvHash (_l : Bool) (d : Reg) (a : Reg) (b : Reg) (m : BitVec 3) (s : State) : Out := vecUnit [.hash d a b m] s
/-- `vcv.iota` (R208). -/
def execVcvIota (_l : Bool) (d : Reg) (b : Reg) (m : BitVec 3) (s : State) : Out := vecUnit [.iota d b m] s
/-- `vp.slup` (R210). -/
def execVpSlup (_l : Bool) (d : Reg) (a : Reg) (b : Reg) (m : BitVec 3) (s : State) : Out := vecUnit [.perm .slup d a b m] s
/-- `vp.sldn` (R210). -/
def execVpSldn (_l : Bool) (d : Reg) (a : Reg) (b : Reg) (m : BitVec 3) (s : State) : Out := vecUnit [.perm .sldn d a b m] s
/-- `vp.rgat` (R210). -/
def execVpRgat (_l : Bool) (d : Reg) (a : Reg) (b : Reg) (m : BitVec 3) (s : State) : Out := vecUnit [.perm .rgat d a b m] s
/-- `vp.cmpr` (R211). -/
def execVpCmpr (_l : Bool) (d : Reg) (a : Reg) (m : BitVec 3) (s : State) : Out := vecUnit [.perm .cmpr d a 0 m] s
/-- `vp.expd` (R211). -/
def execVpExpd (_l : Bool) (d : Reg) (a : Reg) (m : BitVec 3) (s : State) : Out := vecUnit [.perm .expd d a 0 m] s
/-- `vp.xchg` (R210). -/
def execVpXchg (_l : Bool) (d : Reg) (a : Reg) (i : Reg) (m : BitVec 3) (s : State) : Out := vecUnit [.perm .xchg d a i m] s
/-- `vp.sort` (R212). -/
def execVpSort (_l : Bool) (d : Reg) (a : Reg) (m : BitVec 3) (s : State) : Out := vecUnit [.perm .sort d a 0 m] s
/-- `vp.merge` (R212). -/
def execVpMerge (_l : Bool) (d : Reg) (a : Reg) (b : Reg) (m : BitVec 3) (s : State) : Out := vecUnit [.perm .merge d a b m] s
/-- `vp.rsum` (R213). -/
def execVpRsum (_l : Bool) (d : Reg) (a : Reg) (b : Reg) (m : BitVec 3) (s : State) : Out := vecUnit [.perm .rsum d a b m] s
/-- `vp.rmax` (R213). -/
def execVpRmax (_l : Bool) (d : Reg) (a : Reg) (b : Reg) (m : BitVec 3) (s : State) : Out := vecUnit [.perm .rmax d a b m] s
/-- `vp.rmin` (R213). -/
def execVpRmin (_l : Bool) (d : Reg) (a : Reg) (b : Reg) (m : BitVec 3) (s : State) : Out := vecUnit [.perm .rmin d a b m] s
/-- `vp.rand` (R213). -/
def execVpRand (_l : Bool) (d : Reg) (a : Reg) (b : Reg) (m : BitVec 3) (s : State) : Out := vecUnit [.perm .rand d a b m] s
/-- `vp.ror` (R213). -/
def execVpRor (_l : Bool) (d : Reg) (a : Reg) (b : Reg) (m : BitVec 3) (s : State) : Out := vecUnit [.perm .ror d a b m] s
/-- `vp.frsum` (R213). -/
def execVpFrsum (_l : Bool) (d : Reg) (a : Reg) (b : Reg) (m : BitVec 3) (s : State) : Out := vecUnit [.perm .frsum d a b m] s
/-- `vp.frmax` (R213). -/
def execVpFrmax (_l : Bool) (d : Reg) (a : Reg) (b : Reg) (m : BitVec 3) (s : State) : Out := vecUnit [.perm .frmax d a b m] s
/-- `vp.frmin` (R213). -/
def execVpFrmin (_l : Bool) (d : Reg) (a : Reg) (b : Reg) (m : BitVec 3) (s : State) : Out := vecUnit [.perm .frmin d a b m] s
/-- `vp.scan` (R214). -/
def execVpScan (_l : Bool) (d : Reg) (a : Reg) (b : Reg) (m : BitVec 3) (s : State) : Out := vecUnit [.perm .scan d a b m] s
/-- `vp.fscan` (R214). -/
def execVpFscan (_l : Bool) (d : Reg) (a : Reg) (b : Reg) (m : BitVec 3) (s : State) : Out := vecUnit [.perm .fscan d a b m] s
/-- `vp.mand` (R215). -/
def execVpMand (_l : Bool) (d : Reg) (a : Reg) (b : Reg) (s : State) : Out := vecUnit [.perm .mand d a b 0] s
/-- `vp.mor` (R215). -/
def execVpMor (_l : Bool) (d : Reg) (a : Reg) (b : Reg) (s : State) : Out := vecUnit [.perm .mor d a b 0] s
/-- `vp.mxor` (R215). -/
def execVpMxor (_l : Bool) (d : Reg) (a : Reg) (b : Reg) (s : State) : Out := vecUnit [.perm .mxor d a b 0] s
/-- `vp.mnot` (R215). -/
def execVpMnot (_l : Bool) (d : Reg) (a : Reg) (s : State) : Out := vecUnit [.perm .mnot d a 0 0] s
/-- `vp.mpop` (R215). -/
def execVpMpop (_l : Bool) (d : Reg) (a : Reg) (s : State) : Out := vecUnit [.perm .mpop d a 0 0] s
/-- `vp.mffs` (R215). -/
def execVpMffs (_l : Bool) (d : Reg) (a : Reg) (s : State) : Out := vecUnit [.perm .mffs d a 0 0] s
/-- `vp.mfirst` (R215). -/
def execVpMfirst (_l : Bool) (d : Reg) (a : Reg) (s : State) : Out := vecUnit [.perm .mfirst d a 0 0] s
/-- `vp.bcast` (R210). -/
def execVpBcast (_l : Bool) (d : Reg) (a : Reg) (b : Reg) (m : BitVec 3) (s : State) : Out := vecUnit [.perm .bcast d a b m] s
/-- `vp.ext` (R210). -/
def execVpExt (_l : Bool) (d : Reg) (a : Reg) (b : Reg) (s : State) : Out := vecUnit [.perm .ext d a b 0] s
/-- `vp.insrt` (R210). -/
def execVpInsrt (_l : Bool) (d : Reg) (a : Reg) (b : Reg) (s : State) : Out := vecUnit [.perm .insrt d a b 0] s
/-- `vw.wmac` (R203). -/
def execVwWmac (_l : Bool) (d : Reg) (a : Reg) (b : Reg) (m : BitVec 3) (s : State) : Out := vecUnit [.wide .wmac d a b m] s
/-- `vw.wmacz` (R203). -/
def execVwWmacz (_l : Bool) (d : Reg) (a : Reg) (b : Reg) (m : BitVec 3) (s : State) : Out := vecUnit [.wide .wmacz d a b m] s
/-- `vw.wmacsz` (R203). -/
def execVwWmacsz (_l : Bool) (d : Reg) (a : Reg) (b : Reg) (m : BitVec 3) (s : State) : Out := vecUnit [.wide .wmacsz d a b m] s
/-- `vw.wadd` (R203). -/
def execVwWadd (_l : Bool) (d : Reg) (a : Reg) (b : Reg) (m : BitVec 3) (s : State) : Out := vecUnit [.wide .wadd d a b m] s
/-- `vw.waddz` (R203). -/
def execVwWaddz (_l : Bool) (d : Reg) (a : Reg) (b : Reg) (m : BitVec 3) (s : State) : Out := vecUnit [.wide .waddz d a b m] s
/-- `vw.wmul` (R203). -/
def execVwWmul (_l : Bool) (d : Reg) (a : Reg) (b : Reg) (m : BitVec 3) (s : State) : Out := vecUnit [.wide .wmul d a b m] s
/-- `vw.nsat` (R203). -/
def execVwNsat (_l : Bool) (d : Reg) (a : Reg) (m : BitVec 3) (s : State) : Out := vecUnit [.wide .nsat d a 0 m] s
/-- `vw.nsatz` (R203). -/
def execVwNsatz (_l : Bool) (d : Reg) (a : Reg) (m : BitVec 3) (s : State) : Out := vecUnit [.wide .nsatz d a 0 m] s
/-- `vw.nrshr` (R203). -/
def execVwNrshr (_l : Bool) (d : Reg) (a : Reg) (i : Reg) (m : BitVec 3) (s : State) : Out := vecUnit [.wide .nrshr d a i m] s
/-- `vld` (R220). -/
def execVld (_l : Bool) (d : Reg) (a : Reg) (x : Reg) (m : BitVec 3) (e : VMode) (n : BitVec 3) (o : VOrd) (s : State) : Out := vecUnit [.load ⟨d, a, x, m, e, n, o⟩] s
/-- `vst` (R222). -/
def execVst (_l : Bool) (d : Reg) (a : Reg) (x : Reg) (m : BitVec 3) (e : VMode) (n : BitVec 3) (o : VOrd) (s : State) : Out := vecUnit [.store ⟨d, a, x, m, e, n, o⟩] s
/-- `vlk.gl` (R228). -/
def execVlkGl (_l : Bool) (d : Reg) (a : Reg) (x : Reg) (m : BitVec 3) (s : State) : Out := vecUnit [.linkGet d a x m] s
/-- `vlk.sc` (R229). -/
def execVlkSc (_l : Bool) (d : Reg) (a : Reg) (x : Reg) (m : BitVec 3) (s : State) : Out := vecUnit [.linkPut d a x m] s
/-- `m.zero` (R245). -/
def execMZero (c : Bool) (s : State) : Out := vecUnit [.mzero c] s
/-- `m.opa` (R245). -/
def execMOpa (c : Bool) (a : Reg) (b : Reg) (s : State) : Out := vecUnit [.mop false c a b] s
/-- `m.ops` (R245). -/
def execMOps (c : Bool) (a : Reg) (b : Reg) (s : State) : Out := vecUnit [.mop true c a b] s
/-- `m.rdrow` (R246). -/
def execMRdrow (c : Bool) (a : Reg) (sd : Reg) (s : State) : Out := vecUnit [.mrdrow c a sd] s
/-- `m.wrrow` (R246). -/
def execMWrrow (c : Bool) (a : Reg) (sd : Reg) (s : State) : Out := vecUnit [.mwrrow c a sd] s
/-- `m.rdcol` (R246). -/
def execMRdcol (c : Bool) (a : Reg) (sd : Reg) (s : State) : Out := vecUnit [.mrdcol c a sd] s
/-- `m.st` (R247). -/
def execMSt (c : Bool) (sd : Reg) (s : State) : Out := vecUnit [.mst c sd] s
/-- `m.ld` (R247). -/
def execMLd (c : Bool) (sd : Reg) (s : State) : Out := vecUnit [.mld c sd] s
/-- `mt.mul` (R248). -/
def execMtMul (t : BitVec 2) (c : Bool) (a : Reg) (b : Reg) (sd : Reg) (q : BitVec 3) (s : State) : Out := vecUnit [.mmul t c a b sd q] s
/-- A convoy (R34, R178). -/
def execConvoy (ws : List CWord) (s : State) : Out := vecUnit ws s

end Sys2Proof.Machine
end

