-- ==== Sys2Proof/Machine/Dispatch.lean ====
section
/-!
DEFINITION. Sys2Proof/Machine/Dispatch.lean: one arm per instruction and event, each a call of its meaning.
-/

namespace Sys2Proof.Machine

open Sys2Proof

/-- What an instruction or an event does. -/
def exec (i : Instr) (s : State) : Host.Outcome State Fault Refusal :=
  match i with
  | .kNop => Sys2Proof.Machine.execKNop s
  | .kTrap c => Sys2Proof.Machine.execKTrap c s
  | .kBrk => Sys2Proof.Machine.execKBrk s
  | .kEret => Sys2Proof.Machine.execKEret s
  | .kWfi => Sys2Proof.Machine.execKWfi s
  | .kEnd => Sys2Proof.Machine.execKEnd s
  | .kClaim => Sys2Proof.Machine.execKClaim s
  | .kFence sd t => Sys2Proof.Machine.execKFence sd t s
  | .kLaunch d a => Sys2Proof.Machine.execKLaunch d a s
  | .kEgress d a => Sys2Proof.Machine.execKEgress d a s
  | .kYield a => Sys2Proof.Machine.execKYield a s
  | .kcRw d a c => Sys2Proof.Machine.execKcRw d a c s
  | .kcRs d a c => Sys2Proof.Machine.execKcRs d a c s
  | .kcRc d a c => Sys2Proof.Machine.execKcRc d a c s
  | .kcR d c => Sys2Proof.Machine.execKcR d c s
  | .aAdd d a b => Sys2Proof.Machine.execAAdd d a b s
  | .aSub d a b => Sys2Proof.Machine.execASub d a b s
  | .aAnd d a b => Sys2Proof.Machine.execAAnd d a b s
  | .aOr d a b => Sys2Proof.Machine.execAOr d a b s
  | .aXor d a b => Sys2Proof.Machine.execAXor d a b s
  | .aShl d a b => Sys2Proof.Machine.execAShl d a b s
  | .aShr d a b => Sys2Proof.Machine.execAShr d a b s
  | .aSra d a b => Sys2Proof.Machine.execASra d a b s
  | .aSlt d a b => Sys2Proof.Machine.execASlt d a b s
  | .aSltz d a b => Sys2Proof.Machine.execASltz d a b s
  | .aMin d a b => Sys2Proof.Machine.execAMin d a b s
  | .aMax d a b => Sys2Proof.Machine.execAMax d a b s
  | .aMinz d a b => Sys2Proof.Machine.execAMinz d a b s
  | .aMaxz d a b => Sys2Proof.Machine.execAMaxz d a b s
  | .aMul d a b => Sys2Proof.Machine.execAMul d a b s
  | .aMulh d a b => Sys2Proof.Machine.execAMulh d a b s
  | .aMulhz d a b => Sys2Proof.Machine.execAMulhz d a b s
  | .aDiv d a b => Sys2Proof.Machine.execADiv d a b s
  | .aDivz d a b => Sys2Proof.Machine.execADivz d a b s
  | .aRem d a b => Sys2Proof.Machine.execARem d a b s
  | .aRemz d a b => Sys2Proof.Machine.execARemz d a b s
  | .aClz d a => Sys2Proof.Machine.execAClz d a s
  | .aCtz d a => Sys2Proof.Machine.execACtz d a s
  | .aPop d a => Sys2Proof.Machine.execAPop d a s
  | .aAddw d a b => Sys2Proof.Machine.execAAddw d a b s
  | .aSubw d a b => Sys2Proof.Machine.execASubw d a b s
  | .aSext d a w => Sys2Proof.Machine.execASext d a w s
  | .aZext d a w => Sys2Proof.Machine.execAZext d a w s
  | .sAdd d a b => Sys2Proof.Machine.execSAdd d a b s
  | .sSub d a b => Sys2Proof.Machine.execSSub d a b s
  | .sAnd d a b => Sys2Proof.Machine.execSAnd d a b s
  | .sOr d a b => Sys2Proof.Machine.execSOr d a b s
  | .sXor d a b => Sys2Proof.Machine.execSXor d a b s
  | .sShl d a b => Sys2Proof.Machine.execSShl d a b s
  | .sShr d a b => Sys2Proof.Machine.execSShr d a b s
  | .sSra d a b => Sys2Proof.Machine.execSSra d a b s
  | .sSlt d a b => Sys2Proof.Machine.execSSlt d a b s
  | .sSltz d a b => Sys2Proof.Machine.execSSltz d a b s
  | .sMin d a b => Sys2Proof.Machine.execSMin d a b s
  | .sMax d a b => Sys2Proof.Machine.execSMax d a b s
  | .sMinz d a b => Sys2Proof.Machine.execSMinz d a b s
  | .sMaxz d a b => Sys2Proof.Machine.execSMaxz d a b s
  | .sMul d a b => Sys2Proof.Machine.execSMul d a b s
  | .sMulh d a b => Sys2Proof.Machine.execSMulh d a b s
  | .sMulhz d a b => Sys2Proof.Machine.execSMulhz d a b s
  | .sDiv d a b => Sys2Proof.Machine.execSDiv d a b s
  | .sDivz d a b => Sys2Proof.Machine.execSDivz d a b s
  | .sRem d a b => Sys2Proof.Machine.execSRem d a b s
  | .sRemz d a b => Sys2Proof.Machine.execSRemz d a b s
  | .sClz d a => Sys2Proof.Machine.execSClz d a s
  | .sCtz d a => Sys2Proof.Machine.execSCtz d a s
  | .sPop d a => Sys2Proof.Machine.execSPop d a s
  | .sAddw d a b => Sys2Proof.Machine.execSAddw d a b s
  | .sSubw d a b => Sys2Proof.Machine.execSSubw d a b s
  | .sSext d a w => Sys2Proof.Machine.execSSext d a w s
  | .sZext d a w => Sys2Proof.Machine.execSZext d a w s
  | .sBqeq a b => Sys2Proof.Machine.execSBqeq a b s
  | .sBqne a b => Sys2Proof.Machine.execSBqne a b s
  | .sBqlt a b => Sys2Proof.Machine.execSBqlt a b s
  | .sBqge a b => Sys2Proof.Machine.execSBqge a b s
  | .sBqltz a b => Sys2Proof.Machine.execSBqltz a b s
  | .sBqgez a b => Sys2Proof.Machine.execSBqgez a b s
  | .aiAdd d a imm => Sys2Proof.Machine.execAiAdd d a imm s
  | .aiAnd d a imm => Sys2Proof.Machine.execAiAnd d a imm s
  | .aiOr d a imm => Sys2Proof.Machine.execAiOr d a imm s
  | .aiXor d a imm => Sys2Proof.Machine.execAiXor d a imm s
  | .aiShl d a c => Sys2Proof.Machine.execAiShl d a c s
  | .aiShr d a c => Sys2Proof.Machine.execAiShr d a c s
  | .aiSra d a c => Sys2Proof.Machine.execAiSra d a c s
  | .aiSlt d a imm => Sys2Proof.Machine.execAiSlt d a imm s
  | .aiSltz d a imm => Sys2Proof.Machine.execAiSltz d a imm s
  | .aiMul d a imm => Sys2Proof.Machine.execAiMul d a imm s
  | .siAdd d a imm => Sys2Proof.Machine.execSiAdd d a imm s
  | .siAnd d a imm => Sys2Proof.Machine.execSiAnd d a imm s
  | .siOr d a imm => Sys2Proof.Machine.execSiOr d a imm s
  | .siXor d a imm => Sys2Proof.Machine.execSiXor d a imm s
  | .siShl d a c => Sys2Proof.Machine.execSiShl d a c s
  | .siShr d a c => Sys2Proof.Machine.execSiShr d a c s
  | .siSra d a c => Sys2Proof.Machine.execSiSra d a c s
  | .siSlt d a imm => Sys2Proof.Machine.execSiSlt d a imm s
  | .siSltz d a imm => Sys2Proof.Machine.execSiSltz d a imm s
  | .siMul d a imm => Sys2Proof.Machine.execSiMul d a imm s
  | .ins d sd q imm => Sys2Proof.Machine.execIns d sd q imm s
  | .ld d a w q o imm => Sys2Proof.Machine.execLd d a w q o imm s
  | .st d a w q o imm => Sys2Proof.Machine.execSt d a w q o imm s
  | .lkLl d a => Sys2Proof.Machine.execLkLl d a s
  | .lkSc d a b => Sys2Proof.Machine.execLkSc d a b s
  | .lkLl32 d a => Sys2Proof.Machine.execLkLl32 d a s
  | .lkSc32 d a b => Sys2Proof.Machine.execLkSc32 d a b s
  | .bEq a b n d => Sys2Proof.Machine.execBEq a b n d s
  | .bNe a b n d => Sys2Proof.Machine.execBNe a b n d s
  | .bLt a b n d => Sys2Proof.Machine.execBLt a b n d s
  | .bGe a b n d => Sys2Proof.Machine.execBGe a b n d s
  | .bLtz a b n d => Sys2Proof.Machine.execBLtz a b n d s
  | .bGez a b n d => Sys2Proof.Machine.execBGez a b n d s
  | .bqT n d => Sys2Proof.Machine.execBqT n d s
  | .bqF n d => Sys2Proof.Machine.execBqF n d s
  | .j n d => Sys2Proof.Machine.execJ n d s
  | .jal n d => Sys2Proof.Machine.execJal n d s
  | .jr d a => Sys2Proof.Machine.execJr d a s
  | .xStoa a => Sys2Proof.Machine.execXStoa a s
  | .xAfroms d => Sys2Proof.Machine.execXAfroms d s
  | .xAtoe a => Sys2Proof.Machine.execXAtoe a s
  | .xSfrome d => Sys2Proof.Machine.execXSfrome d s
  | .xSpush a => Sys2Proof.Machine.execXSpush a s
  | .xDrain m => Sys2Proof.Machine.execXDrain m s
  | .sfAdd d a b t => Sys2Proof.Machine.execSfAdd d a b t s
  | .sfSub d a b t => Sys2Proof.Machine.execSfSub d a b t s
  | .sfMul d a b t => Sys2Proof.Machine.execSfMul d a b t s
  | .sfDiv d a b t => Sys2Proof.Machine.execSfDiv d a b t s
  | .sfSqrt d a t => Sys2Proof.Machine.execSfSqrt d a t s
  | .sfMin d a b t => Sys2Proof.Machine.execSfMin d a b t s
  | .sfMax d a b t => Sys2Proof.Machine.execSfMax d a b t s
  | .sfFma d a b t => Sys2Proof.Machine.execSfFma d a b t s
  | .sfCvfi d a t => Sys2Proof.Machine.execSfCvfi d a t s
  | .sfCvif d a t => Sys2Proof.Machine.execSfCvif d a t s
  | .sfCvff d a t => Sys2Proof.Machine.execSfCvff d a t s
  | .sfLt d a b t => Sys2Proof.Machine.execSfLt d a b t s
  | .sfEq d a b t => Sys2Proof.Machine.execSfEq d a b t s
  | .sfLe d a b t => Sys2Proof.Machine.execSfLe d a b t s
  | .vcSetvl d a b => Sys2Proof.Machine.execVcSetvl d a b s
  | .vcSetvlmax d b => Sys2Proof.Machine.execVcSetvlmax d b s
  | .vAdd l d a b m => Sys2Proof.Machine.execVAdd l d a b m s
  | .vSub l d a b m => Sys2Proof.Machine.execVSub l d a b m s
  | .vRsub l d a b m => Sys2Proof.Machine.execVRsub l d a b m s
  | .vMul l d a b m => Sys2Proof.Machine.execVMul l d a b m s
  | .vMulh l d a b m => Sys2Proof.Machine.execVMulh l d a b m s
  | .vMulhz l d a b m => Sys2Proof.Machine.execVMulhz l d a b m s
  | .vMac l d a b m => Sys2Proof.Machine.execVMac l d a b m s
  | .vNmac l d a b m => Sys2Proof.Machine.execVNmac l d a b m s
  | .vAnd l d a b m => Sys2Proof.Machine.execVAnd l d a b m s
  | .vOr l d a b m => Sys2Proof.Machine.execVOr l d a b m s
  | .vXor l d a b m => Sys2Proof.Machine.execVXor l d a b m s
  | .vShl l d a b m => Sys2Proof.Machine.execVShl l d a b m s
  | .vShr l d a b m => Sys2Proof.Machine.execVShr l d a b m s
  | .vSra l d a b m => Sys2Proof.Machine.execVSra l d a b m s
  | .vRshr l d a b m => Sys2Proof.Machine.execVRshr l d a b m s
  | .vRshre l d a b m => Sys2Proof.Machine.execVRshre l d a b m s
  | .vMin l d a b m => Sys2Proof.Machine.execVMin l d a b m s
  | .vMax l d a b m => Sys2Proof.Machine.execVMax l d a b m s
  | .vMinz l d a b m => Sys2Proof.Machine.execVMinz l d a b m s
  | .vMaxz l d a b m => Sys2Proof.Machine.execVMaxz l d a b m s
  | .vAbs l d a m => Sys2Proof.Machine.execVAbs l d a m s
  | .vAvg l d a b m => Sys2Proof.Machine.execVAvg l d a b m s
  | .vDiv l d a b m => Sys2Proof.Machine.execVDiv l d a b m s
  | .vDivz l d a b m => Sys2Proof.Machine.execVDivz l d a b m s
  | .vRem l d a b m => Sys2Proof.Machine.execVRem l d a b m s
  | .vRemz l d a b m => Sys2Proof.Machine.execVRemz l d a b m s
  | .vCmpeq l d a b m => Sys2Proof.Machine.execVCmpeq l d a b m s
  | .vCmpne l d a b m => Sys2Proof.Machine.execVCmpne l d a b m s
  | .vCmplt l d a b m => Sys2Proof.Machine.execVCmplt l d a b m s
  | .vCmple l d a b m => Sys2Proof.Machine.execVCmple l d a b m s
  | .vCmpltz l d a b m => Sys2Proof.Machine.execVCmpltz l d a b m s
  | .vCmplez l d a b m => Sys2Proof.Machine.execVCmplez l d a b m s
  | .vSel l d a b m => Sys2Proof.Machine.execVSel l d a b m s
  | .vMv l d a m => Sys2Proof.Machine.execVMv l d a m s
  | .vClz l d a m => Sys2Proof.Machine.execVClz l d a m s
  | .vPop l d a m => Sys2Proof.Machine.execVPop l d a m s
  | .vsAdd l d a b m => Sys2Proof.Machine.execVsAdd l d a b m s
  | .vsSub l d a b m => Sys2Proof.Machine.execVsSub l d a b m s
  | .vsRsub l d a b m => Sys2Proof.Machine.execVsRsub l d a b m s
  | .vsMul l d a b m => Sys2Proof.Machine.execVsMul l d a b m s
  | .vsMulh l d a b m => Sys2Proof.Machine.execVsMulh l d a b m s
  | .vsMulhz l d a b m => Sys2Proof.Machine.execVsMulhz l d a b m s
  | .vsMac l d a b m => Sys2Proof.Machine.execVsMac l d a b m s
  | .vsNmac l d a b m => Sys2Proof.Machine.execVsNmac l d a b m s
  | .vsAnd l d a b m => Sys2Proof.Machine.execVsAnd l d a b m s
  | .vsOr l d a b m => Sys2Proof.Machine.execVsOr l d a b m s
  | .vsXor l d a b m => Sys2Proof.Machine.execVsXor l d a b m s
  | .vsShl l d a b m => Sys2Proof.Machine.execVsShl l d a b m s
  | .vsShr l d a b m => Sys2Proof.Machine.execVsShr l d a b m s
  | .vsSra l d a b m => Sys2Proof.Machine.execVsSra l d a b m s
  | .vsRshr l d a b m => Sys2Proof.Machine.execVsRshr l d a b m s
  | .vsRshre l d a b m => Sys2Proof.Machine.execVsRshre l d a b m s
  | .vsMin l d a b m => Sys2Proof.Machine.execVsMin l d a b m s
  | .vsMax l d a b m => Sys2Proof.Machine.execVsMax l d a b m s
  | .vsMinz l d a b m => Sys2Proof.Machine.execVsMinz l d a b m s
  | .vsMaxz l d a b m => Sys2Proof.Machine.execVsMaxz l d a b m s
  | .vsAvg l d a b m => Sys2Proof.Machine.execVsAvg l d a b m s
  | .vsDiv l d a b m => Sys2Proof.Machine.execVsDiv l d a b m s
  | .vsDivz l d a b m => Sys2Proof.Machine.execVsDivz l d a b m s
  | .vsRem l d a b m => Sys2Proof.Machine.execVsRem l d a b m s
  | .vsRemz l d a b m => Sys2Proof.Machine.execVsRemz l d a b m s
  | .vsCmpeq l d a b m => Sys2Proof.Machine.execVsCmpeq l d a b m s
  | .vsCmpne l d a b m => Sys2Proof.Machine.execVsCmpne l d a b m s
  | .vsCmplt l d a b m => Sys2Proof.Machine.execVsCmplt l d a b m s
  | .vsCmple l d a b m => Sys2Proof.Machine.execVsCmple l d a b m s
  | .vsCmpltz l d a b m => Sys2Proof.Machine.execVsCmpltz l d a b m s
  | .vsCmplez l d a b m => Sys2Proof.Machine.execVsCmplez l d a b m s
  | .vsSel l d a b m => Sys2Proof.Machine.execVsSel l d a b m s
  | .vsMv l d b m => Sys2Proof.Machine.execVsMv l d b m s
  | .viAdd l d a imm m => Sys2Proof.Machine.execViAdd l d a imm m s
  | .viSub l d a imm m => Sys2Proof.Machine.execViSub l d a imm m s
  | .viRsub l d a imm m => Sys2Proof.Machine.execViRsub l d a imm m s
  | .viMul l d a imm m => Sys2Proof.Machine.execViMul l d a imm m s
  | .viMulh l d a imm m => Sys2Proof.Machine.execViMulh l d a imm m s
  | .viMulhz l d a imm m => Sys2Proof.Machine.execViMulhz l d a imm m s
  | .viMac l d a imm m => Sys2Proof.Machine.execViMac l d a imm m s
  | .viNmac l d a imm m => Sys2Proof.Machine.execViNmac l d a imm m s
  | .viAnd l d a imm m => Sys2Proof.Machine.execViAnd l d a imm m s
  | .viOr l d a imm m => Sys2Proof.Machine.execViOr l d a imm m s
  | .viXor l d a imm m => Sys2Proof.Machine.execViXor l d a imm m s
  | .viShl l d a imm m => Sys2Proof.Machine.execViShl l d a imm m s
  | .viShr l d a imm m => Sys2Proof.Machine.execViShr l d a imm m s
  | .viSra l d a imm m => Sys2Proof.Machine.execViSra l d a imm m s
  | .viRshr l d a imm m => Sys2Proof.Machine.execViRshr l d a imm m s
  | .viRshre l d a imm m => Sys2Proof.Machine.execViRshre l d a imm m s
  | .viMin l d a imm m => Sys2Proof.Machine.execViMin l d a imm m s
  | .viMax l d a imm m => Sys2Proof.Machine.execViMax l d a imm m s
  | .viMinz l d a imm m => Sys2Proof.Machine.execViMinz l d a imm m s
  | .viMaxz l d a imm m => Sys2Proof.Machine.execViMaxz l d a imm m s
  | .viAvg l d a imm m => Sys2Proof.Machine.execViAvg l d a imm m s
  | .viDiv l d a imm m => Sys2Proof.Machine.execViDiv l d a imm m s
  | .viDivz l d a imm m => Sys2Proof.Machine.execViDivz l d a imm m s
  | .viRem l d a imm m => Sys2Proof.Machine.execViRem l d a imm m s
  | .viRemz l d a imm m => Sys2Proof.Machine.execViRemz l d a imm m s
  | .viCmpeq l d a imm m => Sys2Proof.Machine.execViCmpeq l d a imm m s
  | .viCmpne l d a imm m => Sys2Proof.Machine.execViCmpne l d a imm m s
  | .viCmplt l d a imm m => Sys2Proof.Machine.execViCmplt l d a imm m s
  | .viCmple l d a imm m => Sys2Proof.Machine.execViCmple l d a imm m s
  | .viCmpltz l d a imm m => Sys2Proof.Machine.execViCmpltz l d a imm m s
  | .viCmplez l d a imm m => Sys2Proof.Machine.execViCmplez l d a imm m s
  | .viSel l d a imm m => Sys2Proof.Machine.execViSel l d a imm m s
  | .viMv l d imm m => Sys2Proof.Machine.execViMv l d imm m s
  | .vfAdd l d a b m => Sys2Proof.Machine.execVfAdd l d a b m s
  | .vfSub l d a b m => Sys2Proof.Machine.execVfSub l d a b m s
  | .vfMul l d a b m => Sys2Proof.Machine.execVfMul l d a b m s
  | .vfDiv l d a b m => Sys2Proof.Machine.execVfDiv l d a b m s
  | .vfFma l d a b m => Sys2Proof.Machine.execVfFma l d a b m s
  | .vfFms l d a b m => Sys2Proof.Machine.execVfFms l d a b m s
  | .vfFnma l d a b m => Sys2Proof.Machine.execVfFnma l d a b m s
  | .vfMin l d a b m => Sys2Proof.Machine.execVfMin l d a b m s
  | .vfMax l d a b m => Sys2Proof.Machine.execVfMax l d a b m s
  | .vfAbs l d a m => Sys2Proof.Machine.execVfAbs l d a m s
  | .vfNeg l d a m => Sys2Proof.Machine.execVfNeg l d a m s
  | .vfSqrt l d a m => Sys2Proof.Machine.execVfSqrt l d a m s
  | .vfRcpe l d a m => Sys2Proof.Machine.execVfRcpe l d a m s
  | .vfRsqe l d a m => Sys2Proof.Machine.execVfRsqe l d a m s
  | .vfExp2 l d a m => Sys2Proof.Machine.execVfExp2 l d a m s
  | .vfCmpeq l d a b m => Sys2Proof.Machine.execVfCmpeq l d a b m s
  | .vfCmplt l d a b m => Sys2Proof.Machine.execVfCmplt l d a b m s
  | .vfCmple l d a b m => Sys2Proof.Machine.execVfCmple l d a b m s
  | .vfClass l d a m => Sys2Proof.Machine.execVfClass l d a m s
  | .vfSgnj l d a b m => Sys2Proof.Machine.execVfSgnj l d a b m s
  | .vfMaxm l d a b m => Sys2Proof.Machine.execVfMaxm l d a b m s
  | .vfsAdd l d a b m => Sys2Proof.Machine.execVfsAdd l d a b m s
  | .vfsSub l d a b m => Sys2Proof.Machine.execVfsSub l d a b m s
  | .vfsMul l d a b m => Sys2Proof.Machine.execVfsMul l d a b m s
  | .vfsDiv l d a b m => Sys2Proof.Machine.execVfsDiv l d a b m s
  | .vfsFma l d a b m => Sys2Proof.Machine.execVfsFma l d a b m s
  | .vfsFms l d a b m => Sys2Proof.Machine.execVfsFms l d a b m s
  | .vfsFnma l d a b m => Sys2Proof.Machine.execVfsFnma l d a b m s
  | .vfsMin l d a b m => Sys2Proof.Machine.execVfsMin l d a b m s
  | .vfsMax l d a b m => Sys2Proof.Machine.execVfsMax l d a b m s
  | .vfsCmpeq l d a b m => Sys2Proof.Machine.execVfsCmpeq l d a b m s
  | .vfsCmplt l d a b m => Sys2Proof.Machine.execVfsCmplt l d a b m s
  | .vfsCmple l d a b m => Sys2Proof.Machine.execVfsCmple l d a b m s
  | .vfsSgnj l d a b m => Sys2Proof.Machine.execVfsSgnj l d a b m s
  | .vfsMaxm l d a b m => Sys2Proof.Machine.execVfsMaxm l d a b m s
  | .vcvCvt l d a m => Sys2Proof.Machine.execVcvCvt l d a m s
  | .vcvCvts l d a m => Sys2Proof.Machine.execVcvCvts l d a m s
  | .vcvQnt l d a b m => Sys2Proof.Machine.execVcvQnt l d a b m s
  | .vcvHad l d a imm m => Sys2Proof.Machine.execVcvHad l d a imm m s
  | .vcvHash l d a b m => Sys2Proof.Machine.execVcvHash l d a b m s
  | .vcvIota l d b m => Sys2Proof.Machine.execVcvIota l d b m s
  | .vpSlup l d a b m => Sys2Proof.Machine.execVpSlup l d a b m s
  | .vpSldn l d a b m => Sys2Proof.Machine.execVpSldn l d a b m s
  | .vpRgat l d a b m => Sys2Proof.Machine.execVpRgat l d a b m s
  | .vpCmpr l d a m => Sys2Proof.Machine.execVpCmpr l d a m s
  | .vpExpd l d a m => Sys2Proof.Machine.execVpExpd l d a m s
  | .vpXchg l d a imm m => Sys2Proof.Machine.execVpXchg l d a imm m s
  | .vpSort l d a m => Sys2Proof.Machine.execVpSort l d a m s
  | .vpMerge l d a b m => Sys2Proof.Machine.execVpMerge l d a b m s
  | .vpRsum l d a b m => Sys2Proof.Machine.execVpRsum l d a b m s
  | .vpRmax l d a b m => Sys2Proof.Machine.execVpRmax l d a b m s
  | .vpRmin l d a b m => Sys2Proof.Machine.execVpRmin l d a b m s
  | .vpRand l d a b m => Sys2Proof.Machine.execVpRand l d a b m s
  | .vpRor l d a b m => Sys2Proof.Machine.execVpRor l d a b m s
  | .vpFrsum l d a b m => Sys2Proof.Machine.execVpFrsum l d a b m s
  | .vpFrmax l d a b m => Sys2Proof.Machine.execVpFrmax l d a b m s
  | .vpFrmin l d a b m => Sys2Proof.Machine.execVpFrmin l d a b m s
  | .vpScan l d a b m => Sys2Proof.Machine.execVpScan l d a b m s
  | .vpFscan l d a b m => Sys2Proof.Machine.execVpFscan l d a b m s
  | .vpMand l d a b => Sys2Proof.Machine.execVpMand l d a b s
  | .vpMor l d a b => Sys2Proof.Machine.execVpMor l d a b s
  | .vpMxor l d a b => Sys2Proof.Machine.execVpMxor l d a b s
  | .vpMnot l d a => Sys2Proof.Machine.execVpMnot l d a s
  | .vpMpop l d a => Sys2Proof.Machine.execVpMpop l d a s
  | .vpMffs l d a => Sys2Proof.Machine.execVpMffs l d a s
  | .vpMfirst l d a => Sys2Proof.Machine.execVpMfirst l d a s
  | .vpBcast l d a b m => Sys2Proof.Machine.execVpBcast l d a b m s
  | .vpExt l d a b => Sys2Proof.Machine.execVpExt l d a b s
  | .vpInsrt l d a b => Sys2Proof.Machine.execVpInsrt l d a b s
  | .vwWmac l d a b m => Sys2Proof.Machine.execVwWmac l d a b m s
  | .vwWmacz l d a b m => Sys2Proof.Machine.execVwWmacz l d a b m s
  | .vwWmacsz l d a b m => Sys2Proof.Machine.execVwWmacsz l d a b m s
  | .vwWadd l d a b m => Sys2Proof.Machine.execVwWadd l d a b m s
  | .vwWaddz l d a b m => Sys2Proof.Machine.execVwWaddz l d a b m s
  | .vwWmul l d a b m => Sys2Proof.Machine.execVwWmul l d a b m s
  | .vwNsat l d a m => Sys2Proof.Machine.execVwNsat l d a m s
  | .vwNsatz l d a m => Sys2Proof.Machine.execVwNsatz l d a m s
  | .vwNrshr l d a imm m => Sys2Proof.Machine.execVwNrshr l d a imm m s
  | .vld l d a x m e n o => Sys2Proof.Machine.execVld l d a x m e n o s
  | .vst l d a x m e n o => Sys2Proof.Machine.execVst l d a x m e n o s
  | .vlkGl l d a x m => Sys2Proof.Machine.execVlkGl l d a x m s
  | .vlkSc l d a x m => Sys2Proof.Machine.execVlkSc l d a x m s
  | .mOn sd => Sys2Proof.Machine.execMOn sd s
  | .mOff => Sys2Proof.Machine.execMOff s
  | .mZero c => Sys2Proof.Machine.execMZero c s
  | .mOpa c a b => Sys2Proof.Machine.execMOpa c a b s
  | .mOps c a b => Sys2Proof.Machine.execMOps c a b s
  | .mRdrow c a sd => Sys2Proof.Machine.execMRdrow c a sd s
  | .mWrrow c a sd => Sys2Proof.Machine.execMWrrow c a sd s
  | .mRdcol c a sd => Sys2Proof.Machine.execMRdcol c a sd s
  | .mSt c sd => Sys2Proof.Machine.execMSt c sd s
  | .mLd c sd => Sys2Proof.Machine.execMLd c sd s
  | .mLdtab t sd => Sys2Proof.Machine.execMLdtab t sd s
  | .mtMul t c a b sd q => Sys2Proof.Machine.execMtMul t c a b sd q s
  | .cCopy a b c t p => Sys2Proof.Machine.execCCopy a b c t p s
  | .cGath a b c t p => Sys2Proof.Machine.execCGath a b c t p s
  | .cScat a b c t p => Sys2Proof.Machine.execCScat a b c t p s
  | .cXf a b c t p => Sys2Proof.Machine.execCXf a b c t p s
  | .cFill a b t p => Sys2Proof.Machine.execCFill a b t p s
  | .cWait t => Sys2Proof.Machine.execCWait t s
  | .cbSet a b => Sys2Proof.Machine.execCbSet a b s
  | .cbArr b => Sys2Proof.Machine.execCbArr b s
  | .cbWt b => Sys2Proof.Machine.execCbWt b s
  | .cbArw b => Sys2Proof.Machine.execCbArw b s
  | .cbSt d b => Sys2Proof.Machine.execCbSt d b s
  | .pBind d a => Sys2Proof.Machine.execPBind d a s
  | .pApp d a b m => Sys2Proof.Machine.execPApp d a b m s
  | .pLd d a b m l => Sys2Proof.Machine.execPLd d a b m l s
  | .pLds d a b l => Sys2Proof.Machine.execPLds d a b l s
  | .pInfo d a sd => Sys2Proof.Machine.execPInfo d a sd s
  | .pUnbind a => Sys2Proof.Machine.execPUnbind a s
  | .fColl d a => Sys2Proof.Machine.execFColl d a s
  | .fWait a => Sys2Proof.Machine.execFWait a s
  | .fTest d a => Sys2Proof.Machine.execFTest d a s
  | .wMark a b => Sys2Proof.Machine.execWMark a b s
  | .wInfo d => Sys2Proof.Machine.execWInfo d s
  | .hPf d a b => Sys2Proof.Machine.execHPf d a b s
  | .hPfs d a b => Sys2Proof.Machine.execHPfs d a b s
  | .hNop d a b fn => Sys2Proof.Machine.execHNop d a b fn s
  | .convoy ws => Sys2Proof.Machine.execConvoy ws s
  | .timerExpiry q => Sys2Proof.Machine.execTimerExpiry q s
  | .interrupt q => Sys2Proof.Machine.execInterrupt q s
  | .homeWriteAdmit q k => Sys2Proof.Machine.execHomeWriteAdmit q k s
  | .ringSpaceFreed p n => Sys2Proof.Machine.execRingSpaceFreed p n s
  | .matrixGrant c => Sys2Proof.Machine.execMatrixGrant c s
  | .engineRow c k => Sys2Proof.Machine.execEngineRow c k s
  | .engineComplete c k => Sys2Proof.Machine.execEngineComplete c k s
  | .engineFault c => Sys2Proof.Machine.execEngineFault c s
  | .launchFail p n cause => Sys2Proof.Machine.execLaunchFail p n cause s
  | .launchBind p => Sys2Proof.Machine.execLaunchBind p s
  | .bindNextWrite q w0 w1 w2 w3 => Sys2Proof.Machine.execBindNextWrite q w0 w1 w2 w3 s
  | .bindWithdraw q => Sys2Proof.Machine.execBindWithdraw q s
  | .bindAdvance q => Sys2Proof.Machine.execBindAdvance q s
  | .preloadCopyDone q => Sys2Proof.Machine.execPreloadCopyDone q s
  | .budgetExpiry q => Sys2Proof.Machine.execBudgetExpiry q s
  | .reclaimWaitExpiry q => Sys2Proof.Machine.execReclaimWaitExpiry q s
  | .markWaitExpiry p n => Sys2Proof.Machine.execMarkWaitExpiry p n s
  | .postReclaim q c => Sys2Proof.Machine.execPostReclaim q c s
  | .markRequest q => Sys2Proof.Machine.execMarkRequest q s
  | .clusterHalt c => Sys2Proof.Machine.execClusterHalt c s
  | .clusterHalted c => Sys2Proof.Machine.execClusterHalted c s
  | .cellarExchange c => Sys2Proof.Machine.execCellarExchange c s
  | .exchangeDone c => Sys2Proof.Machine.execExchangeDone c s
  | .discardShadow c => Sys2Proof.Machine.execDiscardShadow c s
  | .clusterResume c => Sys2Proof.Machine.execClusterResume c s
  | .launchResume p n => Sys2Proof.Machine.execLaunchResume p n s
  | .rollback p n => Sys2Proof.Machine.execRollback p n s
  | .logEngineFault d => Sys2Proof.Machine.execLogEngineFault d s
  | .debugStop p => Sys2Proof.Machine.execDebugStop p s
  | .debugHalted p => Sys2Proof.Machine.execDebugHalted p s
  | .debugResume p => Sys2Proof.Machine.execDebugResume p s
  | .debugRewind p force => Sys2Proof.Machine.execDebugRewind p force s
  | .debugReplay p => Sys2Proof.Machine.execDebugReplay p s
  | .replayCountReached p => Sys2Proof.Machine.execReplayCountReached p s
  | .debugStepback p force => Sys2Proof.Machine.execDebugStepback p force s
  | .tlbInvalidate d => Sys2Proof.Machine.execTlbInvalidate d s
  | .invalidationDone d => Sys2Proof.Machine.execInvalidationDone d s
  | .tableWalk q va => Sys2Proof.Machine.execTableWalk q va s
  | .linkTagEvict line => Sys2Proof.Machine.execLinkTagEvict line s
  | .lineFill pa => Sys2Proof.Machine.execLineFill pa s
  | .lineWriteback pa => Sys2Proof.Machine.execLineWriteback pa s
  | .broadcastPacket bytes => Sys2Proof.Machine.execBroadcastPacket bytes s
  | .d2dLinkLost => Sys2Proof.Machine.execD2dLinkLost s
  | .channelFailure stack ch => Sys2Proof.Machine.execChannelFailure stack ch s
  | .declareChannelFailed stack v => Sys2Proof.Machine.execDeclareChannelFailed stack v s
  | .refresh stack bank => Sys2Proof.Machine.execRefresh stack bank s
  | .patrolScrub pa => Sys2Proof.Machine.execPatrolScrub pa s
  | .rowRemap stack => Sys2Proof.Machine.execRowRemap stack s
  | .remapDone stack => Sys2Proof.Machine.execRemapDone stack s
  | .migrationStart stack => Sys2Proof.Machine.execMigrationStart stack s
  | .migrationPass stack => Sys2Proof.Machine.execMigrationPass stack s
  | .migrationFreeze stack => Sys2Proof.Machine.execMigrationFreeze stack s
  | .migrationMoved stack => Sys2Proof.Machine.execMigrationMoved stack s
  | .migrationFree stack => Sys2Proof.Machine.execMigrationFree stack s
  | .errorCounterClear pa => Sys2Proof.Machine.execErrorCounterClear pa s
  | .pyramidAssign q => Sys2Proof.Machine.execPyramidAssign q s
  | .pyramidSpanWrite desc lvl k => Sys2Proof.Machine.execPyramidSpanWrite desc lvl k s
  | .launchWindowWrite p off bytes => Sys2Proof.Machine.execLaunchWindowWrite p off bytes s
  | .lstatRead p w => Sys2Proof.Machine.execLstatRead p w s
  | .jtailWrite p v => Sys2Proof.Machine.execJtailWrite p v s
  | .doorbellWrite p v => Sys2Proof.Machine.execDoorbellWrite p v s
  | .attestationRequest p pa => Sys2Proof.Machine.execAttestationRequest p pa s
  | .attestationDone p => Sys2Proof.Machine.execAttestationDone p s
  | .registerWrite pa v sys => Sys2Proof.Machine.execRegisterWrite pa v sys s
  | .hostMemRead pa n => Sys2Proof.Machine.execHostMemRead pa n s
  | .hostMemWrite pa bytes => Sys2Proof.Machine.execHostMemWrite pa bytes s
  | .inboundRequest port flit => Sys2Proof.Machine.execInboundRequest port flit s
  | .peerReply port flit => Sys2Proof.Machine.execPeerReply port flit s
  | .collectiveData port flit => Sys2Proof.Machine.execCollectiveData port flit s
  | .flitAck port flit => Sys2Proof.Machine.execFlitAck port flit s
  | .portRetrain port lanes => Sys2Proof.Machine.execPortRetrain port lanes s
  | .portDown port => Sys2Proof.Machine.execPortDown port s
  | .linkUp port flit => Sys2Proof.Machine.execLinkUp port flit s
  | .retrainRequest port flit => Sys2Proof.Machine.execRetrainRequest port flit s
  | .collectiveFailedMsg port flit => Sys2Proof.Machine.execCollectiveFailedMsg port flit s
  | .peerLostMsg port flit => Sys2Proof.Machine.execPeerLostMsg port flit s
  | .peerTimeout port tag => Sys2Proof.Machine.execPeerTimeout port tag s
  | .collectiveComplete k => Sys2Proof.Machine.execCollectiveComplete k s
  | .collectiveFail k reason port => Sys2Proof.Machine.execCollectiveFail k reason port s
  | .reset => Sys2Proof.Machine.execReset s
  | .lifecycleTransition t => Sys2Proof.Machine.execLifecycleTransition t s
  | .thermalStep island => Sys2Proof.Machine.execThermalStep island s
  | .droopEvent monitor => Sys2Proof.Machine.execDroopEvent monitor s
  | .powerLimitStep => Sys2Proof.Machine.execPowerLimitStep s
  | .illegalInstruction bad w pos => Sys2Proof.Machine.execIllegalInstruction bad w pos s
  | .fetchFault cause va => Sys2Proof.Machine.execFetchFault cause va s
  | .partitionConfigWrite p off v => Sys2Proof.Machine.execPartitionConfigWrite p off v s
  | .interruptMaskWrite p v => Sys2Proof.Machine.execInterruptMaskWrite p v s
  | .cxlCacheResponse tag bytes => Sys2Proof.Machine.execCxlCacheResponse tag bytes s
  | .cxlSnoop hpa => Sys2Proof.Machine.execCxlSnoop hpa s
  | .backInvalidateResponse pa => Sys2Proof.Machine.execBackInvalidateResponse pa s

end Sys2Proof.Machine
end

