-- ==== Sys2Proof/Machine/Reads.lean ====
section
/-!
DEFINITION. Sys2Proof/Machine/Reads.lean: the s-registers that a unit reads. A unit that reads the register of an append block
whose first time has not arrived waits for it (05_sequencer.md R116, 17_pyramid.md R359).
-/

namespace Sys2Proof.Machine

open Sys2Proof

/-- `n` registers from `r` on. -/
def regRun (r : Reg) (n : Nat) : List Reg := (List.range n).map fun i => r + BitVec.ofNat 5 i

/-- The s-registers that a word of a convoy reads. -/
def CWord.sReads : CWord → List Reg
  | .int .vs _ _ _ b _ => [b]
  | .int .vv _ _ _ _ _ => []
  | .int .vi _ _ _ _ _ => []
  | .fp scalar _ _ _ b _ => if scalar then [b] else []
  | .cvt _ _ _ _ => []
  | .qnt _ _ b _ => [b]
  | .had _ _ _ _ => []
  | .hash _ _ _ _ => []
  | .iota _ b _ => [b]
  | .perm fn _ a b _ =>
    (match fn with
     | .mfirst => [a]
     | .insrt => [a, b]
     | .slup | .sldn | .rsum | .rmax | .rmin | .rand | .ror | .frsum | .frmax | .frmin | .scan | .fscan | .bcast | .ext => [b]
     | .rgat | .cmpr | .expd | .xchg | .sort | .merge | .mand | .mor | .mxor | .mnot | .mpop | .mffs => [])
  | .wide _ _ _ _ _ => []
  | .load _ => []
  | .store _ => []
  | .linkGet _ _ _ _ => []
  | .linkPut _ _ _ _ => []
  | .mzero _ => []
  | .mop _ _ _ _ => []
  | .mrdrow _ _ r => [r]
  | .mwrrow _ _ r => [r]
  | .mrdcol _ _ r => [r]
  | .mst _ r => regRun r 2
  | .mld _ r => regRun r 2
  | .mmul _ _ _ _ r _ => regRun r 5

/-- The s-registers that an instruction reads. -/
def Instr.sReads : Instr → List Reg
  | .kLaunch _ a => [a]
  | .kEgress _ a => [a]
  | .kYield a => [a]
  | .kcRw _ a _ => [a]
  | .kcRs _ a _ => [a]
  | .kcRc _ a _ => [a]
  | .sClz _ a => [a]
  | .sCtz _ a => [a]
  | .sPop _ a => [a]
  | .sSext _ a _ => [a]
  | .sZext _ a _ => [a]
  | .siAdd _ a _ => [a]
  | .siAnd _ a _ => [a]
  | .siOr _ a _ => [a]
  | .siXor _ a _ => [a]
  | .siShl _ a _ => [a]
  | .siShr _ a _ => [a]
  | .siSra _ a _ => [a]
  | .siSlt _ a _ => [a]
  | .siSltz _ a _ => [a]
  | .siMul _ a _ => [a]
  | .xStoa a => [a]
  | .xSpush a => [a]
  | .sfSqrt _ a _ => [a]
  | .sfCvfi _ a _ => [a]
  | .sfCvif _ a _ => [a]
  | .sfCvff _ a _ => [a]
  | .vpMfirst _ _ a => [a]
  | .cbSet a _ => [a]
  | .pBind _ a => [a]
  | .pApp _ a _ _ => [a]
  | .pLd _ a _ _ _ => [a]
  | .pInfo _ a _ => [a]
  | .pUnbind a => [a]
  | .fColl _ a => [a]
  | .fWait a => [a]
  | .fTest _ a => [a]
  | .sAdd _ a b => [a, b]
  | .sSub _ a b => [a, b]
  | .sAnd _ a b => [a, b]
  | .sOr _ a b => [a, b]
  | .sXor _ a b => [a, b]
  | .sShl _ a b => [a, b]
  | .sShr _ a b => [a, b]
  | .sSra _ a b => [a, b]
  | .sSlt _ a b => [a, b]
  | .sSltz _ a b => [a, b]
  | .sMin _ a b => [a, b]
  | .sMax _ a b => [a, b]
  | .sMinz _ a b => [a, b]
  | .sMaxz _ a b => [a, b]
  | .sMul _ a b => [a, b]
  | .sMulh _ a b => [a, b]
  | .sMulhz _ a b => [a, b]
  | .sDiv _ a b => [a, b]
  | .sDivz _ a b => [a, b]
  | .sRem _ a b => [a, b]
  | .sRemz _ a b => [a, b]
  | .sAddw _ a b => [a, b]
  | .sSubw _ a b => [a, b]
  | .sBqeq a b => [a, b]
  | .sBqne a b => [a, b]
  | .sBqlt a b => [a, b]
  | .sBqge a b => [a, b]
  | .sBqltz a b => [a, b]
  | .sBqgez a b => [a, b]
  | .sfAdd _ a b _ => [a, b]
  | .sfSub _ a b _ => [a, b]
  | .sfMul _ a b _ => [a, b]
  | .sfDiv _ a b _ => [a, b]
  | .sfMin _ a b _ => [a, b]
  | .sfMax _ a b _ => [a, b]
  | .sfLt _ a b _ => [a, b]
  | .sfEq _ a b _ => [a, b]
  | .sfLe _ a b _ => [a, b]
  | .vcSetvl _ a b => [a, b]
  | .vpInsrt _ _ a b => [a, b]
  | .cFill a b _ _ => [a, b]
  | .pLds _ a b _ => [a, b]
  | .wMark a b => [a, b]
  | .ins d side _ _ => if side then [d] else []
  | .sfFma d a b _ => [a, b, d]
  | .vcSetvlmax _ b => [b]
  | .vsAdd _ _ _ b _ => [b]
  | .vsSub _ _ _ b _ => [b]
  | .vsRsub _ _ _ b _ => [b]
  | .vsMul _ _ _ b _ => [b]
  | .vsMulh _ _ _ b _ => [b]
  | .vsMulhz _ _ _ b _ => [b]
  | .vsMac _ _ _ b _ => [b]
  | .vsNmac _ _ _ b _ => [b]
  | .vsAnd _ _ _ b _ => [b]
  | .vsOr _ _ _ b _ => [b]
  | .vsXor _ _ _ b _ => [b]
  | .vsShl _ _ _ b _ => [b]
  | .vsShr _ _ _ b _ => [b]
  | .vsSra _ _ _ b _ => [b]
  | .vsRshr _ _ _ b _ => [b]
  | .vsRshre _ _ _ b _ => [b]
  | .vsMin _ _ _ b _ => [b]
  | .vsMax _ _ _ b _ => [b]
  | .vsMinz _ _ _ b _ => [b]
  | .vsMaxz _ _ _ b _ => [b]
  | .vsAvg _ _ _ b _ => [b]
  | .vsDiv _ _ _ b _ => [b]
  | .vsDivz _ _ _ b _ => [b]
  | .vsRem _ _ _ b _ => [b]
  | .vsRemz _ _ _ b _ => [b]
  | .vsCmpeq _ _ _ b _ => [b]
  | .vsCmpne _ _ _ b _ => [b]
  | .vsCmplt _ _ _ b _ => [b]
  | .vsCmple _ _ _ b _ => [b]
  | .vsCmpltz _ _ _ b _ => [b]
  | .vsCmplez _ _ _ b _ => [b]
  | .vsSel _ _ _ b _ => [b]
  | .vsMv _ _ b _ => [b]
  | .vfsAdd _ _ _ b _ => [b]
  | .vfsSub _ _ _ b _ => [b]
  | .vfsMul _ _ _ b _ => [b]
  | .vfsDiv _ _ _ b _ => [b]
  | .vfsFma _ _ _ b _ => [b]
  | .vfsFms _ _ _ b _ => [b]
  | .vfsFnma _ _ _ b _ => [b]
  | .vfsMin _ _ _ b _ => [b]
  | .vfsMax _ _ _ b _ => [b]
  | .vfsCmpeq _ _ _ b _ => [b]
  | .vfsCmplt _ _ _ b _ => [b]
  | .vfsCmple _ _ _ b _ => [b]
  | .vfsSgnj _ _ _ b _ => [b]
  | .vfsMaxm _ _ _ b _ => [b]
  | .vcvQnt _ _ _ b _ => [b]
  | .vcvIota _ _ b _ => [b]
  | .vpSlup _ _ _ b _ => [b]
  | .vpSldn _ _ _ b _ => [b]
  | .vpRsum _ _ _ b _ => [b]
  | .vpRmax _ _ _ b _ => [b]
  | .vpRmin _ _ _ b _ => [b]
  | .vpRand _ _ _ b _ => [b]
  | .vpRor _ _ _ b _ => [b]
  | .vpFrsum _ _ _ b _ => [b]
  | .vpFrmax _ _ _ b _ => [b]
  | .vpFrmin _ _ _ b _ => [b]
  | .vpScan _ _ _ b _ => [b]
  | .vpFscan _ _ _ b _ => [b]
  | .vpBcast _ _ _ b _ => [b]
  | .vpExt _ _ _ b => [b]
  | .mOn r => [r]
  | .mRdrow _ _ r => [r]
  | .mWrrow _ _ r => [r]
  | .mRdcol _ _ r => [r]
  | .mLdtab _ r => [r]
  | .mSt _ r => regRun r 2
  | .mLd _ r => regRun r 2
  | .mtMul _ _ _ _ r _ => regRun r 5
  | .cCopy a b c _ _ => [a, b, c]
  | .cGath a b c _ _ => [a, b, c]
  | .cScat a b c _ _ => [a, b, c]
  | .cXf a b c _ _ => [a, b, c]
  | .convoy ws => (ws.map CWord.sReads).flatten
  | .kNop | .kTrap _ | .kBrk | .kEret | .kWfi | .kEnd | .kClaim | .kFence _ _ | .kcR _ _ | .aAdd _ _ _ | .aSub _ _ _
  | .aAnd _ _ _ | .aOr _ _ _ | .aXor _ _ _ | .aShl _ _ _ | .aShr _ _ _ | .aSra _ _ _ | .aSlt _ _ _ | .aSltz _ _ _
  | .aMin _ _ _ | .aMax _ _ _ | .aMinz _ _ _ | .aMaxz _ _ _ | .aMul _ _ _ | .aMulh _ _ _ | .aMulhz _ _ _
  | .aDiv _ _ _ | .aDivz _ _ _ | .aRem _ _ _ | .aRemz _ _ _ | .aClz _ _ | .aCtz _ _ | .aPop _ _ | .aAddw _ _ _
  | .aSubw _ _ _ | .aSext _ _ _ | .aZext _ _ _ | .aiAdd _ _ _ | .aiAnd _ _ _ | .aiOr _ _ _ | .aiXor _ _ _
  | .aiShl _ _ _ | .aiShr _ _ _ | .aiSra _ _ _ | .aiSlt _ _ _ | .aiSltz _ _ _ | .aiMul _ _ _ | .ld _ _ _ _ _ _
  | .st _ _ _ _ _ _ | .lkLl _ _ | .lkSc _ _ _ | .lkLl32 _ _ | .lkSc32 _ _ _ | .bEq _ _ _ _ | .bNe _ _ _ _
  | .bLt _ _ _ _ | .bGe _ _ _ _ | .bLtz _ _ _ _ | .bGez _ _ _ _ | .bqT _ _ | .bqF _ _ | .j _ _ | .jal _ _ | .jr _ _
  | .xAfroms _ | .xAtoe _ | .xSfrome _ | .xDrain _ | .vAdd _ _ _ _ _ | .vSub _ _ _ _ _ | .vRsub _ _ _ _ _
  | .vMul _ _ _ _ _ | .vMulh _ _ _ _ _ | .vMulhz _ _ _ _ _ | .vMac _ _ _ _ _ | .vNmac _ _ _ _ _ | .vAnd _ _ _ _ _
  | .vOr _ _ _ _ _ | .vXor _ _ _ _ _ | .vShl _ _ _ _ _ | .vShr _ _ _ _ _ | .vSra _ _ _ _ _ | .vRshr _ _ _ _ _
  | .vRshre _ _ _ _ _ | .vMin _ _ _ _ _ | .vMax _ _ _ _ _ | .vMinz _ _ _ _ _ | .vMaxz _ _ _ _ _ | .vAbs _ _ _ _
  | .vAvg _ _ _ _ _ | .vDiv _ _ _ _ _ | .vDivz _ _ _ _ _ | .vRem _ _ _ _ _ | .vRemz _ _ _ _ _ | .vCmpeq _ _ _ _ _
  | .vCmpne _ _ _ _ _ | .vCmplt _ _ _ _ _ | .vCmple _ _ _ _ _ | .vCmpltz _ _ _ _ _ | .vCmplez _ _ _ _ _
  | .vSel _ _ _ _ _ | .vMv _ _ _ _ | .vClz _ _ _ _ | .vPop _ _ _ _ | .viAdd _ _ _ _ _ | .viSub _ _ _ _ _
  | .viRsub _ _ _ _ _ | .viMul _ _ _ _ _ | .viMulh _ _ _ _ _ | .viMulhz _ _ _ _ _ | .viMac _ _ _ _ _
  | .viNmac _ _ _ _ _ | .viAnd _ _ _ _ _ | .viOr _ _ _ _ _ | .viXor _ _ _ _ _ | .viShl _ _ _ _ _ | .viShr _ _ _ _ _
  | .viSra _ _ _ _ _ | .viRshr _ _ _ _ _ | .viRshre _ _ _ _ _ | .viMin _ _ _ _ _ | .viMax _ _ _ _ _
  | .viMinz _ _ _ _ _ | .viMaxz _ _ _ _ _ | .viAvg _ _ _ _ _ | .viDiv _ _ _ _ _ | .viDivz _ _ _ _ _
  | .viRem _ _ _ _ _ | .viRemz _ _ _ _ _ | .viCmpeq _ _ _ _ _ | .viCmpne _ _ _ _ _ | .viCmplt _ _ _ _ _
  | .viCmple _ _ _ _ _ | .viCmpltz _ _ _ _ _ | .viCmplez _ _ _ _ _ | .viSel _ _ _ _ _ | .viMv _ _ _ _
  | .vfAdd _ _ _ _ _ | .vfSub _ _ _ _ _ | .vfMul _ _ _ _ _ | .vfDiv _ _ _ _ _ | .vfFma _ _ _ _ _ | .vfFms _ _ _ _ _
  | .vfFnma _ _ _ _ _ | .vfMin _ _ _ _ _ | .vfMax _ _ _ _ _ | .vfAbs _ _ _ _ | .vfNeg _ _ _ _ | .vfSqrt _ _ _ _
  | .vfRcpe _ _ _ _ | .vfRsqe _ _ _ _ | .vfExp2 _ _ _ _ | .vfCmpeq _ _ _ _ _ | .vfCmplt _ _ _ _ _
  | .vfCmple _ _ _ _ _ | .vfClass _ _ _ _ | .vfSgnj _ _ _ _ _ | .vfMaxm _ _ _ _ _ | .vcvCvt _ _ _ _
  | .vcvCvts _ _ _ _ | .vcvHad _ _ _ _ _ | .vcvHash _ _ _ _ _ | .vpRgat _ _ _ _ _ | .vpCmpr _ _ _ _ | .vpExpd _ _ _ _
  | .vpXchg _ _ _ _ _ | .vpSort _ _ _ _ | .vpMerge _ _ _ _ _ | .vpMand _ _ _ _ | .vpMor _ _ _ _ | .vpMxor _ _ _ _
  | .vpMnot _ _ _ | .vpMpop _ _ _ | .vpMffs _ _ _ | .vwWmac _ _ _ _ _ | .vwWmacz _ _ _ _ _ | .vwWmacsz _ _ _ _ _
  | .vwWadd _ _ _ _ _ | .vwWaddz _ _ _ _ _ | .vwWmul _ _ _ _ _ | .vwNsat _ _ _ _ | .vwNsatz _ _ _ _
  | .vwNrshr _ _ _ _ _ | .vld _ _ _ _ _ _ _ _ | .vst _ _ _ _ _ _ _ _ | .vlkGl _ _ _ _ _ | .vlkSc _ _ _ _ _ | .mOff
  | .mZero _ | .mOpa _ _ _ | .mOps _ _ _ | .cWait _ | .cbArr _ | .cbWt _ | .cbArw _ | .cbSt _ _ | .wInfo _
  | .hPf _ _ _ | .hPfs _ _ _ | .hNop _ _ _ _ | .timerExpiry _ | .interrupt _ | .homeWriteAdmit _ _
  | .ringSpaceFreed _ _ | .matrixGrant _ | .engineRow _ _ | .engineComplete _ _ | .engineFault _ | .launchFail _ _ _
  | .launchBind _ | .bindNextWrite _ _ _ _ _ | .bindWithdraw _ | .bindAdvance _ | .preloadCopyDone _
  | .budgetExpiry _ | .reclaimWaitExpiry _ | .markWaitExpiry _ _ | .postReclaim _ _ | .markRequest _ | .clusterHalt _
  | .clusterHalted _ | .cellarExchange _ | .exchangeDone _ | .discardShadow _ | .clusterResume _ | .launchResume _ _
  | .rollback _ _ | .logEngineFault _ | .debugStop _ | .debugHalted _ | .debugResume _ | .debugRewind _ _
  | .debugReplay _ | .replayCountReached _ | .debugStepback _ _ | .tlbInvalidate _ | .invalidationDone _
  | .tableWalk _ _ | .linkTagEvict _ | .lineFill _ | .lineWriteback _ | .broadcastPacket _ | .d2dLinkLost
  | .channelFailure _ _ | .declareChannelFailed _ _ | .refresh _ _ | .patrolScrub _ | .rowRemap _ | .remapDone _
  | .migrationStart _ | .migrationPass _ | .migrationFreeze _ | .migrationMoved _ | .migrationFree _
  | .errorCounterClear _ | .pyramidAssign _ | .pyramidSpanWrite _ _ _ | .launchWindowWrite _ _ _ | .lstatRead _ _
  | .jtailWrite _ _ | .doorbellWrite _ _ | .attestationRequest _ _ | .attestationDone _ | .registerWrite _ _ _
  | .hostMemRead _ _ | .hostMemWrite _ _ | .inboundRequest _ _ | .peerReply _ _ | .collectiveData _ _ | .flitAck _ _
  | .portRetrain _ _ | .portDown _ | .linkUp _ _ | .retrainRequest _ _ | .collectiveFailedMsg _ _ | .peerLostMsg _ _
  | .peerTimeout _ _ | .collectiveComplete _ | .collectiveFail _ _ _ | .reset | .lifecycleTransition _
  | .thermalStep _ | .droopEvent _ | .powerLimitStep | .illegalInstruction _ _ _ | .fetchFault _ _
  | .partitionConfigWrite _ _ _ | .interruptMaskWrite _ _ | .cxlCacheResponse _ _ | .cxlSnoop _
  | .backInvalidateResponse _ => []

/-- Whether a unit reads the register of an append block whose time has not arrived (R359, log 92). -/
def State.blockedByAppend (s : State) (q : Nat) (i : Instr) : Bool :=
  (s.seq q).appends.any fun e => e.reg != 0 && (Instr.sReads i).contains e.reg

end Sys2Proof.Machine
end

