-- ==== Sys2Proof/Machine/Upsets.lean ====
section
/-!
DEFINITION. Sys2Proof/Machine/Upsets.lean: hardware errors and what the unit they strike makes of each (08_core.md R181; 11_matrix.md
R256; 12_cluster.md R285, R286; 14_die.md R292, R315; 15_package_memory.md R322, R332, R333).
-/

namespace Sys2Proof.Machine

open Sys2Proof

/-! ### The die caches (R292) -/

/-- A double-bit error in a sector of a die cache: a clean one is dropped and fetched again, a dirty one is poisoned. -/
def State.strikeSector (s : State) (k : Nat) : State :=
  let o := FMap.get ({} : LineState) s.lines (k / 4)
  if !o.valid.getLsbD (k % 4) then s
  else
    let s := s.countDie (homeDie (32 * k)) 0x08
    if o.dirty.getLsbD (k % 4) then s.poisonSectors k 1
    else { s with lines := FMap.set {} s.lines (k / 4) { o with valid := o.valid &&& ~~~ BitVec.ofNat 4 (2 ^ (k % 4)) } }

/-- A tag parity error: the line goes, its dirty sectors written back poisoned, and its link tag with it. -/
def State.strikeTag (s : State) (line : Nat) : State :=
  match FMap.find? s.lines line with
  | none => s
  | some o =>
    let s := s.countDie (homeDie (128 * line)) 0x08
    let s := (bitsSet 0 4 o.dirty.toNat).foldl (fun (s : State) k => s.poisonSectors (4 * line + k) 1) s
    (s.writeBack line).dropLine line

/-! ### Scratchpads, region words and barriers (R285, R286) -/

/-- Changes the scratchpad side of a cluster, or the Cellar's copy of it. -/
def State.modCopy (s : State) (c : Nat) (held : Bool) (f : Pad → Pad) : State :=
  if held then s.modCluster c fun k => { k with shadow := k.shadow.map fun (h : Shadow) => { h with pad := f h.pad } }
  else s.modPad c f

/-- A region word without its lines: the region is invalid (R266). -/
def regionDead (w : Word) : Word := w &&& ~~~ 0x7FF800

/-- A scratchpad with a poisoned unit. -/
def Pad.strikeUnit (p : Pad) (u : Nat) : Pad := { p with spPois := FMap.set false p.spPois (u % 131072) true }
/-- A scratchpad with a lost region word. -/
def Pad.strikeRegion (p : Pad) (k : Nat) : Pad := { p with region := FMap.set 0 p.region (k % 16) (regionDead (p.regionWord (k % 16))) }
/-- A lost barrier completes a phase with its error bit. -/
def Pad.strikeBarrier (p : Pad) (b : Nat) : Pad :=
  { p with barrier := FMap.set {} p.barrier (b % 32) ((FMap.get ({} : Barrier) p.barrier (b % 32)).add 0 true) }

/-! ### Cores (R181, R256, R285) -/

/-- Changes a core, or the Cellar's copy of it. -/
def State.modCoreCopy (s : State) (i : Nat) (held : Bool) (f : Core → Core) : State :=
  if held then
    s.modCluster (i / 16) fun k => { k with shadow := k.shadow.map fun (h : Shadow) =>
      { h with cores := FMap.put h.cores i (f (FMap.get {} h.cores i)) } }
  else s.modCore i f

/-- A core with a poisoned 64-bit word of a vector register slice. -/
def Core.strikeVec (k : Core) (slice word : Nat) : Core := { k with vpois := setBits k.vpois (slice % 128 * 128 + 8 * (word % 16)) true 8 }
/-- A core with a poisoned 64-bit word of a mask register. -/
def Core.strikeMask (k : Core) (slice word : Nat) : Core := { k with maskPois := setBits k.maskPois (slice % 32 * 128 + 64 * (word % 2)) true 64 }
/-- A core with a poisoned 64-bit word of an accumulator. -/
def Core.strikeAcc (k : Core) (acc word : Nat) : Core := { k with accPois := setBits k.accPois (16384 * (acc % 2) + 2 * (word % 8192)) true 2 }
/-- A core with a poisoned 32-bit word of lane-private SRAM. -/
def Core.strikeSram (k : Core) (word : Nat) : Core := { k with sramPois := FMap.set false k.sramPois (word % 32768) true }
/-- A core with a table set made invalid. -/
def Core.strikeLarder (k : Core) (set : Nat) : Core :=
  { k with larder := FMap.set {} k.larder (set % 4) { (FMap.get ({} : LarderSet) k.larder (set % 4)) with valid := false } }

/-! ### Translation buffers, stacks, and the whole -/

/-- Die of a translation buffer: a core's, or that of cluster c as 512 + c. -/
def tlbDie (b : Nat) : Nat := if b < 512 then b / 256 else (b - 512) / 16

/-- One copy of the entry that remaps the row of an address is lost (R332). -/
def State.strikeRemap (s : State) (pa : Nat) (second : Bool) : State :=
  let pl := mapPa pa
  s.modStack pl.stack fun k =>
    { k with remap := FMap.put k.remap pl.channel ((FMap.get [] k.remap pl.channel).map fun (e : Remap) =>
        if e.isAt pl then (if second then { e with bad1 := true } else { e with bad0 := true }) else e) }

/-- Where the errors of a cluster's scratchpad, or of the Cellar, count. -/
def State.countPad (s : State) (c off : Nat) : State := s.countDie (c / 16) off

/-- Where a double-bit error in the state of a core counts: with the core's, or with the Cellar's (R315). -/
def State.countCore (s : State) (i : Nat) (held : Bool) : State := s.countDie (i / 256) (if held then 0x18 else 0x28)

/-- A hardware error strikes. A corrected one is only counted. -/
def State.strike (s : State) (u : Upset) : State :=
  match u with
  | .dieCorrected d => s.countDie d 0x00
  | .dieData pa => s.strikeSector (pa / 32)
  | .dieTag pa => s.strikeTag (pa / 128)
  | .padCorrected c => s.countPad c 0x10
  | .padUnit c unit held => (s.modCopy c held fun p => p.strikeUnit unit).countPad c 0x18
  | .region c k held => (s.modCopy c held fun p => p.strikeRegion k).countPad c 0x18
  | .barrier c b held => (s.modCopy c held fun p => p.strikeBarrier b).countPad c 0x18
  | .coreCorrected i => s.countDie (i / 256) 0x20
  | .vecWord i slice word held => (s.modCoreCopy i held fun k => k.strikeVec slice word).countCore i held
  | .maskWord i slice word held => (s.modCoreCopy i held fun k => k.strikeMask slice word).countCore i held
  | .accWord i acc word held => (s.modCoreCopy i held fun k => k.strikeAcc acc word).countCore i held
  | .sramWord i word held => (s.modCoreCopy i held fun k => k.strikeSram word).countCore i held
  | .larder i set => (s.modCore i fun k => k.strikeLarder set).countDie (i / 256) 0x28
  | .tlb b => ({ s with tlb := FMap.set [] s.tlb b (FMap.get [] s.tlb b).dropLast } : State).countDie (tlbDie b) 0x30
  | .linkRetry d => s.countDie d 0x38
  | .dramCorrected pa =>
    if regionOf pa = .device then s.modStack (mapPa pa).stack fun k => { k with corrected := bump k.corrected } else s
  | .dramData pa => if regionOf pa = .device then { s with dramBad := FMap.set false s.dramBad (pa / 32) true } else s
  | .dramParity pa => if regionOf pa = .device then { s with parityBad := FMap.set false s.parityBad (parityKey (pa / 32)) true } else s
  | .remapCopy pa second => if regionOf pa = .device then s.strikeRemap pa second else s

end Sys2Proof.Machine
end

