-- ==== Sys2Proof/Machine/Agents.lean ====
section
/-!
DEFINITION. Sys2Proof/Machine/Agents.lean: who may act in a step. The package's agents that act on their own (the homes, the
copy engines, the matrix units, the firmware, the log, the links) and the sequencers take turns; where more than one may act the
spec gives no order and `Config.schedule` chooses (notes/assumptions rows 2 and 3).
-/

namespace Sys2Proof.Machine

open Sys2Proof

/-- What a step does: it runs an instruction or event on a state, or it ends in a state. -/
inductive Pick
  | run (t : State) (i : Instr)
  | done (t : State)

/-! ### The agents that act on their own -/

/-- Stores that their homes may take (R341). -/
noncomputable def State.admits (s : State) : List Instr :=
  (s.seqs.map fun e => ((List.range e.2.stores.length).filter fun k => s.storeFree e.1 k).map fun k =>
    Instr.homeWriteAdmit e.1 k).flatten

/-- Commands whose engine may move a row or complete them (R272). -/
noncomputable def State.engineEvents (s : State) : List Instr :=
  (s.clusters.map fun e => (e.2.cmds.map fun k =>
    if s.rowReady e.1 k then [Instr.engineRow e.1 k.id]
    else if s.endReady e.1 k then [Instr.engineComplete e.1 k.id]
    else []).flatten).flatten

/-- Matrix units that may serve their first waiter (R236). -/
noncomputable def State.matrixEvents (s : State) : List Instr :=
  (s.cores.keysWhere fun _ k =>
    k.holder.isNone && (match k.waiters with | [] => false | w :: _ => (s.seq w).wantMatrix || s.runnable w)).map Instr.matrixGrant

/-- Append blocks that their homes may serve and merged spans that they may write (R359, R363). -/
noncomputable def State.pyramidEvents (s : State) : List Instr :=
  (s.seqs.keysWhere fun q x => !x.appends.isEmpty && (s.nextAppend q).isSome).map Instr.pyramidAssign
    ++ (s.streams.map fun e => e.2.pend.map fun p => Instr.pyramidSpanWrite e.1 p.level p.num).flatten

/-- Partitions with a launch that the firmware may bind or bind again, slots whose next record may become current, and preload copies that
may end (R376 to R379, R382). -/
noncomputable def State.bindEvents (s : State) : List Instr :=
  (s.parts.map fun e => match s.serve e.1 with
      | none => []
      | some (n, _) => if s.isHeld e.1 n then [Instr.launchResume e.1 n] else [Instr.launchBind e.1]).flatten
    ++ (s.seqs.keysWhere fun q _ => s.mayAdvance q).map Instr.bindAdvance
    ++ (s.clusters.map fun e =>
        ((e.2.preloads.filter fun r => !r.done && !(s.requests.any fun o =>
          o.owner == Owner.engine e.1 (2 ^ 32 + r.q) && o.answer.isNone)).map fun r => Instr.preloadCopyDone r.q)).flatten

/-- Invalidations that may end (R300). -/
noncomputable def State.invalidationEvents (s : State) : List Instr :=
  (s.dies.keysWhere fun _ x => x.invBusy && s.accessesDone x).map Instr.invalidationDone

/-- Recoveries, debug stops and replays that may go on (R311, R313). -/
noncomputable def State.rewindEvents (s : State) : List Instr :=
  (s.launches.keysWhere fun k _ => s.mayRollback (k / 2 ^ 32) (k % 2 ^ 32)).map (fun k => Instr.rollback (k / 2 ^ 32) (k % 2 ^ 32))
    ++ (s.parts.keysWhere fun p _ => s.haltDone p).map Instr.debugHalted
    ++ (s.parts.keysWhere fun p b => (s.seqsOf p b.dbgLaunch).any fun q =>
        match (s.seq q).replay with
        | none => false
        | some r => decide (r.target ≤ (s.seq q).csr.units.toNat) || (r.alone && s.blockedAlone q)).map Instr.replayCountReached

/-- Clusters that have come to rest or whose exchange may end (R284, R384). -/
noncomputable def State.clusterEvents (s : State) : List Instr :=
  (s.clusters.keysWhere fun c k => k.halting && s.atRest c).map Instr.clusterHalted
    ++ (s.clusters.keysWhere fun _ k => k.busy).map Instr.exchangeDone

/-- Collectives that are complete, or whose ring has room again, remaps, migrations and attestations that may go on (R308, R331, R334, R393, R417). -/
noncomputable def State.unitEvents (s : State) : List Instr :=
  ((List.range s.colls.length).filter fun k => s.collReady k).map Instr.collectiveComplete
    ++ ((s.colls.filter fun c => s.fitsNow c).map fun c => Instr.ringSpaceFreed c.partition (c.blocked.getD 0))
    ++ (s.baseDies.keysWhere fun _ k => k.rmBusy).map Instr.remapDone
    ++ (s.baseDies.keysWhere fun _ k => k.mgPhase == 1).map Instr.migrationPass
    ++ (s.parts.keysWhere fun _ b => b.attBusy).map Instr.attestationDone

/-- Everything that may happen next besides a unit. -/
noncomputable def State.internal (s : State) : List Instr :=
  s.admits ++ s.engineEvents ++ s.matrixEvents ++ s.pyramidEvents ++ s.bindEvents ++ s.invalidationEvents ++ s.rewindEvents
    ++ s.clusterEvents ++ s.unitEvents

/-! ### The next unit of a sequencer -/

/-- A launch runs from the first unit that one of its sequencers issues; so does one that was rolled back (R374). -/
def State.begun (s : State) (q : Nat) : State :=
  let b := (s.seq q).cur
  match s.launch? b.partition b.seq with
  | none => s
  | some l =>
    if l.lstate = 2 ∨ l.lstate = 6 then (s.modLaunch b.partition b.seq fun l => { l with lstate := 3 }).journal b.partition b.seq
    else s

/-- An annulled unit is discarded: it neither executes nor retires (R26, R123). -/
def State.discard (s : State) (q : Nat) : State :=
  ((s.passTime q).movePc q .on).endStep

/-- The next unit of the sequencer whose turn it is: an interrupt at the boundary, an annulled unit, a unit that cannot be
fetched or decoded, one that waits for the time of an append, or an instruction (R34, R123, R126, R135, R359). -/
noncomputable def State.pickUnit (s : State) : Pick :=
  let q := s.turn
  let x := s.seq q
  if x.takesInt then .run s (.interrupt q)
  else if x.pc.n0 then .done (s.discard q)
  else if s.codeWaits q x.pc.q0 then .done ((s.fillCode q x.pc.q0).passTime q).endStep
  else
    match s.fetchUnit q x.pc.q0 with
    | (_, some (c, va)) => .run s (.fetchFault (BitVec.ofNat 8 c) va)
    | (ws, none) =>
      match decodeUnit ws with
      | .fails bad w pos =>
        match firstMisaligned x.csr.vtype 0 false (ws.take pos.toNat) with
        | some (v, k) => .run s (.illegalInstruction false v (BitVec.ofNat 2 k))
        | none => .run s (.illegalInstruction bad w pos)
      | .ok i => if s.blockedByAppend q i then .done (State.finish q (.wait s)) else .run (s.begun q) i

/-- The sequencer that may run: the one whose turn it is, or the one that the schedule picks. -/
def State.nextRunner (s : State) : Option Nat :=
  if s.runnable s.turn then some s.turn
  else match s.runnables with | [] => none | _ => some s.nextTurn

/-- What the agents and the sequencers do next. -/
noncomputable def State.choose (s : State) : Pick :=
  match s.internal, s.nextRunner with
  | [], none => .done s.endStep
  | [], some q => State.pickUnit { s with turn := q }
  | e :: es, r =>
    let n := es.length + 1
    let k := Config.schedule s.tick % (if r.isSome then n + 1 else n)
    match r with
    | none => .run s ((e :: es).getD k e)
    | some q => if k < n then .run s ((e :: es).getD k e) else State.pickUnit { s with turn := q }

/-- What the package does next when no input waits: a hardware error strikes when its time has come, which is open (log 115), else the
agents and the sequencers act. -/
noncomputable def State.pick (s : State) : Pick :=
  match s.upsets with
  | [] => s.choose
  | u :: rest => if Config.strikes s.tick then .done ((({ s with upsets := rest } : State).strike u).endStep) else s.choose

end Sys2Proof.Machine
end

