-- ==== Sys2Proof/Machine/Step.lean ====
section
/-!
DEFINITION. Sys2Proof/Machine/Step.lean: one step of the package: the first waiting input, else what `State.pick` chooses.
-/

namespace Sys2Proof.Machine

open Sys2Proof

/-- One step. -/
noncomputable def step (s : State) : Host.Outcome State Fault Refusal :=
  match s.inputs with
  | i :: rest => exec i { s with inputs := rest }
  | [] =>
    match s.pick with
    | .run t i => exec i t
    | .done t => .next t

/-- The generic address at which `State.withFetchWord` places an instruction. -/
def fetchBase : Nat := 0x10000

/-- The bind record of the sequencer that `State.withFetchWord` makes current: partition 0, launch 0, all lane groups, ASID 0. -/
def fetchRecord : BindRec where
  w0 := BitVec.ofNat 64 (2 ^ 47 + 15 * 2 ^ 43)
  w1 := BitVec.ofNat 64 fetchBase

/-- ASID entry 0 and one range entry, which maps the first MiB to itself, raw, plain and writable (R293, R295), and the
instruction's bytes with seven words of zeros after it. -/
def placeFetch (m : Memory) (asidTable w : Nat) : Memory :=
  let m := writeBytes m asidTable (toBytes 8 (1 + 2 ^ 7) ++ toBytes 8 (asidTable + 0x200000))
  let m := writeBytes m (asidTable + 0x200000)
    (toBytes 8 0 ++ toBytes 8 0x100000 ++ toBytes 8 0 ++ toBytes 8 (3 + 0xFF * 2 ^ 3))
  writeBytes m fetchBase (toBytes 4 w ++ toBytes 28 0)

/-- The state with an instruction stored where step fetches its next one: sequencer 0 holds a bind record whose entry is that
instruction (log 23). -/
def State.withFetchWord (s : State) (_nbits w : Nat) : State :=
  let s1 : State := { s with inputs := [], upsets := [], turn := 0, tlb := [], mem := placeFetch s.mem s.asidTable w }
  (s1.modSeq 0 fun x => { x with cur := fetchRecord, next := {} }).setEntry 0

end Sys2Proof.Machine
end

