-- ==== Sys2Proof/Machine/Registers.lean ====
section
/-!
DEFINITION. Sys2Proof/Machine/Registers.lean: what a read of a device register returns (00_scope.md R5; 14_die.md R300, R310, R315;
15_package_memory.md R318, R336; 19_launch_tenancy.md R370, R373, R375, R377, R381, R386, R398). A field that is write-only, a field
that no map shows and a reserved offset read as zero.
-/

namespace Sys2Proof.Machine

open Sys2Proof

/-- A flag as a number. -/
def bitNat (b : Bool) : Nat := if b then 1 else 0

/-- A partition's block (R370, R373, R386). -/
def Part.read (b : Part) (off : Nat) : Word :=
  if 0x100 ≤ off ∧ off < 0x120 then FMap.get 0 b.lstat ((off - 0x100) / 8)
  else if 0x120 ≤ off ∧ off < 0x140 then
    BitVec.ofNat 64 (FMap.get 0 b.lasid ((off - 0x120) / 8) + FMap.get 0 b.lpre ((off - 0x120) / 8) * 2 ^ 16)
  else if 0x200 ≤ off ∧ off < 0x300 then b.cfgWord ((off - 0x200) / 8)
  else
    match off with
    | 0x140 => BitVec.ofNat 64 b.jbase
    | 0x148 => b.jhead.zeroExtend 64
    | 0x150 => b.jtail.zeroExtend 64
    | 0x160 => BitVec.ofNat 64 b.nbase
    | 0x168 => BitVec.ofNat 64 b.nsize
    | 0x170 => BitVec.ofNat 64 b.nhead
    | 0x178 => BitVec.ofNat 64 b.ntail
    | 0x180 => b.istat.zeroExtend 64
    | 0x188 => b.imask.zeroExtend 64
    | 0x198 => BitVec.ofNat 64 (b.clip % 2 ^ 24 + bitNat b.clipOpen * 2 ^ 31)
    | 0x308 => BitVec.ofNat 64 (bitNat b.attBusy + bitNat b.attDone * 2 + bitNat b.manDone * 4)
    | _ => 0

/-- A debug block (R310): cmd and force are write-only. -/
def State.readDebug (s : State) (p off : Nat) : Word :=
  let b := s.part p
  match off with
  | 0x00 => BitVec.ofNat 64 b.dbgLaunch
  | 0x08 => BitVec.ofNat 64 b.dbgArg0
  | 0x10 => BitVec.ofNat 64 b.dbgArg1
  | 0x20 => BitVec.ofNat 64 (bitNat b.dbgBusy + bitNat (s.dbgStopped p) * 2 + b.dbgResult % 16 * 16 + b.dbgEscapes % 2 ^ 32 * 2 ^ 32)
  | 0x28 => BitVec.ofNat 64 (bitNat b.brkstop + bitNat b.watchstop * 2)
  | _ => 0

/-- A translation block (R300): go is write-only. -/
def Die.read (x : Die) (off : Nat) : Word :=
  match off with
  | 0x00 => BitVec.ofNat 64 (x.invAsid.toNat + bitNat x.invAll * 2 ^ 16)
  | 0x08 => x.invVa
  | 0x10 => x.invPages.zeroExtend 64
  | 0x20 => BitVec.ofNat 64 (bitNat x.invBusy)
  | _ => 0

/-- A die's error counters (R315). -/
def Die.readCounter (x : Die) (off : Nat) : Word := if off ≤ 0x48 then BitVec.ofNat 64 (FMap.get 0 x.counters off) else 0

/-- A base die's block (R336): declare, rm_go and the mg commands are write-only. -/
def Stack.read (k : Stack) (off : Nat) : Word :=
  match off with
  | 0x000 => BitVec.ofNat 64 (k.chfail.toNat + k.chlost.toNat * 2 ^ 32)
  | 0x010 => BitVec.ofNat 64 k.corrected
  | 0x018 => BitVec.ofNat 64 k.rebuilt
  | 0x020 => BitVec.ofNat 64 k.poisoned
  | 0x028 => BitVec.ofNat 64 k.suspends
  | 0x030 => BitVec.ofNat 64 k.remapfail
  | 0x040 => k.rmTarget
  | 0x048 => BitVec.ofNat 64 (bitNat k.rmBusy + k.rmResult % 8 * 2)
  | 0x080 => k.mgSrc
  | 0x088 => k.mgDst
  | 0x090 => k.mgPages
  | 0x0A0 => BitVec.ofNat 64 (k.mgPhase % 8 + k.mgDirty.length % 2 ^ 32 * 2 ^ 32)
  | _ => 0

/-- A word of a bind record (R375). -/
def BindRec.word (b : BindRec) (i : Nat) : Word :=
  match i with
  | 0 => b.w0
  | 1 => b.w1
  | 2 => b.w2
  | _ => b.w3

/-- A sequencer's two records in the slot table (R375). Bits of a record that R375 shows as zero read as they were written: the model takes
a record for a descriptor whose bits stand, and ignores them in use (DESIGN CHOICE, log 127). -/
def Seq.readSlot (x : Seq) (off : Nat) : Word := if off < 0x20 then x.cur.word (off / 8) else x.next.word (off / 8 - 4)

/-- A sequencer control word (R381). -/
def Seq.readControl (x : Seq) : Word :=
  BitVec.ofNat 64 ((match x.reclaim with | some c => c % 8 + 8 | none => 0) + bitNat x.markReq * 16)

/-- A cluster's preload table, command and status words (R377, R381): the commands are write-only. -/
def Cluster.read (c : Cluster) (off : Nat) : Word :=
  match off with
  | 0x00 => BitVec.ofNat 64 c.preTab
  | 0x10 => BitVec.ofNat 64 (bitNat c.halted + bitNat c.busy * 2 + bitNat c.shadow.isSome * 4)
  | _ => 0

/-- The monitors, islands and power words (R398). -/
def State.readPower (s : State) (off : Nat) : Word :=
  if off < 0x700 then BitVec.ofNat 64 (s.monitor (off / 8))
  else if 0x800 ≤ off ∧ off < 0x800 + 8 * 36 then
    let i := (off - 0x800) / 8
    BitVec.ofNat 64 (FMap.get 0 s.islands i + FMap.get 0 s.ceilings i * 2 ^ 8)
  else if off = 0xA00 then BitVec.ofNat 64 (s.powerLimit + s.powerAvg % 2 ^ 16 * 2 ^ 32)
  else 0

/-- A register of the device-register region as the system partition (`sys`) or another reader reads it; what that reader cannot reach
reads as zero, and after a failed boot only function 0 is there for the host (R5, R318, R391, log 62). -/
def State.registerWord (s : State) (pa : Nat) (sys : Bool) : Word :=
  let o := pa - 0xF000000000000
  if pa % 8 ≠ 0 ∨ pa < 0xF000000000000 ∨ (s.bootFailed ∧ !sys ∧ regFunction pa ≠ 0) then 0
  else if 0x4000000 ≤ o ∧ o < 0x4020000 then (s.part ((o - 0x4000000) / 0x1000)).read (o % 0x1000)
  else if 0x2000000 ≤ o ∧ o < 0x2002000 then s.readDebug ((o - 0x2000000) / 0x100) (o % 0x100)
  else if !sys then 0
  else if 0x1000000 ≤ o ∧ o < 0x1002000 then (s.die ((o - 0x1000000) / 0x1000)).read (o % 0x1000)
  else if 0x1800000 ≤ o ∧ o < 0x1800200 then (s.die ((o - 0x1800000) / 0x100)).readCounter (o % 0x100)
  else if 0x3000000 ≤ o ∧ o < 0x3008000 then (s.stack ((o - 0x3000000) / 0x1000)).read (o % 0x1000)
  else if 0x5000000 ≤ o ∧ o < 0x5020000 then (s.seq ((o - 0x5000000) / 0x40)).readSlot (o % 0x40)
  else if 0x5020000 ≤ o ∧ o < 0x5020800 then (s.cluster ((o - 0x5020000) / 0x40)).read (o % 0x40)
  else if 0x5040000 ≤ o ∧ o < 0x5044000 then (s.seq ((o - 0x5040000) / 8)).readControl
  else if 0x6000000 ≤ o ∧ o < 0x6001000 then s.readPower (o - 0x6000000)
  else 0

/-- What a read of an 8-byte device register returns; none is the bus error that a management core receives for an address in no region
(R316, R318). -/
def State.readRegister (s : State) (pa : Nat) (sys : Bool) : Option Word :=
  if sys && regionOf pa == .none then none else some (s.registerWord pa sys)

end Sys2Proof.Machine
end

