-- ==== Sys2Proof/Safety.lean ====
section
/-!
DEFINITION. Sys2Proof/Safety.lean: the terms in which the claims speak: the invariant that every step keeps, and what a unit
leaves alone.
-/

namespace Sys2Proof.Machine

open Sys2Proof

/-- The invariant of the package: device memory is in its canonical form, and the life-cycle state, which fuses hold, has
reached at least the rank `k` (R392). -/
def State.Good (k : Nat) (s : State) : Prop := Memory.wf s.mem = true ∧ k ≤ lifeRank s.life

/-- Every byte of memory reads as before. -/
def State.SameMemory (s t : State) : Prop := ∀ a n, t.readPhys a n = s.readPhys a n

/-- What a unit leaves of its sequencer besides its own effect: only the program counter queue, the unit and cycle counts, the
stall counters, the restart registers, the marks of a resumption and the notes of the banks it has met differ. -/
def Seq.Kept (x y : Seq) : Prop :=
  y = { x with
    pc := y.pc, resume := y.resume, woken := y.woken, used := y.used, wide := y.wide
    banks := y.banks, bankAt := y.bankAt, stepAt := y.stepAt
    csr := { x.csr with
      units := y.csr.units, cycle := y.csr.cycle, stallq := y.csr.stallq, stalls := y.csr.stalls, stallb := y.csr.stallb
      stallm := y.csr.stallm, rstg0 := y.csr.rstg0, rstg1 := y.csr.rstg1, rstg2 := y.csr.rstg2, rstg3 := y.csr.rstg3 } }

/-- What every unit leaves of the package outside its sequencer and its core: of the state's fields only the step counter,
the clock, the turn, the records of sequencers and cores and the answers to the unit's own requests may differ; every other
sequencer and every other core is as before, and so is every byte of memory. -/
def State.OnlyCore (s t : State) (q : Nat) : Prop :=
  t = { s with tick := t.tick, now := t.now, turn := t.turn, seqs := t.seqs, cores := t.cores, requests := t.requests }
    ∧ (∀ r, r ≠ q → t.seq r = s.seq r) ∧ (∀ c, c ≠ coreOf q → t.core c = s.core c) ∧ s.SameMemory t

/-- What a unit of one sequencer leaves besides: its core but for the record of a stopped tile multiply, which the first unit
after a resumption may discard (R251). -/
def State.OnlySeq (s t : State) (q : Nat) : Prop :=
  s.OnlyCore t q ∧ t.core (coreOf q) = { s.core (coreOf q) with progress := (t.core (coreOf q)).progress }

/-- What a unit leaves besides its sequencer and its cluster's record: other clusters, other sequencers, every core but for the
record of a stopped tile multiply, and every byte of memory are as before. -/
def State.OnlyCluster (s t : State) (q : Nat) : Prop :=
  t = { s with
      tick := t.tick, now := t.now, turn := t.turn, seqs := t.seqs, cores := t.cores, clusters := t.clusters
      requests := t.requests }
    ∧ (∀ r, r ≠ q → t.seq r = s.seq r) ∧ (∀ c, c ≠ coreOf q → t.core c = s.core c)
    ∧ t.core (coreOf q) = { s.core (coreOf q) with progress := (t.core (coreOf q)).progress }
    ∧ (∀ c, c ≠ clusterOf q → t.cluster c = s.cluster c) ∧ s.SameMemory t

/-- succ(Q2) (R123). -/
def State.succQ2 (s : State) (q : Nat) : Word := (s.succ q (s.seq q).pc.q2 (s.seq q).pc.prov2).1

/-- The unit at Q0 retired and the queue moved: Q1 and Q2 are the new Q0 and Q1, `q2` the new Q2, `n0` and `n1` the new annul
bits, and UNITS rose by one (R123, R137). -/
def State.QueueMoved (s t : State) (q : Nat) (q2 : Word) (n0 n1 : Bool) : Prop :=
  (t.seq q).pc.q0 = (s.seq q).pc.q1 ∧ (t.seq q).pc.q1 = (s.seq q).pc.q2 ∧ (t.seq q).pc.q2 = q2 ∧ (t.seq q).pc.n0 = n0
    ∧ (t.seq q).pc.n1 = n1 ∧ (t.seq q).csr.units = (s.seq q).csr.units + 1

/-- The queue that a move leaves (R123). -/
def State.nextPc (s : State) (q : Nat) (m : Move) : PcQueue :=
  (s.seq q).pc.move (s.succ q (s.seq q).pc.q2 (s.seq q).pc.prov2).1 (s.succ q (s.seq q).pc.q2 (s.seq q).pc.prov2).2 m

/-- The unit at Q0 waits at its place: nothing of the sequencer changes but its cycle and stall counters and the notes of the banks
it has met. -/
def State.Waits (s t : State) (q : Nat) : Prop :=
  s.OnlySeq t q ∧ t.seq q = { s.seq q with
    used := (t.seq q).used, wide := (t.seq q).wide, banks := (t.seq q).banks, bankAt := (t.seq q).bankAt, stepAt := (t.seq q).stepAt
    csr := { (s.seq q).csr with
      cycle := (t.seq q).csr.cycle, stallq := (t.seq q).csr.stallq, stalls := (t.seq q).csr.stalls
      stallb := (t.seq q).csr.stallb, stallm := (t.seq q).csr.stallm } }

/-- The sequencer keeps its `c` lowest lane groups: the others are zeroed and no longer granted, VL is trimmed, and of its core
nothing else changes (R165, R186). -/
def State.Shrunk (s t : State) (q c : Nat) : Prop :=
  let g := (s.seq q).grant
  let k := s.core (coreOf q)
  let k' := t.core (coreOf q)
  let out (i : Nat) : Bool := g.getLsbD i && decide (c ≤ rankOf g i)
  (∀ i, i < 4 → (t.seq q).grant.getLsbD i = (g.getLsbD i && decide (rankOf g i < c)))
    ∧ (t.seq q).csr.vl = (if c < grants g then Nat.min (s.seq q).csr.vl (c * vtPer (s.seq q).csr.vtype) else (s.seq q).csr.vl)
    ∧ (∀ i, FMap.get 0 k'.vreg i = if out (i / 32) then 0 else FMap.get 0 k.vreg i)
    ∧ (∀ i, FMap.get false k'.vpois i = if out (i / 4096) then false else FMap.get false k.vpois i)
    ∧ (∀ i, FMap.get 0 k'.mask i = if out (i / 8) then 0 else FMap.get 0 k.mask i)
    ∧ (∀ i, FMap.get false k'.maskPois i = if out (i / 1024) then false else FMap.get false k.maskPois i)
    ∧ (∀ i, FMap.get 0 k'.laneFlags i = if out (i / 8) then 0 else FMap.get 0 k.laneFlags i)
    ∧ (∀ i, FMap.get 0 k'.sram i = if out (i / 32768) then 0 else FMap.get 0 k.sram i)
    ∧ (∀ i, FMap.get false k'.sramPois i = if out (i / 8192) then false else FMap.get false k.sramPois i)
    ∧ k' = { k with
        vreg := k'.vreg, vpois := k'.vpois, mask := k'.mask, maskPois := k'.maskPois, laneFlags := k'.laneFlags, sram := k'.sram
        sramPois := k'.sramPois, progress := k'.progress }

/-- The queue moved on as after a unit that is no branch (first row of R123). -/
def State.MovedOn (s t : State) (q : Nat) : Prop := s.QueueMoved t q (s.succQ2 q) (s.seq q).pc.n1 false

/-- A unit completed whose whole effect is `f` on its sequencer and a move of the queue. -/
def State.DidTo (s t : State) (f : Seq → Seq) (q2 : Word) (n0 n1 : Bool) : Prop :=
  s.QueueMoved t s.turn q2 n0 n1 ∧ s.OnlySeq t s.turn ∧ (f (s.seq s.turn)).Kept (t.seq s.turn)

/-- A unit that is no branch completed, and its whole effect is `f` on its sequencer. -/
def State.Did (s t : State) (f : Seq → Seq) : Prop := s.DidTo t f (s.succQ2 s.turn) (s.seq s.turn).pc.n1 false

/-- A unit completed whose effect stays within its sequencer and its core, `f` being all it does to the sequencer. -/
def State.DidInCore (s t : State) (f : Seq → Seq) : Prop :=
  s.MovedOn t s.turn ∧ s.OnlyCore t s.turn ∧ (f (s.seq s.turn)).Kept (t.seq s.turn)

/-- A trap of this cause enters the sequencer's handler: there is one, no trap is open, and neither firmware, a recovery nor
the debugger takes it (R23, R127, R130, R134, R312, R313). -/
def State.Handles (s : State) (q cause : Nat) : Prop :=
  let x := s.seq q
  x.tr.inTrap = false ∧ x.tr.tvec ≠ 0 ∧ cause ≠ 24 ∧ (x.cur.log = 2 → cause ≠ 19 ∧ cause ≠ 9)
    ∧ (cause = 17 → (s.part x.cur.partition).watchstop = false)

/-- Trap entry (R127 to R129), where `pc` is the queue saved and `n` units have retired: the saved queue and status, the queues in
the shadow, the queue at the handler, and nothing else but the counters, the restart registers and the notes of the banks met. -/
def State.Trapped (s t : State) (q : Nat) (pc : PcQueue) (n : Word) (e : Trap) : Prop :=
  let x := s.seq q
  let y := t.seq q
  let c1 := s.succ q x.tr.tvec false
  let bits (l : List Bool) : Nat := l.foldr (fun b r => b.toNat + 2 * r) 0
  s.OnlySeq t q
    ∧ y.tr = { x.tr with
        epc0 := pc.q0, epc1 := pc.q1, epc2 := pc.q2, enul := BitVec.ofNat 4 (bits [pc.n0, pc.n1, pc.prov1, pc.prov2])
        eslot0 := pc.d0, eslot1 := pc.d1
        tcause := BitVec.ofNat 64 (e.cause + 2 ^ 8 * e.sub + 2 ^ 16 * e.aside.toNat + 2 ^ 17 * pc.d0.toNat + 2 ^ 18 * e.pos)
        tval := e.tval, eapc := e.eapc.getD x.tr.eapc, ie := false, pie := x.tr.ie, inTrap := true, claimed := false
        qpend := BitVec.ofNat 2 (bits [!(x.qs.sq.isEmpty && x.qs.xa.isEmpty && x.qs.xe.isEmpty && x.qs.bq.isEmpty), x.grant != 0])
        dbpend := x.tr.dbpend && !(e.cause == 18 && e.sub == 2) }
    ∧ y.pc.q0 = x.tr.tvec ∧ y.pc.q1 = c1.1 ∧ y.pc.q2 = (s.succ q c1.1 c1.2).1 ∧ y.pc.n0 = false ∧ y.pc.n1 = false
    ∧ y = { x with
        tr := y.tr, pc := y.pc, shadow := x.qs, qs := {}, link := .none, resume := false, woken := y.woken
        used := y.used, wide := y.wide, banks := y.banks, bankAt := y.bankAt, stepAt := y.stepAt
        csr := { x.csr with
          units := x.csr.units + n, cycle := y.csr.cycle, stallq := y.csr.stallq, stalls := y.csr.stalls
          stallb := y.csr.stallb, stallm := y.csr.stallm, rstg0 := y.csr.rstg0, rstg1 := y.csr.rstg1
          rstg2 := y.csr.rstg2, rstg3 := y.csr.rstg3 } }

/-- A fault of the unit at Q0 enters the handler: no part of the unit has taken effect (R126). -/
def State.Faulted (s t : State) (e : Trap) : Prop := s.Trapped t s.turn (s.seq s.turn).pc 0 e

/-! ### Vector words -/

/-- A unit of vector words of the sequencer runs over its elements from the first: the vector unit is not frozen, no unit resumes, a
vtype is granted, VL lies between 1 and VLMAX, and no register byte and no mask bit of the core is poisoned (R130, R175, R181, R183,
R190). -/
def State.VecReady (s : State) (q : Nat) : Prop :=
  let x := s.seq q
  x.frozen = false ∧ x.resume = false ∧ vtUsable x.csr.vtype = true ∧ 0 < x.csr.vl ∧ x.csr.vl ≤ vlmaxOf x.csr.vtype x.grant
    ∧ (s.core (coreOf q)).vpois = [] ∧ (s.core (coreOf q)).maskPois = []

/-- Whether local element `j` of lane group `g` lies below VL (R170, R182). -/
def Seq.within (x : Seq) (g j : Nat) : Bool := decide (rankOf x.grant g * vtPer x.csr.vtype + j < x.csr.vl)

/-- Whether an element is active under a mask field (R176). -/
def State.act (s : State) (q : Nat) (m : MReg) (g j : Nat) : Bool := m == 0 || (s.core (coreOf q)).maskBit g m.toNat j

/-- What the policies of vtype make of an element that is written nothing (R176). -/
def Seq.left {α : Type} (x : Seq) (live : Bool) (zero old : α) : α :=
  if live then (if vtInactZero x.csr.vtype then zero else old) else if vtTailZero x.csr.vtype then zero else old

/-- A unit of one vector word completed, the sequencer being left as `y`, and all it did to the core is that element `j` of group `g`
in the register group of `n` registers at `d`, laid out at width `ew`, became `res g j`, and that the flags `fl g j` went to the lane
of the element (R170, R191). -/
def State.VecWrote (s t : State) (q : Nat) (y : Seq) (d : Reg) (ew n : Nat) (res : Nat → Nat → Nat) (fl : Nat → Nat → FFlags) :
    Prop :=
  let x := s.seq q
  let k := s.core (coreOf q)
  let k' := t.core (coreOf q)
  s.MovedOn t q ∧ s.OnlyCore t q ∧ y.Kept (t.seq q)
    ∧ (∀ g j, x.grant.getLsbD g = true → j < vtPer x.csr.vtype → k'.elem g d.toNat ew j = res g j)
    ∧ (∀ g r, g < 4 → r < 32 → x.grant.getLsbD g = false ∨ r < d.toNat ∨ d.toNat + n ≤ r →
        FMap.get 0 k'.vreg (32 * g + r) = FMap.get 0 k.vreg (32 * g + r))
    ∧ (∀ g l, g < 4 → l < 8 → FMap.get 0 k'.laneFlags (8 * g + l)
        = (List.range (vtPer x.csr.vtype)).foldl (fun a j =>
            if x.grant.getLsbD g && elemLane ew j == l then a ||| fl g j else a) (FMap.get 0 k.laneFlags (8 * g + l)))
    ∧ k' = { k with vreg := k'.vreg, laneFlags := k'.laneFlags, progress := k'.progress }

/-- The common case: `f` at the active elements below VL, with the flags of the results, and at the others zero or the old element
as their policy says (R176). -/
def State.VecElems (s t : State) (q : Nat) (y : Seq) (d : Reg) (ew n : Nat) (act : Nat → Nat → Bool)
    (f : Nat → Nat → Nat × FFlags) : Prop :=
  let x := s.seq q
  s.VecWrote t q y d ew n
    (fun g j =>
      if x.within g j && act g j then (f g j).1 else x.left (x.within g j) 0 ((s.core (coreOf q)).elem g d.toNat ew j))
    (fun g j => if x.within g j && act g j then (f g j).2 else 0)

/-- Global index of local element `j` of group `g` (R170). -/
def Seq.index (x : Seq) (g j : Nat) : Nat := rankOf x.grant g * vtPer x.csr.vtype + j

/-- The granted group that holds the element of a global index. -/
def Seq.groupOf (x : Seq) (i : Nat) : Nat :=
  ((List.range 4).find? fun g => x.grant.getLsbD g && rankOf x.grant g == i / vtPer x.csr.vtype).getD 0

/-- The element of a global index in the register group at `r`. -/
def State.elemAt (s : State) (q : Nat) (r : Reg) (i : Nat) : Nat :=
  (s.core (coreOf q)).elem ((s.seq q).groupOf i) r.toNat (vtEw (s.seq q).csr.vtype) (i % vtPer (s.seq q).csr.vtype)

/-- Whether the element of a global index is active. -/
def State.actAt (s : State) (q : Nat) (m : MReg) (i : Nat) : Bool :=
  s.act q m ((s.seq q).groupOf i) (i % vtPer (s.seq q).csr.vtype)

/-- A unit of one vector compare completed, and all it did is to write bits of mask register `d`, and flags as above (R191, R196). -/
def State.VecMask (s t : State) (q d : Nat) (act : Nat → Nat → Bool) (f : Nat → Nat → Bool × FFlags) : Prop :=
  let x := s.seq q
  let k := s.core (coreOf q)
  let k' := t.core (coreOf q)
  s.MovedOn t q ∧ s.OnlyCore t q ∧ x.Kept (t.seq q)
    ∧ (∀ g j, x.grant.getLsbD g = true → j < 128 →
        k'.maskBit g d j
          = if vtPer x.csr.vtype ≤ j then k.maskBit g d j
            else if x.within g j && act g j then (f g j).1 else x.left (x.within g j) false (k.maskBit g d j))
    ∧ (∀ g r, g < 4 → r < 8 → x.grant.getLsbD g = false ∨ r ≠ d →
        FMap.get 0 k'.mask (8 * g + r) = FMap.get 0 k.mask (8 * g + r))
    ∧ (∀ g l, g < 4 → l < 8 → FMap.get 0 k'.laneFlags (8 * g + l)
        = (List.range (vtPer x.csr.vtype)).foldl (fun a j =>
            if x.grant.getLsbD g && x.within g j && act g j && elemLane (vtEw x.csr.vtype) j == l then a ||| (f g j).2 else a)
          (FMap.get 0 k.laneFlags (8 * g + l)))
    ∧ k' = { k with mask := k'.mask, laneFlags := k'.laneFlags, progress := k'.progress }

/-! ### Events -/

/-- An event completes: the state is `u` but for the step counter, the clock and whose turn it is. -/
def State.Ends (s : State) (i : Instr) (u : State) : Prop :=
  ∃ t, exec i s = .next t ∧ t.tick = s.tick + 1 ∧ t = { u with tick := t.tick, now := t.now, turn := t.turn }

/-- No frame of device memory is moved, no channel has failed or is lost, no row is being copied, no copy of a remap entry is bad, and
no granule of DRAM is in error, poisoned or stored compressed, so that every home takes what is written to it as it is (R322, R329,
R331, R332, R334). -/
def State.PlainHomes (s : State) : Prop := s.moved = [] ∧ s.calm = true

/-- Device memory holds `bytes` from `pa` on, and is else as it was. -/
def State.MemWrote (s t : State) (pa : Nat) (bytes : List Byte) : Prop :=
  ∀ a, FMap.get 0 t.mem a = if pa ≤ a ∧ a < pa + bytes.length then bytes.getD (a - pa) 0 else FMap.get 0 s.mem a

/-- Every byte of memory outside the runs is as before. -/
def State.SameMemoryBut (s t : State) (rs : List (Nat × Nat × Word)) : Prop :=
  ∀ a, (∀ r ∈ rs, a < r.1 ∨ r.1 + r.2.1 ≤ a) → FMap.get 0 t.mem a = FMap.get 0 s.mem a

/-- The receive buffers of the collectives in flight. -/
def State.collOut (s : State) : List (Nat × Nat × Word) := ((s.colls.map fun c => c.members.map Member.out).flatten).flatten

/-- The launch has failed, or it waits to be marked so until the stores and commands that its sequencers left are done, and runs no
unit meanwhile (R23). -/
def State.Fails (t : State) (p n : Nat) : Prop :=
  ∃ l, t.launch? p n = some l ∧ (l.lstate = 5 ∨ l.failing.isSome = true
    ∧ ∀ q, (t.seq q).live = true → (t.seq q).key = (p, n) → (t.seq q).stopped = true)

/-- No launch waits to be marked failed, and none for the writes that undo its stores. -/
def State.Settled (s : State) : Prop := ∀ e ∈ s.launches, e.2.failing = none ∧ e.2.undoing = false

/-! ### Pyramid streams -/

/-- The merge rule of R352 for one append: each level's spans received and spans that have left it, and the merges and drops. A level
that comes to hold one span more than its capacity gives its two oldest to the next one; the last level drops its oldest. -/
def appendLevels : List Nat → List (Nat × Nat) → Bool → List (Nat × Nat) × Nat
  | w :: ws, (r, f) :: ls, new =>
    let r := if new then r + 1 else r
    let full := decide (r = f + (w + 1))
    match ws with
    | [] => ([(r, if full then f + 1 else f)], full.toNat)
    | _ :: _ =>
      let (rest, n) := appendLevels ws ls full
      ((r, if full then f + 2 else f) :: rest, n + full.toNat)
  | _, _, _ => ([], 0)

end Sys2Proof.Machine
end

