-- ==== Sys2Proof/Certificates/Slice0/Obligations.lean ====
section
/-!
DEFINITION. Sys2Proof/Certificates/Slice0/Obligations.lean: what is claimed of the model.
-/

open Sys2Proof Sys2Proof.Machine

/-- R140, for the words of majors a and s over two registers: the constructor of each file and the result. A destination
register 0 discards the result, as `RegisterFiles` says. -/
def Obligations.RegisterAlu : Prop :=
  ∀ (s : State) (d a b : Reg),
    ∀ r ∈ ([
        (.aAdd, .sAdd, fun x y => x + y),
        (.aSub, .sSub, fun x y => x - y),
        (.aAnd, .sAnd, fun x y => x &&& y),
        (.aOr, .sOr, fun x y => x ||| y),
        (.aXor, .sXor, fun x y => x ^^^ y),
        (.aShl, .sShl, fun x y => x <<< (y.toNat % 64)),
        (.aShr, .sShr, fun x y => x >>> (y.toNat % 64)),
        (.aSra, .sSra, fun x y => x.sshiftRight (y.toNat % 64)),
        (.aSlt, .sSlt, fun x y => if x.toInt < y.toInt then 1 else 0),
        (.aSltz, .sSltz, fun x y => if x.toNat < y.toNat then 1 else 0),
        (.aMin, .sMin, fun x y => if x.toInt < y.toInt then x else y),
        (.aMax, .sMax, fun x y => if x.toInt < y.toInt then y else x),
        (.aMinz, .sMinz, fun x y => if x.toNat < y.toNat then x else y),
        (.aMaxz, .sMaxz, fun x y => if x.toNat < y.toNat then y else x),
        (.aMul, .sMul, fun x y => x * y),
        (.aMulh, .sMulh, fun x y => (x.signExtend 128 * y.signExtend 128).extractLsb' 64 64),
        (.aMulhz, .sMulhz, fun x y => (x.zeroExtend 128 * y.zeroExtend 128).extractLsb' 64 64),
        (.aDiv, .sDiv, fun x y => if y = 0 then -1 else BitVec.ofInt 64 (x.toInt.tdiv y.toInt)),
        (.aDivz, .sDivz, fun x y => if y = 0 then BitVec.allOnes 64 else BitVec.ofNat 64 (x.toNat / y.toNat)),
        (.aRem, .sRem, fun x y => if y = 0 then x else BitVec.ofInt 64 (x.toInt.tmod y.toInt)),
        (.aRemz, .sRemz, fun x y => if y = 0 then x else BitVec.ofNat 64 (x.toNat % y.toNat)),
        (.aAddw, .sAddw, fun x y => ((x + y).extractLsb' 0 32).signExtend 64),
        (.aSubw, .sSubw, fun x y => ((x - y).extractLsb' 0 32).signExtend 64)]
      : List ((Reg → Reg → Reg → Instr) × (Reg → Reg → Reg → Instr) × (Word → Word → Word))),
      (∃ t, exec (r.1 d a b) s = .next t ∧ s.Did t fun x => x.setA d (r.2.2 (x.getA a) (x.getA b)))
        ∧ (∃ t, exec (r.2.1 d a b) s = .next t ∧ s.Did t fun x => x.setS d (r.2.2 (x.getS a) (x.getS b)))

/-- R140, for the words of majors a and s over one register: counts of leading and trailing zeros and of ones (64 for a zero
operand of clz and ctz), sign and zero extension from 8, 16 and 32 bits. -/
def Obligations.UnaryAlu : Prop :=
  ∀ (s : State) (d a : Reg),
    ∀ r ∈ ([
        (.aClz d a, .sClz d a, fun x => x.clz),
        (.aCtz d a, .sCtz d a, fun x => x.ctz),
        (.aPop d a, .sPop d a, fun x => x.cpop),
        (.aSext d a .b8, .sSext d a .b8, fun x => (x.extractLsb' 0 8).signExtend 64),
        (.aSext d a .b16, .sSext d a .b16, fun x => (x.extractLsb' 0 16).signExtend 64),
        (.aSext d a .b32, .sSext d a .b32, fun x => (x.extractLsb' 0 32).signExtend 64),
        (.aZext d a .b8, .sZext d a .b8, fun x => x &&& 0xFF),
        (.aZext d a .b16, .sZext d a .b16, fun x => x &&& 0xFFFF),
        (.aZext d a .b32, .sZext d a .b32, fun x => x &&& 0xFFFFFFFF)] : List (Instr × Instr × (Word → Word))),
      (∃ t, exec r.1 s = .next t ∧ s.Did t fun x => x.setA d (r.2.2 (x.getA a)))
        ∧ (∃ t, exec r.2.1 s = .next t ∧ s.Did t fun x => x.setS d (r.2.2 (x.getS a)))

/-- R139 and R140 with R31, for the words of majors ai and si: the immediate is sign-extended, a shift takes its six low bits. R142:
`ins` replaces one quarter of a register, bit for bit, and nothing else; register 0 stays zero; its word holds the fields where the
rule has them, and the words that the rule lists are those of their instructions. -/
def Obligations.ImmediateAlu : Prop :=
  (∀ (s : State) (d a : Reg) (i : BitVec 12),
      (∀ r ∈ ([
          (.aiAdd, .siAdd, fun x y => x + y),
          (.aiAnd, .siAnd, fun x y => x &&& y),
          (.aiOr, .siOr, fun x y => x ||| y),
          (.aiXor, .siXor, fun x y => x ^^^ y),
          (.aiSlt, .siSlt, fun x y => if x.toInt < y.toInt then 1 else 0),
          (.aiSltz, .siSltz, fun x y => if x.toNat < y.toNat then 1 else 0),
          (.aiMul, .siMul, fun x y => x * y)]
        : List ((Reg → Reg → BitVec 12 → Instr) × (Reg → Reg → BitVec 12 → Instr) × (Word → Word → Word))),
        (∃ t, exec (r.1 d a i) s = .next t ∧ s.Did t fun x => x.setA d (r.2.2 (x.getA a) (i.signExtend 64)))
          ∧ (∃ t, exec (r.2.1 d a i) s = .next t ∧ s.Did t fun x => x.setS d (r.2.2 (x.getS a) (i.signExtend 64))))
      ∧ ∀ c : BitVec 6,
        ∀ r ∈ ([
            (.aiShl d a c, .siShl d a c, fun x => x <<< c.toNat),
            (.aiShr d a c, .siShr d a c, fun x => x >>> c.toNat),
            (.aiSra d a c, .siSra d a c, fun x => x.sshiftRight c.toNat)] : List (Instr × Instr × (Word → Word))),
          (∃ t, exec r.1 s = .next t ∧ s.Did t fun x => x.setA d (r.2.2 (x.getA a)))
            ∧ (∃ t, exec r.2.1 s = .next t ∧ s.Did t fun x => x.setS d (r.2.2 (x.getS a))))
    ∧ (∀ (s : State) (d : Reg) (side : Bool) (q : BitVec 2) (i : BitVec 16),
      ∃ t, exec (.ins d side q i) s = .next t
        ∧ s.Did t (fun x => if side then x.setS d ((t.seq s.turn).getS d) else x.setA d ((t.seq s.turn).getA d))
        ∧ ∀ k : Nat, k < 64 → d ≠ 0 →
            (if side then (t.seq s.turn).getS d else (t.seq s.turn).getA d).getLsbD k
              = if k / 16 = q.toNat then i.getLsbD (k % 16)
                else (if side then (s.seq s.turn).getS d else (s.seq s.turn).getA d).getLsbD k)
    ∧ (∀ (d : Reg) (side : Bool) (q : BitVec 2) (i : BitVec 16), (Instr.encodeWord (.ins d side q i)).toNat
      = 0x06 * 2 ^ 26 + d.toNat * 2 ^ 21 + side.toNat * 2 ^ 20 + q.toNat * 2 ^ 18 + i.toNat)
    ∧ Instr.encodeWord (.aiShl 4 4 3) = 0x0C844003 ∧ Instr.encodeWord (.aSext 5 6 .b16) = 0x08A6081A
    ∧ Instr.encodeWord (.sBqlt 3 4) = 0x10032022

/-- R116, R138 and R28: registers a0 and s0 read zero and discard what is written to them; any other register reads what was
written last, and a write changes no other register of either file. -/
def Obligations.RegisterFiles : Prop :=
  ∀ (x : Seq) (d r : Reg) (v : Word),
    x.getA 0 = 0 ∧ x.getS 0 = 0 ∧ x.setA 0 v = x ∧ x.setS 0 v = x
      ∧ (x.setA d v).getA r = (if r = d ∧ d ≠ 0 then v else x.getA r)
      ∧ (x.setS d v).getS r = (if r = d ∧ d ≠ 0 then v else x.getS r)
      ∧ (x.setA d v).getS r = x.getS r ∧ (x.setS d v).getA r = x.getA r

/-- R120 and R141: with room in bq, the six pushes append the outcome of their comparison; with eight entries in it each raises
cause 1 and nothing of the unit takes effect. -/
def Obligations.BranchQueuePushes : Prop :=
  ∀ (s : State) (a b : Reg),
    ∀ r ∈ ([
        (.sBqeq a b, fun x y => decide (x = y)),
        (.sBqne a b, fun x y => decide (x ≠ y)),
        (.sBqlt a b, fun x y => decide (x.toInt < y.toInt)),
        (.sBqge a b, fun x y => decide (y.toInt ≤ x.toInt)),
        (.sBqltz a b, fun x y => decide (x.toNat < y.toNat)),
        (.sBqgez a b, fun x y => decide (y.toNat ≤ x.toNat))] : List (Instr × (Word → Word → Bool))),
      ((s.seq s.turn).qs.bq.length < 8 →
          ∃ t, exec r.1 s = .next t
            ∧ s.Did t fun x => { x with qs := { x.qs with bq := x.qs.bq ++ [r.2 (x.getS a) (x.getS b)] } })
        ∧ (8 ≤ (s.seq s.turn).qs.bq.length → s.Handles s.turn 1 →
          ∃ t, exec r.1 s = .next t ∧ s.Faulted t { cause := 1, tval := s.tvalWord s.turn 0 })


/-- R149 and R123: a branch compares two a-registers, changes no register, and moves the queue: Q2 becomes the target of a taken
branch, else succ(Q2); a nul field that names the outcome annuls both slots; its word holds the fields where R149 has them. -/
def Obligations.ConditionalBranches : Prop :=
  ∀ (s : State) (a b : Reg) (n : Nul) (d : BitVec 11),
    ∀ r ∈ ([
        (.bEq a b n d, 0, fun x y => decide (x = y)),
        (.bNe a b n d, 1, fun x y => decide (x ≠ y)),
        (.bLt a b n d, 2, fun x y => decide (x.toInt < y.toInt)),
        (.bGe a b n d, 3, fun x y => decide (y.toInt ≤ x.toInt)),
        (.bLtz a b n d, 4, fun x y => decide (x.toNat < y.toNat)),
        (.bGez a b n d, 5, fun x y => decide (y.toNat ≤ x.toNat))] : List (Instr × Nat × (Word → Word → Bool))),
      let x := s.seq s.turn
      let taken := r.2.2 (x.getA a) (x.getA b)
      let annul := if taken then n == .ifTaken else n == .ifNot
      (r.1.encodeWord.toNat = 0x0A * 2 ^ 26 + a.toNat * 2 ^ 21 + b.toNat * 2 ^ 16 + r.2.1 * 2 ^ 13
        + (match n with | .none => 0 | .ifNot => 1 | .ifTaken => 2) * 2 ^ 11 + d.toNat)
      ∧ ∃ t, exec r.1 s = .next t
        ∧ s.DidTo t (fun x => x) (if taken then x.pc.q0 + BitVec.ofInt 64 (4 * d.toInt) else s.succQ2 s.turn)
            (annul || x.pc.n1) annul

/-- R150, R123 and R120: bq.t and bq.f pop the first bit of bq and are taken when it is 1 and 0; an empty bq is cause 1, with nothing of
the unit done. -/
def Obligations.QueueBranches : Prop :=
  ∀ (s : State) (n : Nul) (d : BitVec 11),
    ∀ r ∈ ([(.bqT n d, true), (.bqF n d, false)] : List (Instr × Bool)),
      let x := s.seq s.turn
      (∀ bit rest, x.qs.bq = bit :: rest →
        let taken := bit == r.2
        let annul := if taken then n == .ifTaken else n == .ifNot
        ∃ t, exec r.1 s = .next t
          ∧ s.DidTo t (fun x => { x with qs := { x.qs with bq := rest } })
              (if taken then x.pc.q0 + BitVec.ofInt 64 (4 * d.toInt) else s.succQ2 s.turn) (annul || x.pc.n1) annul)
        ∧ (x.qs.bq = [] → s.Handles s.turn 1 →
          ∃ t, exec r.1 s = .next t ∧ s.Faulted t { cause := 1, tval := s.tvalWord s.turn 0 })

/-- R151, R152 and R124: j, jal and jr go to their target after two delay-slot units, which nul 10 annuls; jal writes a31 and jr
a[rd] with the address of the unit after the slots; a slot that jal or jr cannot fetch, where it writes the link, is its own fetch
fault, before any other; a target of jr that is no multiple of 4 raises cause 3 with aside = 1; nothing of a faulting jump takes
effect. -/
def Obligations.Jumps : Prop :=
  ∀ (s : State) (n : Nul) (e : BitVec 24) (d a : Reg),
    let q := s.turn
    let x := s.seq q
    let u := x.pc.q0
    let at_ := n == .ifTaken
    let goal := u + BitVec.ofInt 64 (4 * e.toInt)
    let w1 := s.fetchUnit q (u + 4)
    let v1 := u + 4 + BitVec.ofNat 64 (4 * Nat.max 1 w1.1.length)
    let w2 := s.fetchUnit q v1
    let link := v1 + BitVec.ofNat 64 (4 * Nat.max 1 w2.1.length)
    let bad := match w1.2 with | some f => some f | none => w2.2
    (∃ t, exec (.j n e) s = .next t ∧ s.DidTo t (fun x => x) goal (at_ || x.pc.n1) at_)
      ∧ (bad = none → ∃ t, exec (.jal n e) s = .next t ∧ s.DidTo t (fun x => x.setA 31 link) goal (at_ || x.pc.n1) at_)
      ∧ ((x.getA a).toNat % 4 = 0 → d = 0 ∨ bad = none →
          ∃ t, exec (.jr d a) s = .next t ∧ s.DidTo t (fun x => x.setA d link) (x.getA a) x.pc.n1 false)
      ∧ ((x.getA a).toNat % 4 ≠ 0 → d = 0 ∨ bad = none → s.Handles q 3 →
          ∃ t, exec (.jr d a) s = .next t ∧ s.Faulted t { cause := 3, tval := x.getA a, aside := true, eapc := some u })
      ∧ (∀ c va, bad = some (c, va) → s.Handles q c →
          (∃ t, exec (.jal n e) s = .next t ∧ s.Faulted t { cause := c, tval := va })
            ∧ (d ≠ 0 → ∃ t, exec (.jr d a) s = .next t ∧ s.Faulted t { cause := c, tval := va }))

/-- R153 and R120: with room in the queue x.stoa, x.atoe and x.spush append the value of their register to xa, xe and sq; with the
queue full each raises cause 1 and nothing of it takes effect. -/
def Obligations.TransferPushes : Prop :=
  ∀ (s : State) (a : Reg),
    let q := s.turn
    let k := (s.seq q).qs
    ∀ r ∈ ([
        (.xStoa a, k.xa.length, 8, fun x => { x with qs := { x.qs with xa := x.qs.xa ++ [x.getS a] } }),
        (.xAtoe a, k.xe.length, 8, fun x => { x with qs := { x.qs with xe := x.qs.xe ++ [{ val := x.getA a }] } }),
        (.xSpush a, k.sq.length, 16, fun x => { x with qs := { x.qs with sq := x.qs.sq ++ [x.getS a] } })]
      : List (Instr × Nat × Nat × (Seq → Seq))),
      (r.2.1 < r.2.2.1 → ∃ t, exec r.1 s = .next t ∧ s.Did t r.2.2.2)
        ∧ (r.2.2.1 ≤ r.2.1 → s.Handles q 1 →
          ∃ t, exec r.1 s = .next t ∧ s.Faulted t { cause := 1, tval := s.tvalWord q 0 })

/-- R153, R120, R122 and R133: x.afroms and x.sfrome pop the oldest entry of xa and xe into their register; an empty queue is
cause 1; a poisoned entry of xe raises cause 9 with the address and the word that faulted; x.drain empties the queues that its
mask names. -/
def Obligations.TransferPops : Prop :=
  ∀ (s : State) (d : Reg) (m : BitVec 8),
    let q := s.turn
    let k := (s.seq q).qs
    (∀ v rest, k.xa = v :: rest →
        ∃ t, exec (.xAfroms d) s = .next t ∧ s.Did t fun x => ({ x with qs := { x.qs with xa := rest } }).setA d v)
      ∧ (k.xa = [] → s.Handles q 1 →
        ∃ t, exec (.xAfroms d) s = .next t ∧ s.Faulted t { cause := 1, tval := s.tvalWord q 0 })
      ∧ (∀ v rest, k.xe = { val := v } :: rest →
        ∃ t, exec (.xSfrome d) s = .next t ∧ s.Did t fun x => ({ x with qs := { x.qs with xe := rest } }).setS d v)
      ∧ (k.xe = [] → s.Handles q 1 →
        ∃ t, exec (.xSfrome d) s = .next t ∧ s.Faulted t { cause := 1, tval := s.tvalWord q 0 })
      ∧ (∀ v p rest, k.xe = { val := v, bad := some p } :: rest → s.Handles q 9 →
        ∃ t, exec (.xSfrome d) s = .next t ∧ s.Faulted t { cause := 9, tval := p.addr, sub := p.cause, eapc := some p.word })
      ∧ (∃ t, exec (.xDrain m) s = .next t
        ∧ s.Did t fun x => { x with qs := {
            sq := if m.getLsbD 4 then [] else x.qs.sq
            xa := if m.getLsbD 5 then [] else x.qs.xa
            xe := if m.getLsbD 6 then [] else x.qs.xe
            bq := if m.getLsbD 7 then [] else x.qs.bq } })


/-- R154, R155 and R97: an sf word reads s-registers in its format, writes its result zero-extended to s[rd], and ORs its flags into
the scalar FFLAGS; FCTL is sampled at the unit. -/
def Obligations.ScalarFloat : Prop :=
  ∀ (s : State) (d a b : Reg) (t : FpFmt),
    ∀ r ∈ ([
        (.sfAdd d a b t, fun f c x y _ => fpAdd f c x y),
        (.sfSub d a b t, fun f c x y _ => fpSub f c x y),
        (.sfMul d a b t, fun f c x y _ => fpMul f c x y),
        (.sfDiv d a b t, fun f c x y _ => fpDiv f c x y),
        (.sfSqrt d a t, fun f c x _ _ => fpSqrt f c x),
        (.sfMin d a b t, fun f c x y _ => fpMinMax f c false x y),
        (.sfMax d a b t, fun f c x y _ => fpMinMax f c true x y),
        (.sfFma d a b t, fun f c x y z => fpFma f c false false x y z),
        (.sfCvfi d a t, fun f c x _ _ =>
          let v := (BitVec.ofNat 64 x).toInt
          f.convert c c.sat (.fin (decide (v < 0)) v.natAbs 0)),
        (.sfCvif d a t, fun f c x _ _ =>
          ((toIntFmt true 64 c.mode (fpOperand f c x).2.1).1,
            (toIntFmt true 64 c.mode (fpOperand f c x).2.1).2 ||| (fpOperand f c x).2.2)),
        (.sfCvff d a t, fun f c x _ _ => convertElem f (.ieee .f32) c false (x % 2 ^ f.width)),
        (.sfLt d a b t, fun f c x y _ => ((fpCmp f c .lt x y).1.toNat, (fpCmp f c .lt x y).2)),
        (.sfEq d a b t, fun f c x y _ => ((fpCmp f c .eq x y).1.toNat, (fpCmp f c .eq x y).2)),
        (.sfLe d a b t, fun f c x y _ => ((fpCmp f c .le x y).1.toNat, (fpCmp f c .le x y).2))]
      : List (Instr × (Fmt → FCtl → Nat → Nat → Nat → Nat × FFlags))),
      ∃ u, exec r.1 s = .next u ∧ s.Did u fun x =>
        let v := r.2 (.ieee t) (FCtl.of x.csr.fctl) (x.getS a).toNat (x.getS b).toNat (x.getS d).toNat
        ({ x with csr := { x.csr with fflags := x.csr.fflags ||| v.2 } }).setS d (BitVec.ofNat 64 v.1)

/-- R94, R95 and R97: what arithmetic does with infinities, zeros and NaNs, with its flags, in every rounding mode. R98: RoundTo returns
a number that the format holds unchanged and without flags, in every mode. -/
def Obligations.RoundingAndSpecials : Prop :=
  (∀ (t : FpFmt) (c : FCtl) (n k : Bool),
      let f : Fmt := .ieee t
      let sign (b : Bool) : Nat := if b then 2 ^ (f.width - 1) else 0
      let inf (b : Bool) : Nat := sign b + (match t with | .h => 0x7C00 | .bf => 0x7F80 | .f32 => 0x7F800000 | .f64 => 0x7FF0000000000000)
      let one (b : Bool) : Nat := sign b + (match t with | .h => 0x3C00 | .bf => 0x3F80 | .f32 => 0x3F800000 | .f64 => 0x3FF0000000000000)
      let qnan : Nat := match t with | .h => 0x7E00 | .bf => 0x7FC0 | .f32 => 0x7FC00000 | .f64 => 0x7FF8000000000000
      let snan : Nat := inf n + 1
      fpAdd f c (inf n) (inf !n) = (qnan, fNV) ∧ fpAdd f c (inf n) (inf n) = (inf n, 0)
        ∧ fpSub f c (inf n) (inf n) = (qnan, fNV)
        ∧ fpMul f c (sign n) (inf k) = (qnan, fNV) ∧ fpMul f c (inf n) (one k) = (inf (n != k), 0)
        ∧ fpDiv f c (one n) (sign k) = (inf (n != k), fDZ) ∧ fpDiv f c (sign n) (sign k) = (qnan, fNV)
        ∧ fpDiv f c (inf n) (inf k) = (qnan, fNV)
        ∧ fpSqrt f c (sign true) = (sign true, 0) ∧ fpSqrt f c (one true) = (qnan, fNV)
        ∧ fpFma f c false false (sign n) (inf k) qnan = (qnan, fNV)
        ∧ fpAdd f c snan (one k) = (qnan, fNV) ∧ fpMul f c qnan (one k) = (qnan, 0)
        ∧ fpMinMax f c false (sign true) (sign false) = (sign true, 0) ∧ fpMinMax f c true (sign true) (sign false) = (sign false, 0)
        ∧ fpMinMax f c n qnan (one k) = (qnan, 0) ∧ fpMinMax f c k snan (one k) = (qnan, fNV)
        ∧ fpCmp f c .eq qnan (one k) = (false, 0) ∧ fpCmp f c .lt qnan (one k) = (false, fNV)
        ∧ fpCmp f c .le (one k) qnan = (false, fNV) ∧ fpCmp f c .eq snan (one k) = (false, fNV)
        ∧ fpCmp f c .eq (sign true) (sign false) = (true, 0) ∧ fpCmp f c .lt (one true) (one false) = (true, 0))
    ∧ (∀ (t : FpFmt) (c : FCtl) (bits : Nat) (neg : Bool) (m : Nat) (e : Int),
      bits < 2 ^ (Fmt.ieee t).width → decodeIeee t bits = .fin neg m e →
      c.flushOut = false ∨ 2 ^ (Fmt.ieee t).tbits ≤ m ∨ m = 0 →
      (Exact.val neg m e false).round (.ieee t) c = (bits, 0))


/-- R174 and R15: with no reclaim pending, outside a frozen trap and with a usable vtype in s[rb], vc.setvl sets VTYPE, and VL to the
least of s[ra] and VLMAX, and returns VL; vc.setvlmax sets VL to VLMAX. A vtype that cannot be used raises cause 12, a frozen vector
unit cause 24, which fails the launch. -/
def Obligations.SetVectorLength : Prop :=
  ∀ (s : State) (d a b : Reg),
    let q := s.turn
    let x := s.seq q
    let vt := x.getS b
    let most := (List.range 4).countP (x.grant.getLsbD ·) * (1024 / codeWidth (vtFmt vt) * 2 ^ fld vt 8 2)
    ∀ r ∈ ([(.vcSetvl d a b, Nat.min (x.getS a).toNat most), (.vcSetvlmax d b, most)] : List (Instr × Nat)),
      (x.frozen = false → x.reclaim = none → vtUsable vt = true →
        ∃ t, exec r.1 s = .next t
          ∧ s.Did t fun x => { x with csr := { x.csr with vtype := vt, vl := r.2 } }.setS d (BitVec.ofNat 64 r.2))
        ∧ (x.frozen = false → x.reclaim = none → vtUsable vt = false → s.Handles q 12 →
          ∃ t, exec r.1 s = .next t ∧ s.Faulted t { cause := 12, tval := s.tvalWord q 0 })
        ∧ (x.frozen = true → ∀ l, s.launch? x.cur.partition x.cur.seq = some l → l.lstate < 4 →
          ∃ t, exec r.1 s = .next t ∧ t.Fails x.cur.partition x.cur.seq)

/-- R137, R39, R129, R99 and R183: what a read of each listed CSR returns, by kc.r and by the kc words that write nothing; a number
that the list does not define raises cause 1 in every kc word. -/
def Obligations.CsrReads : Prop :=
  ∀ (s : State) (d a : Reg) (c : BitVec 14),
    let q := s.turn
    let x := s.seq q
    let bits (l : List Bool) : Nat := l.foldr (fun b r => b.toNat + 2 * r) 0
    let lane (l : Nat) : FFlags := if x.grant.getLsbD (l / 8) then FMap.get 0 (s.core (coreOf q)).laneFlags l else 0
    let part := s.part x.cur.partition
    let list : List (BitVec 14 × Word) := [
      (0x001, x.csr.fctl), (0x002, ((List.range 32).foldl (fun f l => f ||| lane l) x.csr.fflags).zeroExtend 64),
      (0x003, x.csr.vtype), (0x004, BitVec.ofNat 64 x.csr.vl), (0x005, BitVec.ofNat 64 x.cur.det.toNat), (0x006, x.csr.mskip),
      (0x008, BitVec.ofNat 64 q), (0x009, BitVec.ofNat 64 (q / 4)), (0x00A, BitVec.ofNat 64 x.cur.seq),
      (0x00B, x.csr.winno.zeroExtend 64), (0x010, x.csr.cycle), (0x011, x.csr.units), (0x012, x.csr.stallq),
      (0x013, x.csr.stalls), (0x014, x.csr.stallb), (0x015, x.csr.stallm), (0x018, x.csr.skipcnt), (0x020, x.csr.npv0),
      (0x021, x.csr.npv1), (0x022, x.csr.npv2), (0x023, x.csr.npv3), (0x030, x.csr.sampctl), (0x031, x.csr.sampbase),
      (0x100, x.tr.tvec), (0x101, x.tr.tcause), (0x102, x.tr.tval), (0x103, x.tr.epc0), (0x104, x.tr.epc1), (0x105, x.tr.epc2),
      (0x106, x.tr.enul.zeroExtend 64), (0x107, x.tr.eapc), (0x108, BitVec.ofNat 64 (x.rstgRead 0)),
      (0x109, BitVec.ofNat 64 (x.rstgRead 1)), (0x10A, BitVec.ofNat 64 (x.rstgRead 2)), (0x10B, BitVec.ofNat 64 (x.rstgRead 3)),
      (0x10C, x.tr.claimbase),
      (0x10D, BitVec.ofNat 64 (bits [x.tr.inTrap, x.tr.claimed, x.tr.ie, x.tr.pie, x.tr.qpend.getLsbD 0, x.tr.qpend.getLsbD 1,
        x.tr.dbpend])),
      (0x10E, x.grant.zeroExtend 64), (0x10F, x.tr.tcmp), (0x200, BitVec.ofNat 64 (bits [part.brkstop, part.watchstop])),
      (0x201, x.csr.dwbase), (0x202, x.csr.dwlen)]
    (∀ r ∈ list, ∀ i ∈ [Instr.kcR d r.1, .kcRs d 0 r.1, .kcRc d 0 r.1],
        ∃ t, exec i s = .next t ∧ s.Did t fun x => x.setS d r.2)
      ∧ (c ∉ list.map Prod.fst → s.Handles q 1 → ∀ i ∈ [Instr.kcR d c, .kcRw d a c, .kcRs d a c, .kcRc d a c],
        ∃ t, exec i s = .next t ∧ s.Faulted t { cause := 1, tval := s.tvalWord q 0 })

/-- R39 with the field rules of R97, R99, R129, R131, R137, R230 and R312: a kc word returns the old value and writes what its
operation makes of it, field by field; the flags are written in the sequencer and in each granted lane; a read-only CSR raises
cause 1. -/
def Obligations.CsrWrites : Prop :=
  ∀ (s : State) (d a : Reg),
    let q := s.turn
    let x := s.seq q
    let v := x.getS a
    let ctl (o n : Word) : Word :=
      let per := if fld n 1 5 ≤ 20 then fld n 1 5 else fld o 1 5
      let size := if fld n 8 4 ≤ 12 then fld n 8 4 else fld o 8 4
      let full := if v.getLsbD 7 then 0 else fld o 7 1
      BitVec.ofNat 64 (fld n 0 1 + 2 * per + 64 * fld n 6 1 + 128 * full + 256 * size + 2 ^ 32 * fld n 32 32)
    ∀ op ∈ ([(.kcRw d a, true, fun _ w => w), (.kcRs d a, false, fun o w => o ||| w), (.kcRc d a, false, fun o w => o &&& ~~~w)]
        : List ((BitVec 14 → Instr) × Bool × (Word → Word → Word))),
      op.2.1 = true ∨ a ≠ 0 →
      (∀ r ∈ ([
          (0x001, fun x n => { x with csr := { x.csr with
            fctl := (if fld n 0 3 < 5 then n &&& 0x7 else x.csr.fctl &&& 0x7) ||| (n &&& 0x38) } }),
          (0x006, fun x n => { x with csr := { x.csr with mskip := n &&& 0xFFFFFFFF80000000 } }),
          (0x030, fun x n => { x with csr := { x.csr with sampctl := ctl x.csr.sampctl n } }),
          (0x031, fun x n => { x with csr := { x.csr with sampbase := n &&& ~~~31 } }),
          (0x100, fun x n => { x with tr := { x.tr with tvec := n &&& ~~~3 } }),
          (0x103, fun x n => { x with tr := { x.tr with epc0 := n &&& ~~~3 } }),
          (0x104, fun x n => { x with tr := { x.tr with epc1 := n &&& ~~~3 } }),
          (0x105, fun x n => { x with tr := { x.tr with epc2 := n &&& ~~~3 } }),
          (0x106, fun x n => { x with tr := { x.tr with enul := n.extractLsb' 0 4 } }),
          (0x108, fun x n => { x with csr := { x.csr with rstg0 := n.toNat % 256 } }),
          (0x109, fun x n => { x with csr := { x.csr with rstg1 := n.toNat % 256 } }),
          (0x10A, fun x n => { x with csr := { x.csr with rstg2 := n.toNat % 256 } }),
          (0x10B, fun x n => { x with csr := { x.csr with rstg3 := n.toNat % 256 } }),
          (0x10C, fun x n => { x with tr := { x.tr with claimbase := n &&& ~~~63 } }),
          (0x10D, fun x n => { x with tr := { x.tr with
            ie := n.getLsbD 2, pie := n.getLsbD 3, dbpend := x.tr.dbpend && !v.getLsbD 6 } }),
          (0x10F, fun x n => { x with tr := { x.tr with tcmp := n } }),
          (0x201, fun x n => { x with csr := { x.csr with dwbase := n } }),
          (0x202, fun x n => { x with csr := { x.csr with dwlen := n &&& 0x3FFFFFFFF } })]
        : List (BitVec 14 × (Seq → Word → Seq))),
        ∀ old, s.readCsr q r.1.toNat = some old →
        ∃ t, exec (op.1 r.1) s = .next t ∧ (s.Did t fun x => (r.2 x (op.2.2 old v)).setS d old)
          ∧ (x.resume = false → ∀ g, (t.seq q).csr.rstg g = (r.2 x (op.2.2 old v)).csr.rstg g))
      ∧ (∃ t, exec (op.1 2) s = .next t
          ∧ s.DidInCore t (fun x =>
              { x with csr := { x.csr with fflags := (op.2.2 (x.csr.fflags.zeroExtend 64) v).extractLsb' 0 7 } }.setS d
                ((s.readFflags q).zeroExtend 64))
          ∧ ∀ l, l < 32 → FMap.get 0 (t.core (coreOf q)).laneFlags l
              = (let f := FMap.get 0 (s.core (coreOf q)).laneFlags l
                if x.grant.getLsbD (l / 8) then (op.2.2 (f.zeroExtend 64) v).extractLsb' 0 7 else f))
      ∧ ∀ c ∈ ([3, 4, 5, 8, 9, 0xA, 0xB, 0x10, 0x11, 0x12, 0x13, 0x14, 0x15, 0x18, 0x20, 0x21, 0x22, 0x23, 0x101, 0x102, 0x107,
          0x10E, 0x200] : List (BitVec 14)),
        s.Handles q 1 → ∃ t, exec (op.1 c) s = .next t ∧ s.Faulted t { cause := 1, tval := s.tvalWord q 0 }

/-- R157, R158 and R126: k.nop retires and does nothing else; k.trap and k.brk complete, then enter the handler with the queue moved
on, causes 15 and 16 and TVAL the code and 0; with brkstop set k.brk enters no handler and every sequencer of the launch stops, its
own at the unit after the k.brk; a tile multiply stopped between segments has its restart registers zero. -/
def Obligations.NopTrapBreak : Prop :=
  ∀ (s : State) (c : Reg),
    let q := s.turn
    let x := s.seq q
    (∃ t, exec .kNop s = .next t ∧ s.Did t fun x => x)
      ∧ (s.Handles q 15 →
        ∃ t, exec (.kTrap c) s = .next t ∧ s.Trapped t q (s.nextPc q .on) 1 { cause := 15, tval := c.zeroExtend 64 })
      ∧ ((s.part x.cur.partition).brkstop = false → s.Handles q 16 →
        ∃ t, exec .kBrk s = .next t ∧ s.Trapped t q (s.nextPc q .on) 1 { cause := 16, tval := 0 })
      ∧ ((s.part x.cur.partition).brkstop = true → x.live = true →
        ∃ t, exec .kBrk s = .next t ∧ (t.seq q).pc.q0 = x.pc.q1 ∧ (t.seq q).pc.q1 = x.pc.q2 ∧ (t.seq q).stopped = true ∧ (t.seq q).tr = x.tr
          ∧ (∀ r, r ≠ q → (s.seq r).live = true → (s.seq r).cur.partition = x.cur.partition → (s.seq r).cur.seq = x.cur.seq →
              t.seq r = { s.stopSeq r (s.seq r) with stopped := true })
          ∧ s.SameMemory t)

/-- R132 and R159: k.eret leaves a trap whose vector state has not been claimed: the queues return from the shadow, ie takes pie,
in_trap clears, the link goes, and the program counter queue takes EPC0 to EPC2 and ENUL, provisional entries formed again; outside
a trap it raises cause 1.
The model's choices it rests on: log entry 16. -/
def Obligations.TrapReturn : Prop :=
  ∀ (s : State),
    let q := s.turn
    let x := s.seq q
    let e := x.tr.enul
    let p1 := if e.getLsbD 2 then s.succ q x.tr.epc0 false else (x.tr.epc1, false)
    let p2 := if e.getLsbD 3 then s.succ q p1.1 p1.2 else (x.tr.epc2, false)
    (x.tr.inTrap = true → x.tr.claimed = false →
      ∃ t, exec .kEret s = .next t ∧ s.OnlySeq t q
        ∧ (t.seq q).pc.q0 = x.tr.epc0 ∧ (t.seq q).pc.q1 = p1.1 ∧ (t.seq q).pc.q2 = p2.1
        ∧ (t.seq q).pc.n0 = e.getLsbD 0 ∧ (t.seq q).pc.n1 = e.getLsbD 1
        ∧ (t.seq q).tr = { x.tr with ie := x.tr.pie, inTrap := false, claimed := false, qpend := 0 }
        ∧ (t.seq q).csr.units = x.csr.units + 1 ∧ (t.seq q).resume = true ∧ (∀ g, (t.seq q).csr.rstg g = x.csr.rstg g)
        ∧ { x with tr := (t.seq q).tr, qs := x.shadow, shadow := {}, link := .none }.Kept (t.seq q))
      ∧ (x.tr.inTrap = false → s.Handles q 1 →
        ∃ t, exec .kEret s = .next t ∧ s.Faulted t { cause := 1, tval := s.tvalWord q 0 })

/-- R130, R131 and R159: k.claim writes GRANT, VL, VTYPE, the counts and entries of the queue shadow, the granted groups' registers,
masks and lane flags, and zeros elsewhere, to the claim area, sets claimed and changes nothing else of the machine: a scratchpad area
is written at once, one in memory is put last in the store buffer, piece after piece. Claimed already, it does nothing; outside a trap
it raises cause 1; with an area that cannot be written it is a double trap, which fails the launch. Stated of a launch that does not
log, and of a scratchpad area while all stores of the sequencer are performed.
The model's choices it rests on: log entry 107. -/
def Obligations.ClaimSpills : Prop :=
  ∀ (s : State),
    let q := s.turn
    let x := s.seq q
    let k := s.core (coreOf q)
    let h := x.shadow
    let base := x.tr.claimbase.toNat
    let o := base - padBase
    let c := clusterOf q
    let area (r : Nat → Nat → Nat) : Prop :=
      r 0 8 = x.grant.toNat ∧ r 8 8 = x.csr.vl % 2 ^ 64 ∧ r 0x10 8 = x.csr.vtype.toNat
        ∧ r 0x18 8 = (h.sq.length + h.xa.length * 2 ^ 8 + h.xe.length * 2 ^ 16 + h.bq.length * 2 ^ 24) % 2 ^ 64
        ∧ r 0x20 8 = h.bq.foldr (fun b n => b.toNat + 2 * n) 0 % 2 ^ 64
        ∧ (∀ i : Nat, i < 8 → r (0x40 + 8 * i) 8 = (h.xa.getD i 0).toNat ∧ r (0x80 + 8 * i) 8 = ((h.xe.map XeEntry.val).getD i 0).toNat)
        ∧ (∀ i : Nat, i < 16 → r (0xC0 + 8 * i) 8 = (h.sq.getD i 0).toNat)
        ∧ (∀ g j : Nat, g < 4 → j < 32 → r (0x400 + (32 * g + j) * 128) 128
            = if x.grant.getLsbD g then (FMap.get 0 k.vreg (32 * g + j)).toNat else 0)
        ∧ (∀ g j : Nat, g < 4 → j < 8 → r (0x4400 + (4 * j + g) * 16) 16
            = if x.grant.getLsbD g then (FMap.get 0 k.mask (8 * g + j)).toNat else 0)
        ∧ (∀ g l : Nat, g < 4 → l < 8 → r (0x4600 + 8 * g + l) 1
            = if x.grant.getLsbD g then (FMap.get 0 k.laneFlags (8 * g + l)).toNat else 0)
        ∧ ∀ a : Nat, 0x28 ≤ a ∧ a < 0x40 ∨ 0x140 ≤ a ∧ a < 0x400 ∨ 0x4620 ≤ a ∧ a < 0x4800 → r a 1 = 0
    (x.tr.inTrap = true → x.tr.claimed = false → x.cur.log = 0 → s.storesOpen q = false → padBase ≤ base →
      base + 0x4800 ≤ padBase + padSize →
      ∃ t, exec .kClaim s = .next t ∧ s.MovedOn t q
        ∧ { x with tr := { x.tr with claimed := true } }.Kept (t.seq q) ∧ (∀ r, r ≠ q → t.seq r = s.seq r)
        ∧ t.core (coreOf q) = { k with progress := (t.core (coreOf q)).progress } ∧ s.SameMemory t
        ∧ area (fun a n => ofBytes ((t.pad c).read 0 0 (o + a) n))
        ∧ (∀ a, a < o ∨ o + 0x4800 ≤ a → FMap.get 0 (t.pad c).sp a = FMap.get 0 (s.pad c).sp a)
        ∧ (∀ i, i ≠ c → t.cluster i = s.cluster i)
        ∧ t.cluster c = { s.cluster c with pad := { s.pad c with sp := (t.pad c).sp } })
      ∧ (∀ X : Nat → Xlat, x.tr.inTrap = true → x.tr.claimed = false → x.cur.log = 0 →
        (∀ va n, base ≤ va → 0 < n → va + n ≤ base + 0x4800 → va % 128 + n ≤ 128 →
          s.locate q va n .write = .ok (.glob (X va)) ∧ aStore (X va).attr ≠ 3) →
        ∃ t ss, exec .kClaim s = .next t ∧ s.MovedOn t q ∧ s.OnlySeq t q
          ∧ { x with tr := { x.tr with claimed := true }, stores := x.stores ++ ss }.Kept (t.seq q)
          ∧ (let ps := (ss.map PStore.parts).flatten
            area (fun a n => ofBytes ((((ps.map Prod.snd).flatten.drop a).take n)))
              ∧ (ps.map Prod.snd).flatten.length = 0x4800
              ∧ ∀ l e r, ps = l ++ e :: r → e.1 = (X (base + (l.map Prod.snd).flatten.length)).pa))
      ∧ (x.tr.inTrap = true → x.tr.claimed = true → ∃ t, exec .kClaim s = .next t ∧ s.Did t fun x => x)
      ∧ (x.tr.inTrap = false → s.Handles q 1 →
        ∃ t, exec .kClaim s = .next t ∧ s.Faulted t { cause := 1, tval := s.tvalWord q 0 })
      ∧ ∀ l e, x.tr.inTrap = true → x.tr.claimed = false → s.launch? x.cur.partition x.cur.seq = some l → l.lstate < 4 →
        s.locate q base (128 - base % 128) .write = .error e → e ≠ 17 → e ≠ 19 →
        ∃ t, exec .kClaim s = .next t ∧ t.Fails x.cur.partition x.cur.seq

/-- R160, R135, R162, R165 and R186: k.wfi completes with an interrupt pending and waits without one,
kept as a unit that has begun, so that the interrupt is taken after it; k.fence completes once what it
waits for is done, and waits before, at fabric scope until every earlier peer store is acknowledged (R410); one that only orders stores after stores completes at once and leaves a mark behind the earlier
ones in the store buffer; k.yield outside a trap and without matrix mode gives up the lane groups that s[ra] elements do not need.
The model's choices it rests on: log entries 64 and 94. -/
def Obligations.WaitFenceYield : Prop :=
  ∀ (s : State) (a f : Reg),
    let q := s.turn
    let x := s.seq q
    let pending := (x.tr.tcmp ≠ 0 ∧ x.tr.tcmp.toNat ≤ (if x.cur.det then x.csr.units else x.csr.cycle).toNat) ∨ x.tr.dbpend = true
    let per := vtPer x.csr.vtype
    let need := if per = 0 then 0 else ((x.getS a).toNat + per - 1) / per
    (x.tr.inTrap = false → pending ∨ x.woken = true → ∃ t, exec .kWfi s = .next t ∧ s.Did t fun x => x)
      ∧ (x.tr.inTrap = false → ¬pending → x.woken = false → ∃ t, exec .kWfi s = .next t
        ∧ (s.modSeq q fun x => { x with wfi := some x.csr.units }).Waits t q)
      ∧ (∀ c, x.peerErr = none → x.enginesQuiet = true → s.storesOpen q = false →
        ∃ t, exec (.kFence c f) s = .next t ∧ s.Did t fun x => x)
      ∧ (∀ c, x.peerErr = none → f.getLsbD 4 = true → x.enginesQuiet = false →
        ∃ t, exec (.kFence c f) s = .next t ∧ s.Waits t q)
      ∧ (∀ c, x.peerErr = none → s.storesOpen q = true → f.getLsbD 1 = true → f.getLsbD 2 = true →
        ∃ t, exec (.kFence c f) s = .next t ∧ s.Waits t q)
      ∧ (x.peerErr = none → s.peerOpen q = true → ∃ t, exec (.kFence 5 f) s = .next t ∧ s.Waits t q)
      ∧ (∀ c, c ≠ 5 → s.storesOpen q = true → f = 0b01010 → ∃ t m, exec (.kFence c f) s = .next t
        ∧ m.parts = [] ∧ s.Did t fun x => { x with stores := x.stores ++ [m] })
      ∧ (x.tr.inTrap = false → x.reclaim = none → (s.core (coreOf q)).holder ≠ some q →
        ∃ t, exec (.kYield a) s = .next t ∧ s.MovedOn t q ∧ s.OnlyCore t q ∧ s.Shrunk t q need
          ∧ { x with grant := (t.seq q).grant, csr := { x.csr with vl := (t.seq q).csr.vl } }.Kept (t.seq q))

/-- R161, R20, R21 and R366: k.end waits until the sequencer's stores, engine commands, appends and collectives are done. It then ORs
the sequencer's flags into the completion word and counts it as ended, in one write, and gives up the slot: the record goes and the
next one stays, matrix mode ends, the granted lane groups are zero, registers and counters keep their last values, UNITS counting the k.end, and no
other sequencer changes. With the last range ended the launch is complete: status 1 in the completion word, journal state 4. In a trap it is
a double trap, which fails the launch. Stated of a launch that does not log, with no error held, no handle open, no preload running and
no replay, of a completion word that can be written, in no frozen frame and no row that is being copied, and that no host copy
holds.
The model's choices it rests on: log entry 30. -/
def Obligations.EndLeavesSlot : Prop :=
  ∀ (s : State) (l : Launch),
    let q := s.turn
    let x := s.seq q
    let k := s.core (coreOf q)
    let p := x.cur.partition
    let n := x.cur.seq
    let out (per i : Nat) : Prop := x.grant.getLsbD (i / per) = true ∧ i < 4 * per
    let flags := (List.range 32).foldl (fun f i => f ||| if x.grant.getLsbD (i / 8) then FMap.get 0 k.laneFlags i else 0) x.csr.fflags
    let word (v : Nat) : Nat := (v % 2 ^ 16 ||| flags.toNat) + v / 2 ^ 16 % 2 ^ 16 * 2 ^ 16 + (v / 2 ^ 32 + 1) % 2 ^ 32 * 2 ^ 32
    let ended := l.ranges.map fun r => if r.q = q ∧ r.ended = false then { r with ended := true } else r
    let left (t : State) : Prop :=
      t.seq q = { Seq.idle with
          next := x.next, hserial := x.hserial, gen := x.gen, a := x.a, s := x.s, pc := x.pc
          csr := { x.csr with units := x.csr.units + 1 } }
        ∧ (∀ r, r ≠ q → t.seq r = s.seq r)
        ∧ (∀ i, out 32 i → FMap.get 0 (t.core (coreOf q)).vreg i = 0) ∧ (∀ i, out 8 i → FMap.get 0 (t.core (coreOf q)).mask i = 0)
        ∧ (∀ i, out 8 i → FMap.get 0 (t.core (coreOf q)).laneFlags i = 0)
        ∧ (∀ i, out 32768 i → FMap.get 0 (t.core (coreOf q)).sram i = 0) ∧ (t.core (coreOf q)).holder ≠ some q
    (x.tr.inTrap = true → s.launch? p n = some l → l.lstate < 4 →
      ∃ t, exec .kEnd s = .next t ∧ t.Fails p n)
      ∧ (x.tr.inTrap = false → s.storesOpen q = true ∨ x.enginesQuiet = false → ∃ t, exec .kEnd s = .next t ∧ s.Waits t q)
      ∧ ∀ x' : Xlat, x.tr.inTrap = false → s.storesOpen q = false → x.enginesQuiet = true → x.peerErr = none → x.tags = [] →
        x.handles = [] → x.replay = none → x.cur.log = 0 → s.launch? p n = some l → l.log = 0 → x.preloading = false →
        (s.part p).egressOwner ≠ some q →
        s.translate (coreOf q) l.asid p l.cwordVa 8 .write = .ok x' → regionOf x'.pa = .device → x'.pa % 8 = 0 → aStore x'.attr ≠ 3 →
        s.needsFill x'.pa 8 (aStore x'.attr == 1) = false → s.badSector (dieOf q) x'.pa 8 = none → s.isFrozen x'.pa = false →
        s.writeHeld x'.pa = false →
        FMap.get false s.hostLines (x'.pa / 128) = false → FMap.get false s.backInval (x'.pa / 128) = false →
        let v := word (ofBytes (s.readPhys x'.pa 8))
        ((∃ r ∈ ended, r.ended = false) →
            (l.gang = false ∨ ∀ r, r ≠ q → (s.seq r).live = true → (s.seq r).key = (p, n) → (s.seq r).mark ≠ .arrived) →
            ∃ t l', exec .kEnd s = .next t ∧ left t ∧ t.launch? p n = some l'
              ∧ l' = { l with ranges := ended, cword := BitVec.ofNat 64 v, barUsed := l'.barUsed }
              ∧ (s.PlainHomes → s.MemWrote t x'.pa (toBytes 8 v)))
          ∧ ((∀ r ∈ ended, r.ended = true) → (∃ e, s.cached (coreOf q) l.asid l.cwordVa = some e) → s.PlainHomes →
            ∃ t l', exec .kEnd s = .next t ∧ left t ∧ t.launch? p n = some l' ∧ l'.lstate = 4 ∧ l'.ranges = ended
              ∧ l'.cword = BitVec.ofNat 64 (v % 2 ^ 16 + 2 ^ 16 + v / 2 ^ 32 * 2 ^ 32))

/-- R163 and R372: k.launch returns the code that refuses its packet, or the sequence number that the accepted launch takes. R164 and
R394: k.egress returns 1 while another sequencer has the egress path of the partition; it takes the free path; with the path it returns
the code that refuses its descriptor, or 0 with one more frame in the clip, and gives the path back. A misaligned address raises cause
3 in both.
The model's choices it rests on: log entry 56. -/
def Obligations.LaunchAndEgress : Prop :=
  (∀ (s : State) (d a : Reg) (b : List Byte) (l : Launch),
      let q := s.turn
      let x := s.seq q
      let va := x.getS a
      let p := x.cur.partition
      let pk := wordsOf b 8
      let prio := Nat.min (fld (pk.getD 0 0) 61 2) l.prio
      let code := s.acceptCode p (some x.cur.seq) x.cur.asid prio pk
      (va.toNat % 64 = 0 → s.storesOpen q = false → s.readVa q va.toNat 64 = .ok b → s.launch? p x.cur.seq = some l →
        (code ≠ 0 → ∃ t, exec (.kLaunch d a) s = .next t
            ∧ s.Did t fun x => x.setS d (BitVec.ofNat 64 (code * 2 ^ 32 + 2 ^ 63)))
          ∧ (code = 0 → x.cur.log = 0 → ∃ t, exec (.kLaunch d a) s = .next t
            ∧ (x.setS d (BitVec.ofNat 64 (s.part p).jhead.toNat)).Kept (t.seq q)
            ∧ (t.part p).jhead = nextSeq (s.part p).jhead))
        ∧ (va.toNat % 64 ≠ 0 → s.Handles q 3 → ∃ t, exec (.kLaunch d a) s = .next t ∧ s.Faulted t { cause := 3, tval := va }))
    ∧ (∀ (s : State) (d a : Reg) (b : List Byte),
      let q := s.turn
      let x := s.seq q
      let va := x.getS a
      let p := x.cur.partition
      let code := (s.part p).egressCode b
      (va.toNat % 64 = 0 → s.storesOpen q = false → s.readVa q va.toNat 64 = .ok b →
        (∀ o, s.egressBy p = some o → o ≠ q → ∃ t, exec (.kEgress d a) s = .next t ∧ s.Did t fun x => x.setS d 1)
          ∧ (s.egressBy p = none → ∃ t, exec (.kEgress d a) s = .next t
            ∧ (t.part p).egressOwner = some q ∧ (t.seq q).pc = x.pc ∧ s.SameMemory t)
          ∧ (s.egressBy p = some q → code ≠ 0 → ∃ t, exec (.kEgress d a) s = .next t
            ∧ (x.setS d (BitVec.ofNat 64 code)).Kept (t.seq q) ∧ (t.seq q).pc.q0 = x.pc.q1
            ∧ (t.part p) = { s.part p with egressOwner := none } ∧ s.SameMemory t)
          ∧ (∀ rows chroma, s.egressBy p = some q → code = 0 → x.cur.log = 0 →
            s.readRows q (readEDesc b) 0 (readEDesc b).height [] = .ok rows →
            s.readVa q (readEDesc b).chroma (readEDesc b).clen = .ok chroma →
            ∃ t, exec (.kEgress d a) s = .next t ∧ (x.setS d 0).Kept (t.seq q) ∧ (t.seq q).pc.q0 = x.pc.q1
              ∧ (t.part p).egressOwner = none
              ∧ (t.part p).clipFrames = (if (readEDesc b).open_ then 0 else (s.part p).clipFrames) + 1))
        ∧ (va.toNat % 64 ≠ 0 → s.Handles q 3 → ∃ t, exec (.kEgress d a) s = .next t ∧ s.Faulted t { cause := 3, tval := va }))


/-- R143, R144, R133, R146 and R312: a load whose address passes the checks writes the bytes at its address, extended as its width
directs, to a[rd], or appends them to xe with dq = 1; the first check that fails is a trap of that cause with aside = 1 and EAPC the
word, or with dq = 1 a poisoned entry of xe that carries the cause, the address and the word. Stated of a sequencer whose stores are
all performed, for the scratchpad and for device memory, whose sectors, like those of the tables, need no fill first; the value of a poisoned entry is free.
The model's choices it rests on: log entry 34. -/
def Obligations.Loads : Prop :=
  ∀ (s : State) (d a : Reg) (w : Width) (dq : Bool) (o : MemOrd) (i : BitVec 10),
    let q := s.turn
    let x := s.seq q
    let ea := x.getA a + i.signExtend 64
    let n := match w with | .s8 => 1 | .z8 => 1 | .s16 => 2 | .z16 => 2 | .s32 => 4 | .z32 => 4 | .w64 => 8
    let extend (b : List Byte) : Word :=
      let v := BitVec.ofNat (8 * n) (ofBytes b)
      match w with
      | .s8 => v.signExtend 64 | .s16 => v.signExtend 64 | .s32 => v.signExtend 64 | .w64 => v.zeroExtend 64
      | .z8 => v.zeroExtend 64 | .z16 => v.zeroExtend 64 | .z32 => v.zeroExtend 64
    let put (e : XeEntry) (x : Seq) : Seq := { x with qs := { x.qs with xe := x.qs.xe ++ [e] } }
    let p := s.pad (clusterOf q)
    let bytes : Except Nat (List Byte) :=
      if ea.toNat % n ≠ 0 then .error 3
      else match s.locate q ea.toNat n .read with
        | .error c => .error c
        | .ok l =>
          if x.watches false ea.toNat n then .error 17
          else match l with
            | .pad off => if (p.bad 0 0 off n).isSome then .error 19 else .ok (p.read 0 0 off n)
            | .glob t => if (s.badSector (dieOf q) t.pa n).isSome then .error 19 else .ok (s.readPhys t.pa n)
    let device : Prop := ∀ t, s.locate q ea.toNat n .read = .ok (.glob t) →
      regionOf t.pa = .device ∧ s.needsFill t.pa n (aStore t.attr == 1) = false
    s.storesOpen q = false → s.tablesWait q ea.toNat = false → device →
      ((dq = true → 8 ≤ x.qs.xe.length → s.Handles q 1 →
          ∃ t, exec (.ld d a w dq o i) s = .next t ∧ s.Faulted t { cause := 1, tval := s.tvalWord q 0 })
        ∧ (dq = true → x.qs.xe.length < 8 →
          match bytes with
          | .ok b => ∃ t, exec (.ld d a w dq o i) s = .next t ∧ s.Did t (put { val := extend b })
          | .error c =>
            if c = 17 then s.Handles q 17 →
              ∃ t, exec (.ld d a w dq o i) s = .next t ∧ s.Faulted t { cause := 17, tval := ea, aside := true, eapc := some x.pc.q0 }
            else ∃ t v, exec (.ld d a w dq o i) s = .next t
              ∧ s.Did t (put { val := v, bad := some { cause := c, addr := ea, word := x.pc.q0 } }))
        ∧ (dq = false →
          match bytes with
          | .ok b => ∃ t, exec (.ld d a w dq o i) s = .next t ∧ s.Did t fun x => x.setA d (extend b)
          | .error c => s.Handles q c →
              ∃ t, exec (.ld d a w dq o i) s = .next t ∧ s.Faulted t { cause := c, tval := ea, aside := true, eapc := some x.pc.q0 }))

/-- R143: what an address is: the lane-private window, past the scratchpad, outside every window, a byte of the scratchpad, or global,
where translation decides. R144: a load returns the bytes of the sequencer's own latest store to them, though no home has admitted it;
bytes that no store of its buffer covers come from memory. A store to a frame that is frozen or moved counts where that frame goes
(R335). -/
def Obligations.WindowsAndForwarding : Prop :=
  (∀ (s : State) (q ea n : Nat) (k : Acc), ea < 2 ^ 64 →
      (0xFFFFFF8000000000 ≤ ea → s.locate q ea n k = .error 8)
        ∧ (0xFFFFFF0000400000 ≤ ea → ea < 0xFFFFFF8000000000 → s.locate q ea n k = .error 7)
        ∧ (2 ^ 56 ≤ ea → ea < 0xFFFFFF0000000000 → s.locate q ea n k = .error 6)
        ∧ (0xFFFFFF0000000000 ≤ ea → ea < 0xFFFFFF0000400000 → s.locate q ea n k = .ok (.pad (ea - 0xFFFFFF0000000000)))
        ∧ (ea < 2 ^ 56 → s.locate q ea n k
            = match s.translate (coreOf q) (s.seq q).cur.asid (s.seq q).cur.partition ea n k with
              | .error c => .error c
              | .ok x => .ok (.glob x)))
    ∧ (∀ (s : State) (q pa n i : Nat), i < n →
      let x := s.seq q
      let at_ := s.canon pa + i
      let covers (e : Nat × List Byte) : Prop := s.canon e.1 ≤ at_ ∧ at_ < s.canon e.1 + e.2.length
      (s.readGlob q pa n).length = n
        ∧ ((∀ st ∈ x.stores, st.pad = none → ∀ e ∈ st.parts, ¬covers e) → (s.readGlob q pa n)[i]? = (s.readPhys pa n)[i]?)
        ∧ ∀ l st e, x.stores = l ++ [st] → st.pad = none → st.parts = [e] → covers e →
            (s.readGlob q pa n)[i]? = e.2[at_ - s.canon e.1]?)

/-- R143, R145, R118, R120 and R146: a store whose address passes the checks writes the low bytes of a[rs], or of the entry it pops from sq,
to the scratchpad at once, or puts them last in the sequencer's store buffer, memory being unchanged until their home admits them; a
scratchpad store that follows an open strong store, a fence mark or a buffered scratchpad store goes behind it into the buffer, and
one with an order waits until every earlier store is performed; the first check that fails is a trap of that cause with aside = 1,
and nothing is stored or popped; a release to a peer waits until every earlier store is performed (R410, R411). Stated of a launch that
does not log, of a sequencer that owes no failed peer store, with no line of a translation table to fill first.
The model's choices it rests on: log entry 64. -/
def Obligations.Stores : Prop :=
  ∀ (s : State) (d a : Reg) (w : Width) (dq : Bool) (o : MemOrd) (i : BitVec 10),
    let q := s.turn
    let x := s.seq q
    let c := clusterOf q
    let ea := x.getA a + i.signExtend 64
    let n := match w with | .s8 => 1 | .z8 => 1 | .s16 => 2 | .z16 => 2 | .s32 => 4 | .z32 => 4 | .w64 => 8
    let data : Word := if dq then x.qs.sq.headD 0 else x.getA d
    let pop (x : Seq) : Seq := if dq then { x with qs := { x.qs with sq := x.qs.sq.tail } } else x
    let byte (k : Nat) : Byte := data.extractLsb' (8 * k) 8
    let target : Except Nat Loc :=
      if ea.toNat % n ≠ 0 then .error 3
      else match s.locate q ea.toNat n .write with
        | .error e => .error e
        | .ok l =>
          if (match l with | .glob t => aStore t.attr == 3 | .pad _ => false) then .error 5
          else if x.watches true ea.toNat n then .error 17
          else .ok l
    let first : Prop := (∀ st ∈ x.stores, st.parts ≠ [] ∧ st.pad = none) ∧ s.strongOpen q = false
    x.cur.log = 0 → x.peerErr = none → s.tablesWait q ea.toNat = false →
      (dq = true → x.qs.sq = [] → s.Handles q 1 →
          ∃ t, exec (.st d a w dq o i) s = .next t ∧ s.Faulted t { cause := 1, tval := s.tvalWord q 0 })
        ∧ (dq = false ∨ x.qs.sq ≠ [] →
          match target with
          | .error e => s.Handles q e →
            ∃ t, exec (.st d a w dq o i) s = .next t ∧ s.Faulted t { cause := e, tval := ea, aside := true, eapc := some x.pc.q0 }
          | .ok (.glob r) =>
            (s.releaseWaits q r.pa (o != .plain) = true → ∃ t, exec (.st d a w dq o i) s = .next t ∧ s.Waits t q)
            ∧ (s.releaseWaits q r.pa (o != .plain) = false → ∃ t st, exec (.st d a w dq o i) s = .next t
              ∧ s.Did t (fun x => { pop x with stores := x.stores ++ [st] })
              ∧ st.parts = [(r.pa, (List.range n).map byte)] ∧ st.ord = aOrd r.attr ∧ st.release = (o != .plain)
              ∧ st.strong = (o == .strong))
          | .ok (.pad off) =>
            (o ≠ .plain → s.storesOpen q = true → ∃ t, exec (.st d a w dq o i) s = .next t ∧ s.Waits t q)
            ∧ (o = .plain ∨ s.storesOpen q = false → first → ∃ t, exec (.st d a w dq o i) s = .next t
              ∧ s.MovedOn t q ∧ (pop x).Kept (t.seq q) ∧ s.SameMemory t
              ∧ t.core (coreOf q) = { s.core (coreOf q) with progress := (t.core (coreOf q)).progress }
              ∧ (∀ r, r ≠ q → t.seq r = s.seq r) ∧ (∀ k, k ≠ c → t.cluster k = s.cluster k)
              ∧ (∀ k, FMap.get 0 (t.pad c).sp k
                  = if off ≤ k ∧ k < off + n then byte (k - off) else FMap.get 0 (s.pad c).sp k)
              ∧ t.cluster c = { s.cluster c with pad := { s.pad c with sp := (t.pad c).sp } })
            ∧ (o = .plain → ¬first → ∃ t st, exec (.st d a w dq o i) s = .next t
              ∧ s.Did t (fun x => { pop x with stores := x.stores ++ [st] })
              ∧ st.pad = some c ∧ st.parts = [(off, (List.range n).map byte)]))

/-- R144, R133, R389 and R408: a load from the host window or a peer window, of any width, order and destination, first sends a read
request that carries the page's order and its own, waiting at its place; answered, it writes the answer's bytes, extended as its width
directs, to a[rd], or appends them to xe with dq = 1; a refusal is cause 5, a poisoned answer cause 19, and a lost link cause 20 with
the port in TVAL, a trap or, with dq = 1, a poisoned entry of xe, whose value is free. Stated with every store of the sequencer
performed, no failed peer store owed, and no line of a translation table to fill first.
The model's choices it rests on: log entries 5 and 34. -/
def Obligations.RemoteLoads : Prop :=
  ∀ (s : State) (d a : Reg) (w : Width) (dq : Bool) (o : MemOrd) (i : BitVec 10) (x' : Xlat),
    let q := s.turn
    let x := s.seq q
    let ea := x.getA a + i.signExtend 64
    let n := match w with | .s8 => 1 | .z8 => 1 | .s16 => 2 | .z16 => 2 | .s32 => 4 | .z32 => 4 | .w64 => 8
    let extend (b : List Byte) : Word :=
      let v := BitVec.ofNat (8 * n) (ofBytes b)
      match w with
      | .s8 => v.signExtend 64 | .s16 => v.signExtend 64 | .s32 => v.signExtend 64 | .w64 => v.zeroExtend 64
      | .z8 => v.zeroExtend 64 | .z16 => v.zeroExtend 64 | .z32 => v.zeroExtend 64
    let load : Instr := .ld d a w dq o i
    let put (e : XeEntry) (x : Seq) : Seq := { x with qs := { x.qs with xe := x.qs.xe ++ [e] } }
    let fails (c : Nat) (tval : Word) : Prop :=
      (dq = false → s.Handles q c → ∃ t, exec load s = .next t
          ∧ s.Faulted t { cause := c, tval := tval, aside := true, eapc := some x.pc.q0 })
        ∧ (dq = true → ∃ t v, exec load s = .next t
          ∧ s.Did t (put { val := v, bad := some { cause := c, addr := ea, word := x.pc.q0 } }))
    ea.toNat % n = 0 → s.tablesWait q ea.toNat = false → s.locate q ea.toNat n .read = .ok (.glob x') → isRemote x'.pa = true →
    x.watches false ea.toNat n = false → s.storesOpen q = false → x.peerErr = none → (dq = true → x.qs.xe.length < 8) →
      (s.findReq (.seq q) x'.pa n = none → ∃ t, exec load s = .next t ∧ (t.seq q).pc = x.pc ∧ (t.seq q).a = x.a ∧ (t.seq q).qs = x.qs
          ∧ s.SameMemory t ∧ ∃ r ∈ t.requests, r.owner = .seq q ∧ r.pa = x'.pa ∧ r.len = n ∧ r.write = false
            ∧ r.attr = aOrd x'.attr + (match o with | .plain => 0 | .sync => 4 | .strong => 12))
        ∧ ∀ r, s.findReq (.seq q) x'.pa n = some r →
          (∀ b, r.answer = some (.data b) →
              let v := extend ((b.drop (x'.pa - r.pa)).take n)
              (dq = false → ∃ t, exec load s = .next t ∧ s.Did t fun x => x.setA d v)
                ∧ (dq = true → ∃ t, exec load s = .next t ∧ s.Did t (put { val := v })))
            ∧ (r.answer = some .refused → fails 5 ea) ∧ (r.answer = some .poison → fails 19 ea)
            ∧ (∀ k, r.answer = some (.lost k) → fails 20 (BitVec.ofNat 64 k))
            ∧ (r.answer = none → ∃ t, exec load s = .next t ∧ s.Waits t q)

/-- R147 and R148: lk.ll and lk.ll32 load, sign-extended, and take the link: a new generation in the sequencer and in the tag of the
line; lk.sc and lk.sc32 store and return 0 while the tag is still theirs, else store nothing and return 1; both drop the link. Stated
of device memory without failed channels or errors that is not being migrated, of a launch that does not log, with every store of the
sequencer performed. -/
def Obligations.LinkedPair : Prop :=
  ∀ (s : State) (d a b : Reg) (x' : Xlat),
    let q := s.turn
    let x := s.seq q
    let ea := x.getA a
    let line := x'.pa / 128
    let quiet := s.storesOpen q = false ∧ x.watches false ea.toNat 8 = false ∧ x.watches false ea.toNat 4 = false
      ∧ x.watches true ea.toNat 8 = false ∧ x.watches true ea.toNat 4 = false ∧ x.cur.log = 0
    let plain := regionOf x'.pa = .device ∧ FMap.find? s.moved (x'.pa / 4096) = none ∧ s.calm = true
      ∧ s.hostHolds x'.pa = false ∧ aStore x'.attr ≠ 3
    ∀ r ∈ ([(8, .lkLl d a, .lkSc d a b), (4, .lkLl32 d a, .lkSc32 d a b)] : List (Nat × Instr × Instr)),
      quiet → plain → ea.toNat % r.1 = 0 → x'.pa % r.1 = 0 →
        (s.locate q ea.toNat r.1 .read = .ok (.glob x') → (s.badSector (dieOf q) x'.pa r.1).isSome = false →
          ∃ t, exec r.2.1 s = .next t ∧ s.MovedOn t q ∧ s.SameMemory t
            ∧ (let g := (x.gen + 1) % 32
              ({ x with gen := g, link := .scalar line g }.setA d
                ((BitVec.ofNat (8 * r.1) (ofBytes (s.readPhys x'.pa r.1))).signExtend 64)).Kept (t.seq q)
              ∧ t.tagHeld q g line = true)
            ∧ ∀ l, l ≠ line → FMap.find? t.lineTags l = FMap.find? s.lineTags l)
        ∧ (s.locate q ea.toNat r.1 .write = .ok (.glob x') →
          (∀ g, x.link = .scalar line g → s.tagHeld q g line = true →
            ∃ t, exec r.2.2 s = .next t ∧ s.MovedOn t q ∧ ({ x with link := .none }.setA d 0).Kept (t.seq q)
              ∧ readNat t.mem x'.pa r.1 = (x.getA b).toNat % 256 ^ r.1
              ∧ (∀ k, k < x'.pa ∨ x'.pa + r.1 ≤ k → FMap.get 0 t.mem k = FMap.get 0 s.mem k)
              ∧ FMap.find? t.lineTags line = none)
          ∧ ((∀ g, x.link = .scalar line g → s.tagHeld q g line = false) →
            ∃ t, exec r.2.2 s = .next t ∧ s.Did t fun x => { x with link := .none }.setA d 1))


/-- R194, R195, R189 to R191, R170 and R176: an integer word of majors v, vs and vi writes to each active element of its destination the
function of va's element, the operand (vb's element, the low bits of s[rb], or the immediate, zero-extended for a shift) and the old
element, at the element width, and nothing else. Stated of the functions over two operands; the other words follow below. -/
def Obligations.VectorInteger : Prop :=
  ∀ (s : State) (l : Bool) (d a b : Reg) (m : MReg) (ft : Fmt),
    let q := s.turn
    let x := s.seq q
    let k := s.core (coreOf q)
    let w := vtEw x.csr.vtype
    let lm := vtLmul x.csr.vtype
    let half (n : Nat) (v : BitVec n) (c : Nat) : BitVec n :=
      if c = 0 then v else BitVec.ofInt n ((v.toInt + ((2 ^ (c - 1) : Nat) : Int)) / ((2 ^ c : Nat) : Int))
    let even (n : Nat) (v : BitVec n) (c : Nat) : BitVec n :=
      let f := v.toInt / ((2 ^ c : Nat) : Int)
      let r := v.toInt - f * ((2 ^ c : Nat) : Int)
      BitVec.ofInt n (if ((2 ^ c : Nat) : Int) < 2 * r ∨ (2 * r = ((2 ^ c : Nat) : Int) ∧ f % 2 = 1) then f + 1 else f)
    s.VecReady q → Fmt.ofCode (vtFmt x.csr.vtype) = some ft → ft.isInt = true → a.toNat % lm = 0 → d.toNat % lm = 0 →
    ∀ r ∈ ([
        (.vAdd, .vsAdd, .viAdd, false, fun _ x y _ => x + y),
        (.vSub, .vsSub, .viSub, false, fun _ x y _ => x - y),
        (.vRsub, .vsRsub, .viRsub, false, fun _ x y _ => y - x),
        (.vMul, .vsMul, .viMul, false, fun _ x y _ => x * y),
        (.vMulh, .vsMulh, .viMulh, false, fun n x y _ => (x.signExtend (2 * n) * y.signExtend (2 * n)).extractLsb' n n),
        (.vMulhz, .vsMulhz, .viMulhz, false, fun n x y _ => (x.zeroExtend (2 * n) * y.zeroExtend (2 * n)).extractLsb' n n),
        (.vMac, .vsMac, .viMac, false, fun _ x y z => z + x * y),
        (.vNmac, .vsNmac, .viNmac, false, fun _ x y z => z - x * y),
        (.vAnd, .vsAnd, .viAnd, false, fun _ x y _ => x &&& y),
        (.vOr, .vsOr, .viOr, false, fun _ x y _ => x ||| y),
        (.vXor, .vsXor, .viXor, false, fun _ x y _ => x ^^^ y),
        (.vShl, .vsShl, .viShl, true, fun n x y _ => x <<< (y.toNat % n)),
        (.vShr, .vsShr, .viShr, true, fun n x y _ => x >>> (y.toNat % n)),
        (.vSra, .vsSra, .viSra, true, fun n x y _ => x.sshiftRight (y.toNat % n)),
        (.vRshr, .vsRshr, .viRshr, true, fun n x y _ => half n x (y.toNat % n)),
        (.vRshre, .vsRshre, .viRshre, true, fun n x y _ => even n x (y.toNat % n)),
        (.vMin, .vsMin, .viMin, false, fun _ x y _ => if x.toInt < y.toInt then x else y),
        (.vMax, .vsMax, .viMax, false, fun _ x y _ => if x.toInt < y.toInt then y else x),
        (.vMinz, .vsMinz, .viMinz, false, fun _ x y _ => if x.toNat < y.toNat then x else y),
        (.vMaxz, .vsMaxz, .viMaxz, false, fun _ x y _ => if x.toNat < y.toNat then y else x),
        (.vAvg, .vsAvg, .viAvg, false, fun n x y _ => BitVec.ofInt n ((x.toInt + y.toInt + 1) / 2)),
        (.vDiv, .vsDiv, .viDiv, false, fun n x y _ => if y = 0 then BitVec.allOnes n else BitVec.ofInt n (x.toInt.tdiv y.toInt)),
        (.vDivz, .vsDivz, .viDivz, false, fun n x y _ => if y = 0 then BitVec.allOnes n else BitVec.ofNat n (x.toNat / y.toNat)),
        (.vRem, .vsRem, .viRem, false, fun n x y _ => if y = 0 then x else BitVec.ofInt n (x.toInt.tmod y.toInt)),
        (.vRemz, .vsRemz, .viRemz, false, fun n x y _ => if y = 0 then x else BitVec.ofNat n (x.toNat % y.toNat))]
      : List ((Bool → Reg → Reg → Reg → MReg → Instr) × (Bool → Reg → Reg → Reg → MReg → Instr)
          × (Bool → Reg → Reg → Reg → MReg → Instr) × Bool × ((n : Nat) → BitVec n → BitVec n → BitVec n → BitVec n))),
      let res (y : Nat → Nat → BitVec w) (g j : Nat) : Nat × FFlags :=
        ((r.2.2.2.2 w (BitVec.ofNat w (k.elem g a.toNat w j)) (y g j) (BitVec.ofNat w (k.elem g d.toNat w j))).toNat, 0)
      (b.toNat % lm = 0 → ∃ t, exec (r.1 l d a b m) s = .next t
          ∧ s.VecElems t q x d w lm (s.act q m) (res fun g j => BitVec.ofNat w (k.elem g b.toNat w j)))
        ∧ (∃ t, exec (r.2.1 l d a b m) s = .next t
          ∧ s.VecElems t q x d w lm (s.act q m) (res fun _ _ => (x.getS b).setWidth w))
        ∧ (∃ t, exec (r.2.2.1 l d a b m) s = .next t
          ∧ s.VecElems t q x d w lm (s.act q m) (res fun _ _ => if r.2.2.2.1 then b.setWidth w else b.signExtend w))

/-- R194 and R197: the integer words over one operand, the moves, and the selection, which writes every element below VL: va's where
the bit of the mask register is 1, else the operand. -/
def Obligations.VectorMoves : Prop :=
  ∀ (s : State) (l : Bool) (d a b : Reg) (m : MReg) (ft : Fmt),
    let q := s.turn
    let x := s.seq q
    let k := s.core (coreOf q)
    let w := vtEw x.csr.vtype
    let lm := vtLmul x.csr.vtype
    let va (g j : Nat) : BitVec w := BitVec.ofNat w (k.elem g a.toNat w j)
    s.VecReady q → Fmt.ofCode (vtFmt x.csr.vtype) = some ft → ft.isInt = true → d.toNat % lm = 0 →
      (a.toNat % lm = 0 → ∀ r ∈ ([
          (.vAbs l d a m, fun n v => BitVec.ofInt n (v.toInt.natAbs : Int)),
          (.vClz l d a m, fun _ v => v.clz),
          (.vPop l d a m, fun _ v => v.cpop),
          (.vMv l d a m, fun _ v => v)] : List (Instr × ((n : Nat) → BitVec n → BitVec n))),
        ∃ t, exec r.1 s = .next t ∧ s.VecElems t q x d w lm (s.act q m) fun g j => ((r.2 w (va g j)).toNat, 0))
      ∧ (∃ t, exec (.vsMv l d b m) s = .next t
          ∧ s.VecElems t q x d w lm (s.act q m) fun _ _ => (((x.getS b).setWidth w).toNat, 0))
      ∧ (∃ t, exec (.viMv l d b m) s = .next t
          ∧ s.VecElems t q x d w lm (s.act q m) fun _ _ => ((b.signExtend w).toNat, 0))
      ∧ (a.toNat % lm = 0 →
        let sel (y : Nat → Nat → BitVec w) (g j : Nat) : Nat × FFlags :=
          ((if k.maskBit g m.toNat j then va g j else y g j).toNat, 0)
        (b.toNat % lm = 0 → ∃ t, exec (.vSel l d a b m) s = .next t
            ∧ s.VecElems t q x d w lm (fun _ _ => true) (sel fun g j => BitVec.ofNat w (k.elem g b.toNat w j)))
          ∧ (∃ t, exec (.vsSel l d a b m) s = .next t
            ∧ s.VecElems t q x d w lm (fun _ _ => true) (sel fun _ _ => (x.getS b).setWidth w))
          ∧ (∃ t, exec (.viSel l d a b m) s = .next t
            ∧ s.VecElems t q x d w lm (fun _ _ => true) (sel fun _ _ => b.signExtend w)))

/-- R196 and R176: an integer compare writes one bit of mask register d[2:0] for each active element, and no vector register. -/
def Obligations.VectorCompares : Prop :=
  ∀ (s : State) (l : Bool) (d a b : Reg) (m : MReg) (ft : Fmt),
    let q := s.turn
    let x := s.seq q
    let k := s.core (coreOf q)
    let w := vtEw x.csr.vtype
    let lm := vtLmul x.csr.vtype
    s.VecReady q → Fmt.ofCode (vtFmt x.csr.vtype) = some ft → ft.isInt = true → a.toNat % lm = 0 →
    ∀ r ∈ ([
        (.vCmpeq, .vsCmpeq, .viCmpeq, fun _ x y => decide (x = y)),
        (.vCmpne, .vsCmpne, .viCmpne, fun _ x y => decide (x ≠ y)),
        (.vCmplt, .vsCmplt, .viCmplt, fun _ x y => decide (x.toInt < y.toInt)),
        (.vCmple, .vsCmple, .viCmple, fun _ x y => decide (x.toInt ≤ y.toInt)),
        (.vCmpltz, .vsCmpltz, .viCmpltz, fun _ x y => decide (x.toNat < y.toNat)),
        (.vCmplez, .vsCmplez, .viCmplez, fun _ x y => decide (x.toNat ≤ y.toNat))]
      : List ((Bool → Reg → Reg → Reg → MReg → Instr) × (Bool → Reg → Reg → Reg → MReg → Instr)
          × (Bool → Reg → Reg → Reg → MReg → Instr) × ((n : Nat) → BitVec n → BitVec n → Bool))),
      let res (y : Nat → Nat → BitVec w) (g j : Nat) : Bool × FFlags :=
        (r.2.2.2 w (BitVec.ofNat w (k.elem g a.toNat w j)) (y g j), 0)
      (b.toNat % lm = 0 → ∃ t, exec (r.1 l d a b m) s = .next t
          ∧ s.VecMask t q (d.toNat % 8) (s.act q m) (res fun g j => BitVec.ofNat w (k.elem g b.toNat w j)))
        ∧ (∃ t, exec (r.2.1 l d a b m) s = .next t
          ∧ s.VecMask t q (d.toNat % 8) (s.act q m) (res fun _ _ => (x.getS b).setWidth w))
        ∧ (∃ t, exec (r.2.2.1 l d a b m) s = .next t
          ∧ s.VecMask t q (d.toNat % 8) (s.act q m) (res fun _ _ => b.signExtend w))

/-- R198 to R201, R94 and R191: a floating word of majors vf and vfs writes its function of each active element under the sampled FCTL,
with the flags of each result to its lane; its compares write mask bits. -/
def Obligations.VectorFloat : Prop :=
  ∀ (s : State) (l : Bool) (d a b : Reg) (m : MReg) (ft : Fmt),
    let q := s.turn
    let x := s.seq q
    let k := s.core (coreOf q)
    let c := FCtl.of x.csr.fctl
    let w := vtEw x.csr.vtype
    let lm := vtLmul x.csr.vtype
    let va (g j : Nat) : Nat := k.elem g a.toNat w j
    let vb (g j : Nat) : Nat := k.elem g b.toNat w j
    let vd (g j : Nat) : Nat := k.elem g d.toNat w j
    let sb : Nat := ((x.getS b).setWidth w).toNat
    s.VecReady q → Fmt.ofCode (vtFmt x.csr.vtype) = some ft → ft.isIeee = true → a.toNat % lm = 0 →
      (d.toNat % lm = 0 → b.toNat % lm = 0 →
        ∀ r ∈ ([
            (.vfAdd l d a b m, fun x y _ => fpAdd ft c x y),
            (.vfSub l d a b m, fun x y _ => fpSub ft c x y),
            (.vfMul l d a b m, fun x y _ => fpMul ft c x y),
            (.vfDiv l d a b m, fun x y _ => fpDiv ft c x y),
            (.vfFma l d a b m, fun x y z => fpFma ft c false false x y z),
            (.vfFms l d a b m, fun x y z => fpFma ft c false true x y z),
            (.vfFnma l d a b m, fun x y z => fpFma ft c true false x y z),
            (.vfMin l d a b m, fun x y _ => fpMinMax ft c false x y),
            (.vfMax l d a b m, fun x y _ => fpMinMax ft c true x y),
            (.vfSgnj l d a b m, fun x y _ => fpSgnj ft c x y),
            (.vfMaxm l d a b m, fun x y _ => fpMaxm ft c x y)] : List (Instr × (Nat → Nat → Nat → Nat × FFlags))),
          ∃ t, exec r.1 s = .next t
            ∧ s.VecElems t q x d w lm (s.act q m) fun g j => r.2 (va g j) (vb g j) (vd g j))
      ∧ (d.toNat % lm = 0 →
        ∀ r ∈ ([
            (.vfsAdd l d a b m, fun x y _ => fpAdd ft c x y),
            (.vfsSub l d a b m, fun x y _ => fpSub ft c x y),
            (.vfsMul l d a b m, fun x y _ => fpMul ft c x y),
            (.vfsDiv l d a b m, fun x y _ => fpDiv ft c x y),
            (.vfsFma l d a b m, fun x y z => fpFma ft c false false x y z),
            (.vfsFms l d a b m, fun x y z => fpFma ft c false true x y z),
            (.vfsFnma l d a b m, fun x y z => fpFma ft c true false x y z),
            (.vfsMin l d a b m, fun x y _ => fpMinMax ft c false x y),
            (.vfsMax l d a b m, fun x y _ => fpMinMax ft c true x y),
            (.vfsSgnj l d a b m, fun x y _ => fpSgnj ft c x y),
            (.vfsMaxm l d a b m, fun x y _ => fpMaxm ft c x y)] : List (Instr × (Nat → Nat → Nat → Nat × FFlags))),
          ∃ t, exec r.1 s = .next t ∧ s.VecElems t q x d w lm (s.act q m) fun g j => r.2 (va g j) sb (vd g j))
      ∧ (d.toNat % lm = 0 →
        ∀ r ∈ ([
            (.vfAbs l d a m, true, fun x => fpSignOp ft c (fun _ => false) x),
            (.vfNeg l d a m, true, fun x => fpSignOp ft c (fun n => !n) x),
            (.vfSqrt l d a m, true, fun x => fpSqrt ft c x),
            (.vfRcpe l d a m, true, fun x => fpRcpe ft c x),
            (.vfRsqe l d a m, true, fun x => fpRsqe ft c x),
            (.vfExp2 l d a m, decide (ft ≠ .ieee .f64), fun x => fpExp2 ft c x),
            (.vfClass l d a m, true, fun x => (classBits ft (ft.decode x), 0))] : List (Instr × Bool × (Nat → Nat × FFlags))),
          r.2.1 = true → ∃ t, exec r.1 s = .next t ∧ s.VecElems t q x d w lm (s.act q m) fun g j => r.2.2 (va g j))
      ∧ ∀ r ∈ ([(.vfCmpeq l d a b m, .vfsCmpeq l d a b m, .eq), (.vfCmplt l d a b m, .vfsCmplt l d a b m, .lt),
          (.vfCmple l d a b m, .vfsCmple l d a b m, .le)] : List (Instr × Instr × FCmp)),
        (b.toNat % lm = 0 → ∃ t, exec r.1 s = .next t
            ∧ s.VecMask t q (d.toNat % 8) (s.act q m) fun g j => fpCmp ft c r.2.2 (va g j) (vb g j))
          ∧ (∃ t, exec r.2.1 s = .next t
            ∧ s.VecMask t q (d.toNat % 8) (s.act q m) fun g j => fpCmp ft c r.2.2 (va g j) sb)


/-- R204 to R208 and R101 to R103: the conversions write each active element converted to the destination format, in a group of EMUL
registers, flushing no result unless the elements read are IEEE; qnt scales by the binary32 in s[rb]; had combines partners; hash and iota write the hash of two elements and the index
above s[rb]. -/
def Obligations.VectorConversions : Prop :=
  ∀ (s : State) (l : Bool) (d a b : Reg) (m : MReg) (fs fd : Fmt),
    let q := s.turn
    let x := s.seq q
    let k := s.core (coreOf q)
    let c := FCtl.of x.csr.fctl
    let w := vtEw x.csr.vtype
    let lm := vtLmul x.csr.vtype
    let va (g j : Nat) : Nat := k.elem g a.toNat w j
    let n := if fs.width ≤ lm * fd.width then lm * fd.width / fs.width else 1
    let c' : FCtl := if fs.isIeee then c else { c with flushOut := false }
    s.VecReady q → Fmt.ofCode (vtFmt x.csr.vtype) = some fs → a.toNat % lm = 0 →
      (Fmt.ofCode (vtDfmt x.csr.vtype) = some fd → d.toNat % n = 0 →
        fs.width = fd.width ∨ d.toNat + n ≤ a.toNat ∨ a.toNat + lm ≤ d.toNat →
        ∀ r ∈ ([
            (.vcvCvt l d a m, fun v => convertElem fs fd c' false v),
            (.vcvCvts l d a m, fun v => convertElem fs fd c' true v),
            (.vcvQnt l d a b m, fun v => qntElem fs fd c' v ((x.getS b).toNat % 2 ^ 32))] : List (Instr × (Nat → Nat × FFlags))),
          ∃ t, exec r.1 s = .next t
            ∧ s.VecElems t q x d fd.width n (s.act q m) fun g j => r.2 (va g j))
      ∧ (fs.isInt = true ∨ fs.isIeee = true → d.toNat % lm = 0 →
        ∃ t, exec (.vcvHad l d a b m) s = .next t
          ∧ s.VecElems t q x d w lm (s.act q m) fun g j =>
            let i := x.index g j
            let p := i ^^^ 2 ^ b.toNat
            if p < x.csr.vl ∧ s.actAt q m p = true then
              let (u, v) := if i < p then (va g j, s.elemAt q a p) else (s.elemAt q a p, va g j)
              if fs.isInt then
                ((if i < p then BitVec.ofNat w u + BitVec.ofNat w v else BitVec.ofNat w u - BitVec.ofNat w v).toNat, 0)
              else if i < p then fpAdd fs c u v else fpSub fs c u v
            else (va g j, 0))
      ∧ (fs.isInt = true → fs.width = 64 → d.toNat % lm = 0 → b.toNat % lm = 0 →
        ∃ t, exec (.vcvHash l d a b m) s = .next t
          ∧ s.VecElems t q x d 64 lm (s.act q m) fun g j =>
            ((hash64 (BitVec.ofNat 64 (va g j)) (BitVec.ofNat 64 (k.elem g b.toNat 64 j))).toNat, 0))
      ∧ (fs.isInt = true → d.toNat % lm = 0 →
        ∃ t, exec (.vcvIota l d b m) s = .next t
          ∧ s.VecElems t q x d w lm (s.act q m) fun g j => (((x.getS b).toNat + x.index g j) % 2 ^ w, 0))

/-- R202 and R203: a widening word writes sums, products and multiply-accumulates of n-bit elements at 2n bits, modulo 2^2n, in a group
of twice LMUL registers; a narrowing word clamps 2n-bit elements to n bits and sets sat where that changes them. -/
def Obligations.VectorWidening : Prop :=
  ∀ (s : State) (l : Bool) (d a b : Reg) (m : MReg) (ft : Fmt),
    let q := s.turn
    let x := s.seq q
    let k := s.core (coreOf q)
    let w := vtEw x.csr.vtype
    let lm := vtLmul x.csr.vtype
    let apart (p : Reg) (np : Nat) (r : Reg) (nr : Nat) : Prop := p.toNat + np ≤ r.toNat ∨ r.toNat + nr ≤ p.toNat
    s.VecReady q → Fmt.ofCode (vtFmt x.csr.vtype) = some ft → ft.isInt = true → w ≤ 32 →
      (a.toNat % lm = 0 → b.toNat % lm = 0 → d.toNat % (2 * lm) = 0 → apart d (2 * lm) a lm → apart d (2 * lm) b lm →
        ∀ r ∈ ([
            (.vwWmac l d a b m, fun z x y => z + x.signExtend (2 * w) * y.signExtend (2 * w)),
            (.vwWmacz l d a b m, fun z x y => z + x.zeroExtend (2 * w) * y.zeroExtend (2 * w)),
            (.vwWmacsz l d a b m, fun z x y => z + x.signExtend (2 * w) * y.zeroExtend (2 * w)),
            (.vwWadd l d a b m, fun _ x y => x.signExtend (2 * w) + y.signExtend (2 * w)),
            (.vwWaddz l d a b m, fun _ x y => x.zeroExtend (2 * w) + y.zeroExtend (2 * w)),
            (.vwWmul l d a b m, fun _ x y => x.signExtend (2 * w) * y.signExtend (2 * w))]
          : List (Instr × (BitVec (2 * w) → BitVec w → BitVec w → BitVec (2 * w)))),
          ∃ t, exec r.1 s = .next t
            ∧ s.VecElems t q x d (2 * w) (2 * lm) (s.act q m) fun g j =>
              ((r.2 (BitVec.ofNat _ (k.elem g d.toNat (2 * w) j)) (BitVec.ofNat w (k.elem g a.toNat w j))
                (BitVec.ofNat w (k.elem g b.toNat w j))).toNat, 0))
      ∧ (a.toNat % (2 * lm) = 0 → d.toNat % lm = 0 → apart d lm a (2 * lm) →
        let wide (g j : Nat) : BitVec (2 * w) := BitVec.ofNat _ (k.elem g a.toNat (2 * w) j)
        let clamp (lo hi v : Int) : Nat × FFlags :=
          if v < lo then ((BitVec.ofInt w lo).toNat, fSAT) else if hi < v then ((BitVec.ofInt w hi).toNat, fSAT)
          else ((BitVec.ofInt w v).toNat, 0)
        let lo : Int := -((2 ^ (w - 1) : Nat) : Int)
        let hi : Int := ((2 ^ (w - 1) : Nat) : Int) - 1
        let c := b.toNat
        let half : Int := if c = 0 then 0 else ((2 ^ (c - 1) : Nat) : Int)
        (∃ t, exec (.vwNsat l d a m) s = .next t
            ∧ s.VecElems t q x d w lm (s.act q m) fun g j => clamp lo hi (wide g j).toInt)
          ∧ (∃ t, exec (.vwNsatz l d a m) s = .next t
            ∧ s.VecElems t q x d w lm (s.act q m) fun g j => clamp 0 (((2 ^ w : Nat) : Int) - 1) (wide g j).toNat)
          ∧ (∃ t, exec (.vwNrshr l d a b m) s = .next t
            ∧ s.VecElems t q x d w lm (s.act q m) fun g j => clamp lo hi (((wide g j).toInt + half) / ((2 ^ c : Nat) : Int))))

/-- R210 to R212, R171 and R184: the moving words of major vp over elements by their global index: slides, gather, exchange,
compression, expansion, broadcast, insertion, sort and merge. -/
def Obligations.VectorMoving : Prop :=
  ∀ (s : State) (l : Bool) (d a b : Reg) (m : MReg) (ft : Fmt),
    let q := s.turn
    let x := s.seq q
    let k := s.core (coreOf q)
    let w := vtEw x.csr.vtype
    let lm := vtLmul x.csr.vtype
    let off := (x.getS b).toNat
    let vl := x.csr.vl
    let old (g j : Nat) : Nat := k.elem g d.toNat w j
    let el (i : Nat) : Nat := s.elemAt q a i
    let acts : List Nat := (List.range vl).filter (s.actAt q m)
    let moves (i : Instr) (act : Nat → Nat → Bool) (f : Nat → Nat → Nat) : Prop :=
      ∃ t, exec i s = .next t ∧ s.VecElems t q x d w lm act fun g j => (f g j, 0)
    let sorted (i : Instr) (xs : List Nat) (out : List Nat) : Prop :=
      ∃ t, exec i s = .next t
        ∧ s.VecElems t q { x with csr := { x.csr with fflags := x.csr.fflags ||| sortFlags ft xs } } d w lm (s.act q m) fun g j =>
          (sortOut ft (out.getD (x.index g j) 0), 0)
    s.VecReady q → Fmt.ofCode (vtFmt x.csr.vtype) = some ft → ft.isInt = true ∨ ft.isIeee = true → d.toNat % lm = 0 →
      (a.toNat % lm = 0 → d ≠ a →
        moves (.vpSlup l d a b m) (s.act q m) (fun g j => if off ≤ x.index g j then el (x.index g j - off) else old g j)
          ∧ moves (.vpSldn l d a b m) (s.act q m) (fun g j => if x.index g j + off < vl then el (x.index g j + off) else 0)
          ∧ (b.toNat % lm = 0 → d ≠ b → moves (.vpRgat l d a b m) (s.act q m) fun g j =>
              let i := k.elem g b.toNat w j
              if i < vl then el i else 0)
          ∧ moves (.vpXchg l d a b m) (s.act q m) (fun g j =>
              let p := x.index g j ^^^ 2 ^ b.toNat
              if p < vl then el p else el (x.index g j))
          ∧ moves (.vpBcast l d a b m) (s.act q m) (fun _ _ => if off < vl then el off else 0)
          ∧ moves (.vpCmpr l d a m) (fun _ _ => true) (fun g j =>
              if x.index g j < acts.length then el (acts.getD (x.index g j) 0)
              else if vtTailZero x.csr.vtype then 0 else old g j)
          ∧ moves (.vpExpd l d a m) (s.act q m) (fun g j => el ((acts.filter fun i => decide (i < x.index g j)).length))
          ∧ sorted (.vpSort l d a m) ((List.range vl).map el) (stableSort ft ((List.range vl).map el))
          ∧ (b.toNat % lm = 0 → d ≠ b →
            let ys := (List.range vl).map fun i => s.elemAt q b i
            sorted (.vpMerge l d a b m) ((List.range vl).map el ++ ys) (mergeKeys ft vl ((List.range vl).map el) ys)))
      ∧ (∃ t, exec (.vpInsrt l d a b) s = .next t
        ∧ s.VecWrote t q x d w lm
          (fun g j => if x.index g j = off ∧ off < vl then (x.getS a).toNat % 2 ^ w else old g j) (fun _ _ => 0))

/-- R212: sort's order is a stable sort by key, every NaN last: the result holds the same elements, its keys rise, and elements of equal
keys keep their order. -/
def Obligations.SortIsStable : Prop :=
  ∀ (f : Fmt) (l : List Nat),
    (stableSort f l).Perm l ∧ (stableSort f l).Pairwise (fun x y => sortKey f x ≤ sortKey f y)
      ∧ ∀ v : Int, (stableSort f l).filter (fun x => decide (sortKey f x = v)) = l.filter (fun x => decide (sortKey f x = v))

/-- R213, R214 and R107: a reduction folds its active elements by CanonicalSum, from the low bits of s[rb], into s[rd], extended as the
format says; a scan writes the sum of the elements up to each active one. The adding floating words flush the elements and s[rb] first
when flush_in is set; frmax and frmin flush nothing. The flags of every flushing and of every node go to the scalar FFLAGS.
The model's choices it rests on: log entry 110. -/
def Obligations.VectorReductions : Prop :=
  ∀ (s : State) (l : Bool) (d a b : Reg) (m : MReg) (ft : Fmt),
    let q := s.turn
    let x := s.seq q
    let c := FCtl.of x.csr.fctl
    let w := vtEw x.csr.vtype
    let lm := vtLmul x.csr.vtype
    let leaves (f : Nat → Nat) : List (Option Nat) :=
      (List.range x.csr.vl).map fun i => if s.actAt q m i then some (f (s.elemAt q a i)) else none
    let flush (v : Nat) : Nat × FFlags := ((fpOperand ft c v).1, (fpOperand ft c v).2.2)
    let keep (v : Nat) : Nat × FFlags := (v, 0)
    let init : Nat := (x.getS b).toNat % 2 ^ w
    let result (v : Nat) : Word := if ft.isInt && ft.signed then (BitVec.ofNat w v).signExtend 64 else BitVec.ofNat 64 v
    let signed (f : Int → Int → Bool) (g : Nat → Nat → Nat) (u v : Nat) : Nat × FFlags :=
      (if ft.signed then (if f (BitVec.ofNat w u).toInt (BitVec.ofNat w v).toInt then u else v) else g u v, 0)
    let c' := { c with flushIn := false }
    let acts : List Nat := (List.range x.csr.vl).filter (s.actAt q m)
    let read (f : Nat → Nat × FFlags) : FFlags := acts.foldl (fun e i => e ||| (f (s.elemAt q a i)).2) 0 ||| (f init).2
    s.VecReady q → Fmt.ofCode (vtFmt x.csr.vtype) = some ft → a.toNat % lm = 0 →
      (ft.isInt = true →
        ∀ r ∈ ([
            (.vpRsum l d a b m, fun u v => ((u + v) % 2 ^ w, 0)),
            (.vpRmax l d a b m, signed (fun u v => decide (v < u)) Nat.max),
            (.vpRmin l d a b m, signed (fun u v => decide (u < v)) Nat.min),
            (.vpRand l d a b m, fun u v => (u &&& v, 0)),
            (.vpRor l d a b m, fun u v => (u ||| v, 0))] : List (Instr × (Nat → Nat → Nat × FFlags))),
          ∃ t, exec r.1 s = .next t ∧ s.Did t fun x => x.setS d (result (canonicalSum r.2 init (leaves id)).1))
      ∧ (ft.isIeee = true →
        ∀ r ∈ ([
            (.vpFrsum l d a b m, flush, fpAdd ft c'),
            (.vpFrmax l d a b m, keep, fpMinMax ft c' true),
            (.vpFrmin l d a b m, keep, fpMinMax ft c' false)] : List (Instr × (Nat → Nat × FFlags) × (Nat → Nat → Nat × FFlags))),
          let v := canonicalSum r.2.2 (r.2.1 init).1 (leaves fun e => (r.2.1 e).1)
          ∃ t, exec r.1 s = .next t
            ∧ s.Did t fun x => { x with csr := { x.csr with fflags := x.csr.fflags ||| read r.2.1 ||| v.2 } }.setS d
              (BitVec.ofNat 64 v.1))
      ∧ (d.toNat % lm = 0 → d ≠ a →
        (ft.isInt = true → ∃ t, exec (.vpScan l d a b m) s = .next t
            ∧ s.VecElems t q x d w lm (s.act q m) fun g j =>
              ((canonicalSum (fun u v => ((u + v) % 2 ^ w, 0)) init ((leaves id).take (x.index g j + 1))).1, 0))
          ∧ (ft.isIeee = true →
            let upTo (i : Nat) := canonicalSum (fpAdd ft c') (flush init).1 ((leaves fun e => (flush e).1).take (i + 1))
            let fl : FFlags := acts.foldl (fun e i => e ||| (upTo i).2) (read flush)
            ∃ t, exec (.vpFscan l d a b m) s = .next t
              ∧ s.VecElems t q { x with csr := { x.csr with fflags := x.csr.fflags ||| fl } } d w lm (s.act q m) fun g j =>
                ((upTo (x.index g j)).1, 0)))

/-- R215 and R210: the mask words of major vp, and the extraction of one element, extended as its format says. -/
def Obligations.MaskWords : Prop :=
  ∀ (s : State) (l : Bool) (d a b : Reg) (ft : Fmt),
    let q := s.turn
    let x := s.seq q
    let k := s.core (coreOf q)
    let vl := x.csr.vl
    let ma (g j : Nat) : Bool := k.maskBit g (a.toNat % 8) j
    let mb (g j : Nat) : Bool := k.maskBit g (b.toNat % 8) j
    let set : List Nat := (List.range vl).filter fun i => ma (x.groupOf i) (i % vtPer x.csr.vtype)
    let off := (x.getS b).toNat
    s.VecReady q → Fmt.ofCode (vtFmt x.csr.vtype) = some ft →
      (∀ r ∈ ([
          (.vpMand l d a b, fun g j => ma g j && mb g j),
          (.vpMor l d a b, fun g j => ma g j || mb g j),
          (.vpMxor l d a b, fun g j => ma g j != mb g j),
          (.vpMnot l d a, fun g j => !ma g j),
          (.vpMfirst l d a, fun g j => decide (x.index g j < (x.getS a).toNat))] : List (Instr × (Nat → Nat → Bool))),
        ∃ t, exec r.1 s = .next t ∧ s.VecMask t q (d.toNat % 8) (fun _ _ => true) fun g j => (r.2 g j, 0))
      ∧ (∃ t, exec (.vpMpop l d a) s = .next t ∧ s.Did t fun x => x.setS d (BitVec.ofNat 64 set.length))
      ∧ (∃ t, exec (.vpMffs l d a) s = .next t
        ∧ s.Did t fun x => x.setS d (match set with | [] => BitVec.allOnes 64 | i :: _ => BitVec.ofNat 64 i))
      ∧ (ft.isInt = true ∨ ft.isIeee = true → a.toNat % vtLmul x.csr.vtype = 0 →
        ∃ t, exec (.vpExt l d a b) s = .next t
          ∧ s.Did t fun x => x.setS d (if vl ≤ off then 0
            else if ft.isInt && ft.signed then (BitVec.ofNat ft.width (s.elemAt q a off)).signExtend 64
            else BitVec.ofNat 64 (s.elemAt q a off)))


/-- R219 to R224, R125, R144, R170, R182, R185 and R191: a vector load writes the bytes at the address of each active element, from the
scratchpad, the lane's own SRAM or device memory, by unit stride, stride, index, segments and fault-only-first. An element whose checks
fail traps with cause 9, the first cause in sub and its address in TVAL: each group keeps what its elements below its own first failing
one loaded, and RSTGg is that element's index. vld.ff with an active element below the failing one raises nothing: it lowers VL to the
failing element. A page in another format is converted to the element format, with the flags of each element to its lane. Stated of a
sequencer whose stores are all performed, of memory without errors, failed channels or stored lines, without sampling or a watch, of
raw pages and regions but for the last clause, and, for a stride that packets may carry (R323), with no line to write back first.
The model's choices it rests on: log entries 34 and 35. -/
def Obligations.VectorLoads : Prop :=
  ∀ (s : State) (l : Bool) (d a r : Reg) (m : MReg) (e : VMode) (n : BitVec 3) (o : VOrd),
    let q := s.turn
    let x := s.seq q
    let k := s.core (coreOf q)
    let p := s.pad (clusterOf q)
    let w := vtEw x.csr.vtype
    let ms := w / 8
    let lm := vtLmul x.csr.vtype
    let per := vtPer x.csr.vtype
    let fs := n.toNat + 1
    let base := (x.getA a).toNat
    let page (va c : Nat) := s.translate (coreOf q) x.cur.asid x.cur.partition va c .read
    let ea (f g j : Nat) : Nat :=
      let i := x.index g j
      (match e with
        | .unit => base + (i * fs + f) * ms
        | .stride => base + i * (x.getA r).toNat + f * ms
        | .index => base + k.elem g r.toNat w j
        | .ff => base + i * ms) % 2 ^ 64
    let on (g j : Nat) : Prop := x.grant.getLsbD g = true ∧ j < per ∧ x.within g j = true ∧ s.act q m g j = true
    let cause (f g j : Nat) : Option Nat :=
      let ea := ea f g j
      let top := ea + ms
      if 2 ^ 56 < top ∧ ea < padBase ∨ ea < laneBase ∧ laneBase < top ∨ laneBase + 4096 < top then some 6
      else if ea % ms ≠ 0 then some 3
      else if ea < 2 ^ 56 then
        match page ea ms with
        | .error c => some c
        | .ok t => if (s.badSector (dieOf q) t.pa ms).isSome then some 19 else none
      else if ea < laneBase ∧ padBase + padSize < top then some 7
      else none
    let bytes (f g j : Nat) : List Byte :=
      let ea := ea f g j
      if laneBase ≤ ea then readBytes k.sram ((8 * g + elemLane w j) * 4096 + (ea - laneBase)) ms
      else if padBase ≤ ea then p.read 0 0 (ea - padBase) ms
      else match page ea ms with | .ok t => s.readPhys t.pa ms | .error _ => []
    let bad (g j : Nat) : Option (Nat × Nat) := (List.range fs).findSome? fun f => (cause f g j).map fun c => (c, ea f g j)
    let res (f g j : Nat) : Nat :=
      if x.within g j && s.act q m g j then ofBytes (bytes f g j)
      else x.left (x.within g j) 0 (k.elem g (d.toNat + f * lm) w j)
    let load : Instr := .vld l d a r m e n o
    s.VecReady q → x.csr.sampctl.getLsbD 0 = false → x.csr.dwlen.getLsbD 32 = false → s.storesOpen q = false → s.calm = true →
      ((∀ va c t, page va c = .ok t → aFmt t.attr = 0xFF ∧ aGeom t.attr = 0) → p.region = [] → p.spPois = [] → k.sramPois = [] →
        (∀ f g j t, f < fs → on g j → ea f g j < 2 ^ 56 → page (ea f g j) ms = .ok t → regionOf t.pa = .device) →
        (e = .stride → ∀ i, (FMap.get ({} : LineState) s.lines i).dirty = 0) →
        d.toNat % lm = 0 → d.toNat + fs * lm ≤ 32 → (e = .index → n = 0 ∧ r.toNat % lm = 0 ∧ d ≠ r) → (e = .ff → n = 0) →
          ((∀ g j, on g j → bad g j = none) →
            ∃ t, exec load s = .next t
              ∧ s.VecWrote t q x d w (fs * lm) (res 0) (fun _ _ => 0)
              ∧ ∀ f g j, f < fs → x.grant.getLsbD g = true → j < per →
                (t.core (coreOf q)).elem g (d.toNat + f * lm) w j = res f g j)
          ∧ ∀ g0 j0 c v, on g0 j0 → bad g0 j0 = some (c, v) → c ≠ 12 → c ≠ 17 → c ≠ 20 →
            (∀ g j, on g j → (bad g j).isSome = true → x.index g0 j0 ≤ x.index g j) →
            let i0 := x.index g0 j0
            let below : Prop := ∃ g j, on g j ∧ x.index g j < i0
            (e = .ff → below → ∃ t, exec load s = .next t
                ∧ s.VecWrote t q { x with csr := { x.csr with vl := i0 } } d w lm
                  (fun g j => if x.index g j < i0 then res 0 g j
                    else if vtTailZero x.csr.vtype then 0 else k.elem g d.toNat w j) (fun _ _ => 0))
              ∧ (e ≠ .ff ∨ ¬below → s.Handles q 9 →
                let count (g : Nat) : Nat := ((List.range per).filter (x.within g)).length
                let stop (g : Nat) : Nat :=
                  ((List.range (count g)).find? fun j => s.act q m g j && (bad g j).isSome).getD (count g)
                ∃ t k', exec load s = .next t
                  ∧ (s.modCore (coreOf q) fun _ => k').Trapped t q x.pc 0
                    { cause := 9, sub := c, tval := BitVec.ofNat 64 v, eapc := some x.pc.q0 }
                  ∧ (∀ g, g < 4 → (t.seq q).csr.rstg g = if x.grant.getLsbD g then stop g else 0)
                  ∧ (∀ f g j, f < fs → x.grant.getLsbD g = true → j < per → k'.elem g (d.toNat + f * lm) w j
                      = if j < stop g then res f g j else k.elem g (d.toNat + f * lm) w j)
                  ∧ (∀ g v, g < 4 → v < 32 → x.grant.getLsbD g = false ∨ v < d.toNat ∨ d.toNat + fs * lm ≤ v →
                      FMap.get 0 k'.vreg (32 * g + v) = FMap.get 0 k.vreg (32 * g + v))
                  ∧ k' = { k with vreg := k'.vreg, progress := k'.progress }))
      ∧ ∀ code fm ft, Fmt.ofCode code = some fm → Fmt.ofCode (vtFmt x.csr.vtype) = some ft → code ≠ vtFmt x.csr.vtype →
        (∀ va c t, page va c = .ok t → aFmt t.attr = code ∧ aGeom t.attr = 0 ∧ aStore t.attr ≠ 2) →
        d.toNat % lm = 0 → (∃ t, page base 1 = .ok t) → base + x.csr.vl * fm.bytes ≤ 2 ^ 56 →
        let at_ (g j : Nat) : Nat := base + x.index g j * fm.bytes
        (∀ g j, on g j → at_ g j % fm.bytes = 0 ∧ ∃ t, page (at_ g j) fm.bytes = .ok t ∧ regionOf t.pa = .device
          ∧ (s.badSector (dieOf q) t.pa fm.bytes).isSome = false) →
          ∃ t, exec (.vld l d a r m .unit 0 o) s = .next t
            ∧ s.VecElems t q x d w lm (s.act q m) fun g j =>
              convertElem fm ft (FCtl.of x.csr.fctl) false
                (match page (at_ g j) fm.bytes with | .ok t => ofBytes (s.readPhys t.pa fm.bytes) | .error _ => 0)

/-- R219 to R221, R225 to R227, R268 and R118: a vector store of raw data writes its active elements, in their order, to the scratchpad at
once, or puts them last in the store buffer when they go to device memory. Stated of a launch that does not log, of raw pages and
regions, without sampling or a watch, of words all of whose elements go to one of the two, with no line of a translation table to fill first.
The model's choices it rests on: log entries 18 and 64. -/
def Obligations.VectorStores : Prop :=
  ∀ (s : State) (l : Bool) (d a r : Reg) (m : MReg) (e : VMode) (n : BitVec 3) (o : VOrd),
    let q := s.turn
    let x := s.seq q
    let k := s.core (coreOf q)
    let c := clusterOf q
    let p := s.pad c
    let w := vtEw x.csr.vtype
    let ms := w / 8
    let lm := vtLmul x.csr.vtype
    let fs := n.toNat + 1
    let ea (f i : Nat) : Nat :=
      let base := (x.getA a).toNat
      (match e with
        | .unit => base + (i * fs + f) * ms
        | .stride => base + i * (x.getA r).toNat + f * ms
        | .index => base + s.elemAt q r i
        | .ff => base + i * ms) % 2 ^ 64
    let elems : List (Nat × Nat) :=
      ((List.range x.csr.vl).filter (s.actAt q m)).flatMap fun i => (List.range fs).map fun f => (f, i)
    let data (e : Nat × Nat) : List Byte := toBytes ms (s.elemAt q (d + BitVec.ofNat 5 (e.1 * lm)) e.2)
    s.VecReady q → x.csr.sampctl.getLsbD 0 = false → x.csr.dwlen.getLsbD 33 = false → p.region = [] → x.cur.log = 0 → x.peerErr = none →
    (∀ va c wr t, s.translate (coreOf q) x.cur.asid x.cur.partition va c wr = .ok t → aFmt t.attr = 0xFF ∧ aGeom t.attr = 0) →
    d.toNat % lm = 0 → d.toNat + fs * lm ≤ 32 → (e = .index → n = 0 ∧ r.toNat % lm = 0) → (e = .ff → n = 0) →
      ((∀ v ∈ elems, ea v.1 v.2 % ms = 0 ∧ padBase ≤ ea v.1 v.2 ∧ ea v.1 v.2 + ms ≤ padBase + padSize) → s.storesOpen q = false →
        ∃ t, exec (.vst l d a r m e n o) s = .next t ∧ s.MovedOn t q ∧ x.Kept (t.seq q) ∧ s.SameMemory t
          ∧ t.core (coreOf q) = { k with progress := (t.core (coreOf q)).progress }
          ∧ (∀ i, i ≠ c → t.cluster i = s.cluster i)
          ∧ t.pad c = { p with sp := elems.foldl (fun b v => writeBytes b (ea v.1 v.2 - padBase) (data v)) p.sp })
      ∧ (∀ X : Nat → Nat → Xlat, o ≠ .sync → (∀ v ∈ elems, s.tablesWait q (ea v.1 v.2) = false) →
        (∀ v ∈ elems, ea v.1 v.2 % ms = 0 ∧ ea v.1 v.2 + ms ≤ 2 ^ 56 ∧ regionOf (X v.1 v.2).pa = .device ∧ aStore (X v.1 v.2).attr ≠ 3
          ∧ s.translate (coreOf q) x.cur.asid x.cur.partition (ea v.1 v.2) ms .write = .ok (X v.1 v.2)) →
        ∃ t ss, exec (.vst l d a r m e n o) s = .next t
          ∧ s.MovedOn t q ∧ s.OnlySeq t q ∧ { x with stores := x.stores ++ ss }.Kept (t.seq q)
          ∧ (ss.map PStore.parts).flatten = elems.map fun v => ((X v.1 v.2).pa, data v))

/-- R228 and R229: vlk.gl loads its active elements and links their lines under a new generation; vlk.sc stores the elements of the
lines whose tags are still held and clears the mask bits of the others. Stated of device memory without errors that is not being migrated, of a launch
that does not log, with all stores performed, and for vlk.sc of addresses that do not meet.
The model's choices it rests on: log entries 34 and 123. -/
def Obligations.VectorLinkedPair : Prop :=
  ∀ (s : State) (l : Bool) (d a r : Reg) (m : MReg) (ft : Fmt) (X : Nat → Xlat),
    let q := s.turn
    let x := s.seq q
    let k := s.core (coreOf q)
    let w := vtEw x.csr.vtype
    let ms := w / 8
    let lm := vtLmul x.csr.vtype
    let ea (i : Nat) : Nat := ((x.getA a).toNat + s.elemAt q r i) % 2 ^ 64
    let acts : List Nat := (List.range x.csr.vl).filter (s.actAt q m)
    let on (wr : Acc) : Prop := s.calm = true ∧ ∀ i ∈ acts, ea i % ms = 0 ∧ ea i + ms ≤ 2 ^ 56 ∧ (X i).pa % ms = 0
      ∧ s.translate (coreOf q) x.cur.asid x.cur.partition (ea i) ms wr = .ok (X i)
      ∧ regionOf (X i).pa = .device ∧ aOrd (X i).attr ≠ 2 ∧ aStore (X i).attr ≠ 3 ∧ FMap.find? s.moved ((X i).pa / 4096) = none
      ∧ s.hostHolds (X i).pa = false ∧ (s.badSector (dieOf q) (X i).pa ms).isSome = false
    s.VecReady q → Fmt.ofCode (vtFmt x.csr.vtype) = some ft → ft.isInt = true → 32 ≤ w → x.csr.sampctl.getLsbD 0 = false →
    x.csr.dwlen.getLsbD 32 = false → x.csr.dwlen.getLsbD 33 = false → s.storesOpen q = false → x.cur.log = 0 →
    d.toNat % lm = 0 → r.toNat % lm = 0 →
      (d ≠ r → on .read → ∃ t ls, exec (.vlkGl l d a r m) s = .next t ∧ s.MovedOn t q ∧ s.SameMemory t
          ∧ { x with gen := (x.gen + 1) % 32, link := .vector ls ((x.gen + 1) % 32) }.Kept (t.seq q)
          ∧ (∀ i, i ∈ ls ↔ ∃ j ∈ acts, (X j).pa / 128 = i) ∧ (∀ i ∈ ls, t.tagHeld q ((x.gen + 1) % 32) i = true)
          ∧ (∀ g j, x.grant.getLsbD g = true → j < vtPer x.csr.vtype → (t.core (coreOf q)).elem g d.toNat w j
              = if x.within g j && s.act q m g j then ofBytes (s.readPhys (X (x.index g j)).pa ms)
                else x.left (x.within g j) 0 (k.elem g d.toNat w j)))
      ∧ (m ≠ 0 → on .write →
        (∀ i ∈ acts, ∀ j ∈ acts, i ≠ j → (X i).pa ≠ (X j).pa) →
        let held (i : Nat) : Prop := ∃ ls g, x.link = .vector ls g ∧ (X i).pa / 128 ∈ ls ∧ s.tagHeld q g ((X i).pa / 128) = true
        let k' (t : State) := t.core (coreOf q)
        ∃ t, exec (.vlkSc l d a r m) s = .next t ∧ s.MovedOn t q ∧ { x with link := .none }.Kept (t.seq q)
          ∧ (∀ i ∈ acts, held i → readNat t.mem (X i).pa ms = s.elemAt q d i ∧ FMap.find? t.lineTags ((X i).pa / 128) = none)
          ∧ (∀ b, (∀ i ∈ acts, held i → b < (X i).pa ∨ (X i).pa + ms ≤ b) → FMap.get 0 t.mem b = FMap.get 0 s.mem b)
          ∧ (∀ g j, x.grant.getLsbD g = true → j < 128 → ((k' t).maskBit g m.toNat j = true
              ↔ k.maskBit g m.toNat j = true ∧ ¬ (j < vtPer x.csr.vtype ∧ x.within g j = true ∧ ¬ held (x.index g j))))
          ∧ (∀ g v, g < 4 → v < 8 → x.grant.getLsbD g = false ∨ v ≠ m.toNat →
              FMap.get 0 (k' t).mask (8 * g + v) = FMap.get 0 k.mask (8 * g + v))
          ∧ k' t = { k with mask := (k' t).mask, progress := (k' t).progress })

/-- R175, R213 and R172: with VL = 0 an integer, floating, conversion, moving or widening word, a load or a store completes and changes
nothing else, whether VTYPE is 0, where only the alignment with LMUL 1 is checked, or a vtype is granted, whose checks of format, of
alignment and of overlap then apply. Scalar results follow: vp.ext and vp.mpop give 0, vp.mffs all ones, and an integer reduction s[rb],
whole while VTYPE is 0 and else its low bits, extended as the format says. Stated without sampling, and of a sequencer that owes no
failed peer store. -/
def Obligations.EmptyVector : Prop :=
  ∀ (s : State) (l : Bool) (d a b : Reg) (m : MReg) (o : VOrd),
    let q := s.turn
    let x := s.seq q
    let vt := x.csr.vtype
    let w := vtEw vt
    let lm := if vt = 0 then 1 else vtLmul vt
    let fmt (ok : Fmt → Prop) : Prop := vt = 0 ∨ ∃ ft, Fmt.ofCode (vtFmt vt) = some ft ∧ ok ft
    let int := fmt fun ft => ft.isInt = true
    let ieee := fmt fun ft => ft.isIeee = true
    let any := fmt fun ft => ft.isInt = true ∨ ft.isIeee = true
    let ad := d.toNat % lm = 0
    let aa := a.toNat % lm = 0
    let ab := b.toNat % lm = 0
    let apart (p : Reg) (np : Nat) (r : Reg) : Prop := vt = 0 ∨ p.toNat + np ≤ r.toNat ∨ r.toNat + lm ≤ p.toNat
    x.frozen = false → x.csr.vl = 0 → x.csr.sampctl.getLsbD 0 = false → x.peerErr = none →
      (∀ r ∈ ([
          (.vAdd l d a b m, int ∧ ad ∧ aa ∧ ab), (.vsMac l d a b m, int ∧ ad ∧ aa), (.viSub l d a b m, int ∧ ad ∧ aa),
          (.vfMul l d a b m, ieee ∧ ad ∧ aa ∧ ab), (.vfsAdd l d a b m, ieee ∧ ad ∧ aa),
          (.vcvCvt l d a m, aa ∧ (vt = 0 ∨ ∃ fs fd, Fmt.ofCode (vtFmt vt) = some fs ∧ Fmt.ofCode (vtDfmt vt) = some fd
            ∧ (let n := if fs.width ≤ lm * fd.width then lm * fd.width / fs.width else 1
              d.toNat % n = 0 ∧ (fs.width = fd.width ∨ d.toNat + n ≤ a.toNat ∨ a.toNat + lm ≤ d.toNat)))),
          (.vcvIota l d b m, int ∧ ad), (.vpSlup l d a b m, any ∧ ad ∧ aa ∧ (vt = 0 ∨ d ≠ a)),
          (.vwWmac l d a b m, (fmt fun ft => ft.isInt = true ∧ ft.width ≤ 32) ∧ d.toNat % (2 * lm) = 0 ∧ aa ∧ ab
            ∧ apart d (2 * lm) a ∧ apart d (2 * lm) b),
          (.vld l d a b m .unit 0 o, (fmt fun _ => True) ∧ ad), (.vst l d a b m .unit 0 o, (fmt fun _ => True) ∧ ad)]
        : List (Instr × Prop)), r.2 → ∃ t, exec r.1 s = .next t ∧ s.Did t fun x => x)
      ∧ (∃ t, exec (.vpMpop l d a) s = .next t ∧ s.Did t fun x => x.setS d 0)
      ∧ (∃ t, exec (.vpMffs l d a) s = .next t ∧ s.Did t fun x => x.setS d (BitVec.allOnes 64))
      ∧ (any → aa → ∃ t, exec (.vpExt l d a b) s = .next t ∧ s.Did t fun x => x.setS d 0)
      ∧ ∀ r ∈ [Instr.vpRsum l d a b m, .vpRmax l d a b m, .vpRmin l d a b m, .vpRand l d a b m, .vpRor l d a b m], aa →
        (vt = 0 → ∃ t, exec r s = .next t ∧ s.Did t fun x => x.setS d (x.getS b))
          ∧ ∀ ft, vt ≠ 0 → Fmt.ofCode (vtFmt vt) = some ft → ft.isInt = true →
            ∃ t, exec r s = .next t ∧ s.Did t fun x => x.setS d
              (if ft.signed then ((x.getS b).setWidth w).signExtend 64 else ((x.getS b).setWidth w).zeroExtend 64)

/-- R35, R178 and R192: in a convoy a result goes from one word to the next through the chain slot, and no register between is written:
a linked product followed by a sum that takes it writes x * y + z.
The model's choices it rests on: log entries 36 and 38. -/
def Obligations.ConvoyChains : Prop :=
  ∀ (s : State) (d a b e : Reg) (m : MReg) (ft : Fmt),
    let q := s.turn
    let x := s.seq q
    let k := s.core (coreOf q)
    let w := vtEw x.csr.vtype
    let lm := vtLmul x.csr.vtype
    let el (r : Reg) (g j : Nat) : BitVec w := BitVec.ofNat w (k.elem g r.toNat w j)
    s.VecReady q → Fmt.ofCode (vtFmt x.csr.vtype) = some ft → ft.isInt = true → d ≠ 31 → e ≠ 31 →
    a.toNat % lm = 0 → b.toNat % lm = 0 → d.toNat % lm = 0 → e.toNat % lm = 0 →
      ∃ t, exec (.convoy [.int .vv .mul 31 a b m, .int .vv .add d 31 e m]) s = .next t
        ∧ s.VecElems t q x d w lm (s.act q m) fun g j => ((el a g j * el b g j + el e g j).toNat, 0)


/-- R236 to R238, R180, R245 and R257: m.on takes a free matrix unit, with MVL from its request, the accumulators zero and, after
another launch, the Larder invalid; of a unit that is held it waits in order, or returns 0; m.off gives it up; m.zero clears one
accumulator; m.ldtab loads a table of frequencies that sum to 4,096 and raises cause 11 on another, once no earlier strong or buffered
scratchpad store of the sequencer is open. Without matrix mode each but m.on raises cause 23. Stated outside a trap. -/
def Obligations.MatrixMode : Prop :=
  ∀ (s : State) (d : Reg) (c : Bool) (n : BitVec 2),
    let q := s.turn
    let x := s.seq q
    let k := s.core (coreOf q)
    let r := x.getS d
    let mvl := if fld r 0 8 = 0 ∨ 128 < fld r 0 8 then 128 else fld r 0 8
    let key := (x.cur.partition, x.cur.seq)
    let p := s.pad (clusterOf q)
    let freq : List Nat := (List.range 256).map fun i => ofBytes (p.read 0 0 (r.toNat - padBase + 2 * i) 2)
    let set (t : State) (i : Nat) : LarderSet := FMap.get {} (t.core (coreOf q)).larder i
    x.tr.inTrap = false →
      (fld r 17 47 = 0 → fld r 8 8 = 0x25 ∨ fld r 8 8 = 0x42 →
        (k.holder = none → k.waiters = [] → ∃ t, exec (.mOn d) s = .next t ∧ s.MovedOn t q ∧ s.OnlyCore t q
            ∧ (x.setS d (BitVec.ofNat 64 mvl)).Kept (t.seq q)
            ∧ t.core (coreOf q) = { k with
                holder := some q, mvl := mvl, accFmt := r.extractLsb' 8 8, acc0 := [], acc1 := [], accPois := [], progress := none
                lastLaunch := some key, larder := (t.core (coreOf q)).larder }
            ∧ (k.lastLaunch = some key → (t.core (coreOf q)).larder = k.larder)
            ∧ (k.lastLaunch ≠ some key → ∀ i, (set t i).valid = false))
        ∧ (∀ o, k.holder = some o → o ≠ q →
          (r.getLsbD 16 = true → ∃ t, exec (.mOn d) s = .next t ∧ s.Did t fun x => x.setS d 0)
            ∧ (r.getLsbD 16 = false → ∃ t, exec (.mOn d) s = .next t ∧ (t.seq q).pc = x.pc ∧ s.OnlyCore t q
              ∧ (t.core (coreOf q)).waiters = (if q ∈ k.waiters then k.waiters else k.waiters ++ [q]))))
      ∧ (k.holder = some q →
        (∃ t, exec .mOff s = .next t ∧ s.DidInCore t (fun x => x)
            ∧ t.core (coreOf q) = { k with
                holder := none, acc0 := [], acc1 := [], accPois := [], progress := none, waiters := (t.core (coreOf q)).waiters })
          ∧ (∃ t, exec (.mZero c) s = .next t ∧ s.DidInCore t (fun x => x)
            ∧ (t.core (coreOf q)).acc c = [] ∧ (t.core (coreOf q)).acc (!c) = k.acc (!c)
            ∧ (t.core (coreOf q)).vreg = k.vreg ∧ (t.core (coreOf q)).holder = some q)
          ∧ (s.strongOpen q = false → (∀ st ∈ x.stores, st.pad = none) → r.toNat % 2 = 0 → padBase ≤ r.toNat → r.toNat + 512 ≤ padBase + padSize → p.spPois = [] →
            (freq.sum = 4096 → ∃ t, exec (.mLdtab n d) s = .next t ∧ s.DidInCore t (fun x => x)
                ∧ set t n.toNat = { valid := true, freq := freq } ∧ ∀ i, i ≠ n.toNat → set t i = set s i)
              ∧ (freq.sum ≠ 4096 → x.tr.tvec ≠ 0 → ∃ t, exec (.mLdtab n d) s = .next t ∧ (set t n.toNat).valid = false
                ∧ (t.seq q).tr.inTrap = true ∧ (t.seq q).tr.epc0 = x.pc.q0 ∧ fld (t.seq q).tr.tcause 0 8 = 11
                ∧ (t.seq q).pc.q0 = x.tr.tvec)))
      ∧ (k.holder ≠ some q → s.Handles q 23 → ∀ i ∈ [Instr.mOff, .mZero c, .mLdtab n d],
        ∃ t, exec i s = .next t ∧ s.Faulted t { cause := 23, tval := s.tvalWord q 0 })

/-- R241, R245 to R247, R109 and R101: the matrix words with matrix mode held: rank-one updates with one rounding per element, in
binary32 or modulo 2^32; moves of a row or a column to and from a register group; images of the MVL by MVL corner written to and
read from the scratchpad with each element converted. Stated without poison, of a launch that does not log, and with every store of
the sequencer performed.
The model's choices it rests on: log entry 20. -/
def Obligations.MatrixWords : Prop :=
  ∀ (s : State) (c : Bool) (a b sd : Reg) (f : Fmt),
    let q := s.turn
    let x := s.seq q
    let k := s.core (coreOf q)
    let p := s.pad (clusterOf q)
    let vt := x.csr.vtype
    let w := vtEw vt
    let lm := vtLmul vt
    let n := k.mvl
    let flt := k.accFmt == 0x42
    let acc (t : State) (e : Bool) (i j : Nat) : Nat := (t.core (coreOf q)).accElem e i j
    let int (v : Nat) : Int := if f.signed then (BitVec.ofNat f.width v).toInt else (v : Int)
    let step (neg : Bool) (z u v : Nat) : Nat :=
      if flt then
        ((fmaEx .rne (if neg then (f.decode u).neg else f.decode u) (f.decode v) (decodeIeee .f32 z)).round (.ieee .f32) FCtl.rne).1
      else (if neg then BitVec.ofNat 32 z - BitVec.ofInt 32 (int u * int v) else BitVec.ofNat 32 z + BitVec.ofInt 32 (int u * int v)).toNat
    let accFmt : Fmt := if flt then .ieee .f32 else .int true 5
    let at_ := (x.getS sd).toNat
    let desc := readDesc (x.getS sd) (x.getS (sd + 1)) false
    let same (t : State) : Prop := ∀ i j, i < 128 → j < 128 → acc t (!c) i j = acc s (!c) i j
    s.VecReady q → x.tr.inTrap = false → k.holder = some q → k.accPois = [] → 0 < n → n ≤ 128 → p.spPois = [] → p.region = [] →
    x.cur.log = 0 → s.storesOpen q = false → a.toNat % lm = 0 →
      (Fmt.ofCode (vtFmt vt) = some f → n ≤ vlmaxOf vt x.grant → abFormat k.accFmt f = true → b.toNat % lm = 0 →
        ∀ r ∈ ([(.mOpa c a b, false), (.mOps c a b, true)] : List (Instr × Bool)),
          ∃ t v0 v1 v2 v3, exec r.1 s = .next t
            ∧ s.DidInCore t (fun x => { x with csr := { x.csr with npv0 := v0, npv1 := v1, npv2 := v2, npv3 := v3 } })
            ∧ same t ∧ (t.core (coreOf q)).vreg = k.vreg
            ∧ ∀ i j, i < 128 → j < 128 → acc t c i j
                = if i < n ∧ j < n then step r.2 (acc s c i j) (s.elemAt q a i) (s.elemAt q b j) else acc s c i j)
      ∧ (w = 32 → n ≤ vlmaxOf vt x.grant → at_ < n →
        (∀ r ∈ ([(.mRdrow c a sd, fun e => acc s c at_ e), (.mRdcol c a sd, fun e => acc s c e at_)] : List (Instr × (Nat → Nat))),
          ∃ t, exec r.1 s = .next t
            ∧ s.VecWrote t q x a 32 lm
              (fun g j => if x.index g j < n then r.2 (x.index g j)
                else if vtTailZero vt then 0 else k.elem g a.toNat 32 j) (fun _ _ => 0))
        ∧ ∃ t, exec (.mWrrow c a sd) s = .next t ∧ s.DidInCore t (fun x => x) ∧ same t ∧ (t.core (coreOf q)).vreg = k.vreg
          ∧ ∀ i j, i < 128 → j < 128 → acc t c i j = if i = at_ ∧ j < n then s.elemAt q a j else acc s c i j)
      ∧ ∀ D, desc = some D → padChecks p [(D, n, n)] = none →
        (stFormat k.accFmt D.f = true → ∃ t v0 v1 v2 v3 fl, exec (.mSt c sd) s = .next t ∧ s.MovedOn t q
            ∧ { x with csr := { x.csr with npv0 := v0, npv1 := v1, npv2 := v2, npv3 := v3, fflags := x.csr.fflags ||| fl } }.Kept
              (t.seq q)
            ∧ s.SameMemory t ∧ t.core (coreOf q) = { k with progress := (t.core (coreOf q)).progress }
            ∧ t.pad (clusterOf q) = (List.range n).foldl (fun p i => D.write i 0 ((List.range n).map fun j => toBytes D.f.bytes
                (convertElem accFmt D.f { FCtl.of x.csr.fctl with flushIn := false, flushOut := false } false (acc s c i j)).1) p) p)
        ∧ (ldFormat k.accFmt D.f = true → ∃ t, exec (.mLd c sd) s = .next t ∧ s.DidInCore t (fun x => x) ∧ same t
            ∧ (t.core (coreOf q)).vreg = k.vreg
            ∧ ∀ i j, i < 128 → j < 128 → acc t c i j = if i < n ∧ j < n then
                (convertElem D.f accFmt FCtl.rne false (ofBytes (p.read D.rot i (D.rowAt i + j * D.f.bytes) D.f.bytes))).1
              else acc s c i j)

/-- R248 to R251, R259 and R109: a segment of mt.mul adds the products of up to eight rows in ascending k, one rounding each, or, gated,
none; while rows remain the word stays at its place with its marker behind the segment, and with the last segment it retires. Its
checks are made at its issue alone. Rows of a plain B and columns of an A with a descriptor are their elements in the scratchpad.
The model's choices it rests on: log entry 20. -/
def Obligations.TileMultiply : Prop :=
  ∀ (s : State) (n : BitVec 2) (c : Bool) (a b sd : Reg) (fn : BitVec 3) (u : Mul) (row : Nat) (ops : List Word) (g : Bool)
    (bs as : List (List Nat)),
    let q := s.turn
    let x := s.seq q
    let k := s.core (coreOf q)
    let wk := s.unitWork q
    let p := s.pad (clusterOf q)
    let m := Nat.min 8 (u.kk - row)
    let acc (t : State) (i j : Nat) : Nat := ((t.core (coreOf q)).accElem c i j)
    let int (f : Fmt) (v : Nat) : Int := if f.signed then (BitVec.ofNat f.width v).toInt else (v : Int)
    let step (z v w : Nat) : Nat :=
      if k.accFmt == 0x42 then
        ((fmaEx .rne (u.fa.decode v) (u.bd.f.decode w) (decodeIeee .f32 z)).round (.ieee .f32) FCtl.rne).1
      else (BitVec.ofNat 32 z + BitVec.ofInt 32 (int u.fa v * int u.bd.f w)).toNat
    x.frozen = false → x.tr.inTrap = false → x.resume = false → x.peerErr = none → k.holder = some q → k.accPois = [] →
    0 < k.mvl → k.mvl ≤ 128 → (fn.getLsbD 0 = true ∨ a.toNat % (if x.csr.vtype = 0 then 1 else vtLmul x.csr.vtype) = 0) →
    (k.progress = none ∧ row = 0 ∧ ops = (List.range 5).map (fun i => x.getS (sd + BitVec.ofNat 5 i)))
      ∨ (ops ≠ [] ∧ ∃ fresh recs, k.progress = some { unit := x.pc.q0, position := 0, row := row, ops := ops, fresh := fresh, recs := recs }) →
    (if k.progress = none then wk.mulSetup n a fn ops row else wk.mulRead a fn ops) = .ok u → s.padReadWaits q = false → row < u.kk → wk.mulFetch u n a row m = .ok (bs, as) →
    wk.gated (fn.getLsbD 2) b (row / 32) = some g →
      (∃ t, exec (.mtMul n c a b sd fn) s = .next t ∧ s.SameMemory t ∧ (t.core (coreOf q)).vreg = k.vreg
        ∧ (∀ i j, i < 128 → j < 128 → acc t i j
            = if g = false ∧ i < k.mvl ∧ j < k.mvl then
                (List.range m).foldl (fun z e => step z ((as.getD e []).getD i 0) ((bs.getD e []).getD j 0)) (acc s i j)
              else acc s i j)
        ∧ (t.seq q).csr.skipcnt = x.csr.skipcnt + (if g = true ∧ row % 32 = 0 then 1 else 0)
        ∧ if row + 8 < u.kk then (t.seq q).pc = x.pc ∧ (t.core (coreOf q)).progress.map Progress.row = some (row + 8)
          else s.MovedOn t q ∧ (t.core (coreOf q)).progress = none)
      ∧ (u.bd.coded = false → p.spPois = [] → ∀ e j, e < m → j < k.mvl →
        (bs.getD e []).getD j 0 = ofBytes (p.read u.bd.rot (row + e) (u.bd.rowAt (row + e) + j * u.bd.f.bytes) u.bd.f.bytes))
      ∧ (∀ D, u.ad = some D → p.spPois = [] → ∀ e i, e < m → i < k.mvl →
        (as.getD e []).getD i 0 = ofBytes (p.read D.rot (row + e) (D.rowAt (row + e) + i * D.f.bytes) D.f.bytes))

/-- R269 to R272, R276 and R277: with fewer than 16 commands outstanding and its checks passed, a c word raises its tag's outstanding
count, notes the barrier it names and places one command with its operands, sampled FCTL and earlier stores to wait for; c.xf first
waits for the sequencer's stores, then applies its data operation to the scratchpad at once, in the sequencer's program order. With 16
outstanding the unit waits; a failed check traps with no command placed, among them must-be-zero bits (cause 12) and a misaligned index
list (cause 3). Stated of a launch that does not log where c.xf writes, of a scratchpad without poison. And what the data operations
leave in the scratchpad: tr transposes blocks of 8 by 8 words, cvt converts elements under the sampled FCTL, scl multiplies them by
the binary32 in sb, zero leaves zeros, add leaves sums modulo 2^32 or rounded binary32 sums; bytes outside the written run are
unchanged. Stated of runs that do not overlap, or, for tr, are the same.
The model's choices it rests on: log entries 43 and 46. -/
def Obligations.EngineCommands : Prop :=
  (∀ (s : State) (a b c : Reg) (tag : BitVec 3) (bar : BitVec 4),
      let q := s.turn
      let x := s.seq q
      let cl := clusterOf q
      let l := s.cluster cl
      let sa := x.getS a
      let sb := x.getS b
      let sc := x.getS c
      let used := (x.tags.map fun e => e.2.count).sum
      let cmd (op : CmdOp) (w : Word) : EngCmd :=
        { id := l.nextCmd, owner := q, after := x.stores.length, op := op, sa := sa, sb := sb, sc := w, tag := tag.toNat
          bar := bar.toNat, fctl := x.csr.fctl, asid := x.cur.asid, partition := x.cur.partition, launch := x.cur.seq
          log := x.cur.log, window := x.csr.winno.toNat }
      let counted (x : Seq) : Seq :=
        let g := FMap.get ({} : EngTag) x.tags tag.toNat
        { x with
          tags := FMap.set {} x.tags tag.toNat { g with count := g.count + 1 }
          barUsed := if bar = 0 then x.barUsed else FMap.put x.barUsed bar.toNat x.csr.winno.toNat }
      let placed (t : State) (p : Pad) (k : EngCmd) : Prop :=
        s.MovedOn t q ∧ s.OnlyCluster t q ∧ (counted x).Kept (t.seq q)
          ∧ t.cluster cl = { l with pad := p, cmds := l.cmds ++ [k], nextCmd := l.nextCmd + 1 }
      let copy := (Instr.cCopy a b c tag bar, cmd .copy sc)
      let gath := (Instr.cGath a b c tag bar, cmd .gath sc)
      let scat := (Instr.cScat a b c tag bar, cmd .scat sc)
      let fill := (Instr.cFill a b tag bar, cmd .fill (x.getS 0))
      let xf := (Instr.cXf a b c tag bar, cmd .xf sc)
      let faults (i : Instr) (cause : Nat) (tval : Word) : Prop :=
        s.Handles q cause → ∃ t, exec i s = .next t ∧ s.Faulted t { cause := cause, tval := tval }
      (∀ r ∈ [copy, gath, scat, fill, xf],
        (16 ≤ used → ∃ t, exec r.1 s = .next t ∧ s.Waits t q)
          ∧ (used < 16 → ∀ cs tv, r.2.check l.pad = some (cs, tv) → faults r.1 cs (tv.getD (s.tvalWord q 0))))
        ∧ (∀ r ∈ [copy, gath, scat, fill], used < 16 → r.2.check l.pad = none →
            ∃ t, exec r.1 s = .next t ∧ placed t l.pad r.2)
        ∧ (used < 16 → xf.2.check l.pad = none → s.storesOpen q = true → ∃ t, exec xf.1 s = .next t ∧ s.Waits t q)
        ∧ (used < 16 → xf.2.check l.pad = none → s.storesOpen q = false → x.cur.log = 0 → l.pad.spPois = [] →
            ∃ t, exec xf.1 s = .next t
              ∧ placed t (if xf.2.xop = 5 then l.pad else (xf.2.transform l.pad).1)
                  { xf.2 with row := 1, flags := if xf.2.xop = 5 then 0 else (xf.2.transform l.pad).2 })
        ∧ (used < 16 → (2 ^ 45 ≤ sa.toNat → faults fill.1 12 (s.tvalWord q 0))
            ∧ (fld sc 32 16 ≠ 0 → faults gath.1 12 (s.tvalWord q 0)) ∧ (fld sc 48 16 ≠ 0 → faults scat.1 12 (s.tvalWord q 0))
            ∧ (fld sc 32 16 = 0 → sb.toNat % 8 ≠ 0 → faults gath.1 3 sb) ∧ (fld sc 48 16 = 0 → sa.toNat % 8 ≠ 0 → faults scat.1 3 sa)
            ∧ (5 < fld sc 0 4 → faults xf.1 12 (s.tvalWord q 0))))
    ∧ ∀ (k : EngCmd) (p : Pad),
      let a := fld k.sa 0 22
      let b := fld k.sb 0 22
      let n := k.count
      let c := FCtl.of k.fctl
      let r := k.transform p
      let only (len : Nat) : Prop := ∀ o, o < a ∨ a + len ≤ o → r.1.num o 1 = p.num o 1
      let apart (la lb : Nat) : Prop := a + la ≤ b ∨ b + lb ≤ a
      let each (da db : Nat) (f : Nat → Nat × FFlags) : Prop :=
        (∀ i, i < n → r.1.num (a + da * i) da = (f (p.num (b + db * i) db)).1 % 256 ^ da)
          ∧ r.2 = (List.range n).foldl (fun e i => e ||| (f (p.num (b + db * i) db)).2) 0 ∧ only (da * n)
      k.op = .xf →
        (k.xop = 0 → a = b ∨ apart (256 * n) (256 * n) →
          (∀ m i j : Nat, m < n → i < 8 → j < 8 →
            r.1.num (a + 256 * m + 32 * i + 4 * j) 4 = p.num (b + 256 * m + 32 * j + 4 * i) 4) ∧ r.2 = 0 ∧ only (256 * n))
        ∧ (∀ f g, k.xop = 1 → k.fmt = some f → k.dfmt = some g → apart (g.bytes * n) (f.bytes * n) →
            each g.bytes f.bytes (convertElem f g c false))
        ∧ (∀ f : FpFmt, k.xop = 2 → k.fmt = some (.ieee f) →
            let w := (Fmt.ieee f).bytes
            let y := flushVal (.ieee .f32) c (decodeIeee .f32 (fld k.sb 0 32))
            let scale (v : Nat) : Nat × FFlags :=
              let x := flushVal (.ieee f) c (decodeIeee f v)
              let e := (mulEx x.1 y.1).round (.ieee f) c
              (e.1, x.2 ||| y.2 ||| e.2)
            (∀ i, i < n → r.1.num (a + w * i) w = (scale (p.num (a + w * i) w)).1 % 256 ^ w)
              ∧ r.2 = (List.range n).foldl (fun e i => e ||| (scale (p.num (a + w * i) w)).2) 0 ∧ only (w * n))
        ∧ (k.xop = 3 → (∀ o, a ≤ o → o < a + 32 * n → r.1.num o 1 = 0) ∧ r.2 = 0 ∧ only (32 * n))
        ∧ (∀ f, k.xop = 4 → k.fmt = some f → apart (4 * n) (4 * n) →
            let sum (i : Nat) : Nat × FFlags :=
              let u := p.num (a + 4 * i) 4
              let v := p.num (b + 4 * i) 4
              if f.isInt then ((u + v) % 2 ^ 32, 0) else fpAdd f FCtl.rne u v
            (∀ i, i < n → r.1.num (a + 4 * i) 4 = (sum i).1 % 2 ^ 32)
              ∧ r.2 = (List.range n).foldl (fun e i => e ||| (sum i).2) 0 ∧ only (4 * n))

/-- R279, R281 and R282: c.wait waits for its tag, raises the tag's first error once, or takes its flags; cb.set arms a barrier and
watches its phase, cb.arr and cb.arw count an arrival once the sequencer's stores are performed, cb.wt and cb.arw wait until the phase
has changed from the watched one, each noting the barrier as used in the window, and cb.st reads the fields. A phase completes at the target: last takes the count, error and count
clear, the phase toggles.
The model's choices it rests on: log entry 64. -/
def Obligations.WaitsAndBarriers : Prop :=
  ∀ (s : State) (tag : BitVec 3) (a d b : Reg),
    let q := s.turn
    let x := s.seq q
    let cl := clusterOf q
    let l := s.cluster cl
    let g := FMap.get ({} : EngTag) x.tags tag.toNat
    let n := b.toNat
    let r := s.barrier cl n
    let v := (x.getS a).toNat
    let test (r : Barrier) : Barrier :=
      if r.target ≠ 0 ∧ r.target ≤ r.count then { target := r.target, count := 0, phase := !r.phase, error := false, last := r.count }
      else r
    let arr := test { r with count := Nat.min 0xFFFF (r.count + 1) }
    let noted (x : Seq) : Seq := { x with barUsed := FMap.put x.barUsed n x.csr.winno.toNat }
    let seen (x : Seq) : Seq := { noted x with watched := FMap.put x.watched n r.phase }
    let gives (t : State) (r : Barrier) : Prop :=
      s.OnlyCluster t q ∧ t.barrier cl n = r ∧ (∀ m, m ≠ n → t.barrier cl m = s.barrier cl m)
        ∧ t.cluster cl = { l with pad := { l.pad with barrier := (t.pad cl).barrier } }
    let still (t : State) : Prop := (t.seq q).pc = x.pc ∧ (t.seq q).csr.units = x.csr.units
    let done := (n, x.pc.q0)
    let left := x.arrived.filter fun e => e != done
    (g.count ≠ 0 → ∃ t, exec (.cWait tag) s = .next t ∧ s.Waits t q)
      ∧ (g.count = 0 → g.cause = 0 → ∃ t, exec (.cWait tag) s = .next t
          ∧ s.Did t fun x => { x with
              tags := FMap.set {} x.tags tag.toNat {}, csr := { x.csr with fflags := x.csr.fflags ||| g.flags } })
      ∧ (g.count = 0 → g.cause ≠ 0 → s.Handles q g.cause → ∃ t, exec (.cWait tag) s = .next t
          ∧ FMap.get ({} : EngTag) (t.seq q).tags tag.toNat = {}
          ∧ (s.modSeq q fun x => { x with tags := (t.seq q).tags }).Trapped t q x.pc 0 { cause := g.cause, tval := g.addr })
      ∧ (v = 0 ∨ 65535 < v → s.Handles q 12 →
          ∃ t, exec (.cbSet a b) s = .next t ∧ s.Faulted t { cause := 12, tval := s.tvalWord q 0 })
      ∧ (0 < v → v ≤ 65535 → ∃ t, exec (.cbSet a b) s = .next t ∧ s.MovedOn t q ∧ (seen x).Kept (t.seq q)
          ∧ gives t (test { r with target := v }))
      ∧ (s.storesOpen q = true → ∀ i ∈ [Instr.cbArr b, .cbArw b], i = .cbArr b ∨ done ∉ x.arrived → ∃ t, exec i s = .next t ∧ s.Waits t q)
      ∧ (s.storesOpen q = false → ∃ t, exec (.cbArr b) s = .next t ∧ s.MovedOn t q ∧ (seen x).Kept (t.seq q) ∧ gives t arr)
      ∧ (s.storesOpen q = false → done ∉ x.arrived → arr.phase ≠ r.phase →
          ∃ t, exec (.cbArw b) s = .next t ∧ s.MovedOn t q ∧ gives t arr
            ∧ { seen x with watched := FMap.erase x.watched n, arrived := left }.Kept (t.seq q))
      ∧ (s.storesOpen q = false → done ∉ x.arrived → arr.phase = r.phase →
          ∃ t, exec (.cbArw b) s = .next t ∧ still t ∧ gives t arr ∧ { seen x with arrived := done :: x.arrived }.Kept (t.seq q))
      ∧ (∀ i ∈ [Instr.cbWt b, .cbArw b], i = .cbWt b ∨ done ∈ x.arrived →
          (FMap.find? x.watched n = some r.phase → ∃ t, exec i s = .next t ∧ (s.modSeq q noted).Waits t q)
            ∧ (FMap.find? x.watched n = some (!r.phase) → ∃ t, exec i s = .next t
                ∧ s.Did t fun x => { noted x with watched := FMap.erase x.watched n, arrived := left })
            ∧ (FMap.find? x.watched n = none → ∃ t, exec i s = .next t ∧ still t ∧ s.OnlySeq t q ∧ (seen x).Kept (t.seq q)))
      ∧ ∃ t, exec (.cbSt d b) s = .next t
          ∧ s.Did t fun x => x.setS d (BitVec.ofNat 64
              (r.target + 2 ^ 16 * r.count + 2 ^ 32 * r.phase.toNat + 2 ^ 33 * r.error.toNat + 2 ^ 34 * r.last))

/-- R352: the held spans of a stream are a function of its append count. `State.appendLevels` performs the merge rule of one append;
performed n times from an empty stream it leaves what `levelCounts` says, its merges and drops number `mergeSeq`, and no level then
holds more spans than its capacity. -/
def Obligations.HeldSpans : Prop :=
  ∀ (caps : List Nat) (n : Nat), caps ≠ [] → (∀ w ∈ caps, 1 ≤ w ∧ w ≤ 255) →
    (List.range n).foldl (fun (st : List (Nat × Nat) × Nat) _ =>
        ((appendLevels caps st.1 true).1, st.2 + (appendLevels caps st.1 true).2)) (caps.map fun _ => (0, 0), 0)
      = (levelCounts caps n, mergeSeq (levelCounts caps n))
    ∧ ∀ j w, caps[j]? = some w → received (levelCounts caps n) j - freed (levelCounts caps n) j ≤ w

/-- R356 to R361 (and R354 through `State.resolveTime`): p.bind registers a binding and a logging launch's ownership and returns the
handle, of the lowest free slot and of a serial that counts from 1 and skips 0, p.unbind frees it, p.app sends the active items of its register group as one block, p.ld and p.lds write items and span words
against one snapshot, and p.info returns a value of it; the three wait for the sequencer's own appends to the stream and for the stores
that their reads must follow. A dead handle raises cause 21 with reason 3, a full table reason 2, an append against another owner reason
6, and a misaligned register group cause 1. Stated of streams without poison whose descriptor and slots need no fill first, of vector and
mask registers without poison and, for appends, of a launch that does not log.
The model's choices it rests on: log entries 11, 47, 48, 49, 51, 92 and 130. -/
def Obligations.PyramidWords : Prop :=
  ∀ (s : State) (d a b : Reg) (m : MReg) (lv sel : BitVec 4),
    let q := s.turn
    let x := s.seq q
    let k := s.core (coreOf q)
    let va := x.getS a
    let h := x.getS a
    let vt := x.csr.vtype
    let ew := vtEw vt
    let per := vtPer vt
    let fault (i : Instr) (cause : Nat) (tval : Word) : Prop :=
      s.Handles q cause → ∃ t, exec i s = .next t ∧ s.Faulted t { cause := cause, tval := tval }
    let reason (n : Nat) (v : Word) : Word := BitVec.ofNat 64 (n * 2 ^ 56 + v.toNat % 2 ^ 56)
    let onlyStream (t : State) (desc : Nat) : Prop :=
      t = { s with
          tick := t.tick, now := t.now, turn := t.turn, seqs := t.seqs, cores := t.cores, requests := t.requests
          streams := t.streams }
        ∧ (∀ r, r ≠ q → t.seq r = s.seq r) ∧ (∀ c, c ≠ coreOf q → t.core c = s.core c)
        ∧ t.core (coreOf q) = { k with progress := (t.core (coreOf q)).progress }
        ∧ (∀ e, e ≠ desc → t.stream e = s.stream e) ∧ s.SameMemory t
    let group (per i : Nat) : Nat := ((List.range 4).find? fun g => x.grant.getLsbD g && rankOf x.grant g == i / per).getD 0
    let fits := vtUsable vt = true ∧ x.csr.vl ≤ vlmaxOf vt x.grant ∧ k.vpois = [] ∧ k.maskPois = []
    x.frozen = false →
      ((∀ slot bd, (∀ i, i < slot → (FMap.find? x.handles i).isSome) → FMap.find? x.handles slot = none → slot < 8 →
          s.bindCheck q va = .ok bd →
          let st := s.stream bd.x.pa
          let n := x.hserial % 0xFFFFFF + 1
          let first := st.binds.isEmpty
          let owns := st.owner.isNone && x.cur.log != 0
          ∃ t, exec (.pBind d a) s = .next t ∧ s.MovedOn t q ∧ onlyStream t bd.x.pa
            ∧ ({ x with hserial := n, handles := FMap.put x.handles slot { serial := n, desc := bd.x.pa, va := va } }.setS d
                (BitVec.ofNat 64 (slot + n * 2 ^ 8))).Kept (t.seq q)
            ∧ t.stream bd.x.pa = { st with
                va := if first then va else st.va, asid := if first then x.cur.asid else st.asid
                binds := st.binds ++ [(q, n, x.cur.partition, x.cur.seq)]
                owner := if owns then some (x.cur.partition, x.cur.seq) else st.owner
                apin := if owns then s.streamCount bd.x.pa else st.apin
                apins := if owns then [(x.csr.winno.toNat, s.streamCount bd.x.pa)] else st.apins })
        ∧ ((∀ i, i < 8 → (FMap.find? x.handles i).isSome) → fault (.pBind d a) 21 (reason 2 va))
        ∧ ((∃ i, i < 8 ∧ FMap.find? x.handles i = none) → va.toNat % 64 ≠ 0 → fault (.pBind d a) 3 va)
        ∧ (x.binding h = none → ∀ i ∈ [Instr.pApp d a b m, .pLd d a b m lv, .pLds d a b lv, .pInfo d a sel, .pUnbind a],
            vt = 0 ∨ d.toNat % vtLmul vt = 0 → (i = .pLd d a b m lv → vt = 0 ∨ b.toNat % vtLmul vt = 0) → fault i 21 (reason 3 h))
        ∧ (vt ≠ 0 → d.toNat % vtLmul vt ≠ 0 → ∀ i ∈ [Instr.pApp d a b m, .pLd d a b m lv, .pLds d a b lv], fault i 1 (s.tvalWord q 0))
        ∧ (vt ≠ 0 → b.toNat % vtLmul vt ≠ 0 → fault (.pLd d a b m lv) 1 (s.tvalWord q 0))
        ∧ ∀ hb pd, x.binding h = some hb → s.needsFill hb.desc 64 = false → s.streamDesc hb.desc = some pd → s.homeBad hb = none →
          let own := (s.stream hb.desc).owner
          let n := x.csr.vl / pd.elems
          let is := (List.range n).filter fun j => m == 0 || s.actAt q m (j * pd.elems)
          let items := is.map fun j =>
            ((List.range pd.elems).map fun e => toBytes (ew / 8) (s.elemAt q d (j * pd.elems + e))).flatten
          let mine := own = none ∨ own = some (x.cur.partition, x.cur.seq)
          let apps := fits ∧ vtFmt vt = pd.code ∧ x.csr.vl % pd.elems = 0 ∧ d.toNat % vtLmul vt = 0
          let waits := s.pLoadWaits q hb
          let lc := levelCounts pd.caps (s.streamCount hb.desc)
          let held := (List.range pd.levels).filter fun j => decide (freed lc j < received lc j)
          (x.appends.any (fun e => e.slot == h.toNat % 8) = true → ∃ t, exec (.pUnbind a) s = .next t ∧ s.Waits t q)
            ∧ (x.appends.any (fun e => e.slot == h.toNat % 8) = false → (s.stream hb.desc).pend = [] →
                ∃ t, exec (.pUnbind a) s = .next t ∧ s.MovedOn t q ∧ onlyStream t hb.desc
                  ∧ { x with handles := FMap.erase x.handles (h.toNat % 8) }.Kept (t.seq q)
                  ∧ (t.stream hb.desc).binds = (s.stream hb.desc).binds.filter (fun e => !(e.1 == q && e.2.2 == x.key && e.2.1 == hb.serial))
                  ∧ (∀ o, own = some o → (t.stream hb.desc).owner
                      = if (t.stream hb.desc).binds.any fun e => e.2.2 == o then own else none))
            ∧ (apps → mine ∨ items = [] → x.cur.log = 0 →
                s.streamCount hb.desc + s.pendingItems hb.desc + items.length ≤ 2 ^ 48 →
                ∃ t, exec (.pApp d a b m) s = .next t
                  ∧ s.Did t fun x => { x with appends := dropTime b x.appends
                      ++ [{ reg := b, desc := hb.desc, slot := h.toNat % 8, items := items, after := x.stores.length }] })
            ∧ (apps → ¬ mine → items ≠ [] → fault (.pApp d a b m) 21 (reason 6 h))
            ∧ (waits = true → ∃ t, exec (.pInfo d a sel) s = .next t ∧ s.Waits t q)
            ∧ (waits = false →
                let value : Nat → Nat
                  | 0 => s.streamCount hb.desc
                  | 1 => s.streamSeq hb.desc
                  | 2 => (held.map fun j => freed lc j * 2 ^ j).foldl Nat.min (s.streamCount hb.desc)
                  | 3 => pd.levels + 2 ^ 8 * (pd.elems - 1) + 2 ^ 16 * pd.code.toNat + 2 ^ 24 * pd.comb + 2 ^ 28 * pd.rsv
                  | 4 => (held.map fun j => 2 ^ j).sum
                  | _ => (mapPa hb.desc).group + 2 ^ 32 * (match own with | some o => o.2 | none => 0)
                ∃ t, exec (.pInfo d a sel) s = .next t ∧ s.Did t fun x => x.setS d (BitVec.ofNat 64 (value sel.toNat)))
            ∧ ∀ r ∈ ([(.pLd d a b m lv, x.csr.vl, n, fun j => m == 0 || s.actAt q m (j * pd.elems),
                    fun j => k.elem (group 16 j) b.toNat 64 (j % 16)),
                  (.pLds d a b lv, pd.elems, 1, fun _ => true, fun _ => (x.getS b).toNat)]
                : List (Instr × Nat × Nat × (Nat → Bool) × (Nat → Nat))),
              let vl := r.2.1
              let act := r.2.2.2.1
              let res (j : Nat) : Resolved := s.resolveTime hb.desc pd (r.2.2.2.2 j) lv.toNat
              let slots := ((List.range r.2.2.1).filter act).flatMap fun j => s.timeSlots hb.desc pd (r.2.2.2.2 j) lv.toNat
              s.slotsWait hb.desc pd slots = false → fits → vtFmt vt = pd.code → vtLmul vt = 1 → d ≠ 31 → waits = false →
              (r.1 = .pLd d a b m lv → x.csr.vl % pd.elems = 0 ∧ n ≤ 16 * grants x.grant ∧ b ≠ d ∧ b ≠ d + 1) →
              (r.1 = .pLds d a b lv → pd.elems ≤ vlmaxOf vt x.grant) →
              (vl = 0 → ∃ t, exec r.1 s = .next t ∧ s.Did t fun x => x)
                ∧ (0 < vl → (∀ j, j < r.2.2.1 → act j = true → (res j).data.bad = none) →
                  ∃ t, exec r.1 s = .next t ∧ s.MovedOn t q ∧ s.OnlyCore t q ∧ x.Kept (t.seq q)
                    ∧ ∀ g, x.grant.getLsbD g = true →
                      (∀ i, i < per →
                        let o := rankOf x.grant g * per + i
                        let j := o / pd.elems
                        let es := ew / 8
                        (t.core (coreOf q)).elem g d.toNat ew i
                          = if o < vl ∧ act j = true then
                              ofBytes (((res j).data.bytes.drop (o % pd.elems * es)).take es)
                            else x.left (decide (o < vl)) 0 (k.elem g d.toNat ew i))
                      ∧ (∀ i, i < 16 →
                        let j := rankOf x.grant g * 16 + i
                        (t.core (coreOf q)).elem g (d.toNat + 1) 64 i
                          = if j < r.2.2.1 ∧ act j = true then (res j).word.toNat
                            else x.left (decide (j < r.2.2.1)) 0 (k.elem g (d.toNat + 1) 64 i))
                      ∧ (∀ v g, v < 32 → g < 4 → x.grant.getLsbD g = false ∨ v ≠ d.toNat ∧ v ≠ d.toNat + 1 →
                        FMap.get 0 (t.core (coreOf q)).vreg (32 * g + v) = FMap.get 0 k.vreg (32 * g + v))
                      ∧ t.core (coreOf q) = { k with
                          vreg := (t.core (coreOf q)).vreg, progress := (t.core (coreOf q)).progress }))

/-- R413, R415, R416 and R419: f.coll of a checked descriptor takes the lowest of four handles, counts for its rank and returns the
handle, or returns 0 when none is free; f.wait waits, frees a complete handle, or raises cause 20 with the port; f.test reports 0
running, 1 complete, 2 failed with reason and port, 3 no such handle, the port field 0xFF where none failed. In a trap all three are a double trap, which fails the launch; a
descriptor address that is no multiple of 64 raises cause 3.
The model's choices it rests on: log entries 28, 58, 59 and 130. -/
def Obligations.CollectiveWords : Prop :=
  ∀ (s : State) (d a : Reg),
    let q := s.turn
    let x := s.seq q
    let va := x.getS a
    let fault (i : Instr) (cause : Nat) (tval : Word) : Prop :=
      s.Handles q cause → ∃ t, exec i s = .next t ∧ s.Faulted t { cause := cause, tval := tval }
    let freed (x : Seq) : Seq := { x with chandles := FMap.erase x.chandles (va.toNat % 4) }
    let p := x.cur.partition
    (x.tr.inTrap = true → ∀ i ∈ [Instr.fColl d a, .fWait a, .fTest d a],
        ∀ l, s.launch? p x.cur.seq = some l → l.lstate < 4 →
          ∃ t, exec i s = .next t ∧ t.Fails p x.cur.seq)
      ∧ (x.tr.inTrap = false → va.toNat % 64 ≠ 0 → fault (.fColl d a) 3 va)
      ∧ (x.tr.inTrap = false → va.toNat % 64 = 0 → s.storesOpen q = true → ∃ t, exec (.fColl d a) s = .next t ∧ s.Waits t q)
      ∧ (∀ b m, x.tr.inTrap = false → va.toNat % 64 = 0 → s.storesOpen q = false → s.readVa q va.toNat 64 = .ok b →
          s.collCheck q va b = .ok m →
          (4 ≤ x.chandles.length → ∃ t, exec (.fColl d a) s = .next t ∧ s.Did t fun x => x.setS d 0)
            ∧ ∀ slot, x.chandles.length < 4 → slot < 4 → FMap.find? x.chandles slot = none →
              (∀ i, i < slot → (FMap.find? x.chandles i).isSome) → x.cur.log = 0 →
              let n := x.cserial % 0xFFFFFF + 1
              ∃ t c, exec (.fColl d a) s = .next t ∧ s.MovedOn t q ∧ (s.PlainHomes → (∀ e ∈ s.launches, e.2.log = 0) → s.SameMemoryBut t (m.out ++ s.collOut))
                ∧ (t.seq q).s = (x.setS d (BitVec.ofNat 64 (slot + n * 2 ^ 8))).s ∧ (t.seq q).cserial = n
                ∧ FMap.find? (t.seq q).chandles slot = some c ∧ c.serial = n
                ∧ (∀ g r, t.collCount p g r = if g = m.d.group ∧ r = m.rank then (s.collCount p g r + 1) % 2 ^ 32
                    else s.collCount p g r)
                ∧ (t.seq q).csr.fflags = x.csr.fflags ∧ (t.seq q).a = x.a ∧ (t.seq q).qs = x.qs
                ∧ ∀ k, t.core k = { s.core k with progress := (t.core k).progress })
      ∧ (x.tr.inTrap = false → x.collHandle va = none →
          (∃ t, exec (.fWait a) s = .next t ∧ s.Did t fun x => x)
            ∧ ∃ t, exec (.fTest d a) s = .next t ∧ s.Did t fun x => x.setS d 0xFF0003)
      ∧ ∀ c, x.tr.inTrap = false → x.collHandle va = some c →
        (c.state = 0 → (∃ t, exec (.fWait a) s = .next t ∧ s.Waits t q)
            ∧ ∃ t, exec (.fTest d a) s = .next t ∧ s.Did t fun x => x.setS d 0xFF0000)
          ∧ (c.state = 1 → (∃ t, exec (.fWait a) s = .next t ∧ s.Did t freed)
              ∧ ∃ t, exec (.fTest d a) s = .next t ∧ s.Did t fun x => (freed x).setS d 0xFF0001)
          ∧ (c.state = 2 →
              (s.Handles q 20 → ∃ t, exec (.fWait a) s = .next t
                ∧ (s.modSeq q freed).Trapped t q x.pc 0 { cause := 20, tval := BitVec.ofNat 64 c.port })
              ∧ ∃ t, exec (.fTest d a) s = .next t
                ∧ s.Did t fun x => (freed x).setS d (BitVec.ofNat 64 (2 + c.reason * 2 ^ 8 + c.port * 2 ^ 16)))

/-- R301, R302, R308, R382, R27 and R58: w.info returns the window number. w.mark in a trap is a double trap, which fails the launch;
with bits set beyond its fields it raises cause 1; it waits for what R20 waits for, and raises a tag's error as c.wait does. It then
merges the tags' flags, empties the queues and breaks the link. When the launch does not log that is all, unless a mark request stops
the launch there. When it logs, the sequencer's snapshot block goes to its ring, in memory nothing outside the ring changes, and the
unit waits at its place until the launch's window has opened, which the last arrival does; a ring that cannot take the block, or the
last window number, raises cause 13 with nothing done. What the ring takes is stated of memory whose frames are where they were and whose
homes take a write as it is. A hint retires with no effect but what h.pf brings into the die caches, which in
DRAM without errors, failed channels or stored lines changes nothing else.
The model's choices it rests on: log entries 31, 40 and 86. -/
def Obligations.WindowsAndHints : Prop :=
  ∀ (s : State) (d a b : Reg) (fn : BitVec 11),
    let q := s.turn
    let x := s.seq q
    let vm := x.getS a
    let fl := x.getS b
    let p := x.cur.partition
    let n := x.cur.seq
    let ok := x.tr.inTrap = false ∧ vm.toNat < 2 ^ 32 ∧ fl.toNat < 2 ^ 19
    let settled (x : Seq) : Seq :=
      { x with
        tags := [], qs := {}, link := .none
        csr := { x.csr with fflags := x.csr.fflags ||| x.tags.foldl (fun f e => f ||| e.2.flags) (0 : FFlags) } }
    let clean := s.quiet q = true ∧ x.peerErr = none ∧ x.tags.all (fun e => e.2.cause == 0) = true
    let s' := s.modSeq q settled
    let ringOnly (l : Launch) (t : State) : Prop :=
      match l.ringPair with
      | none => s.SameMemory t
      | some k =>
        let base := s.ringBase p k (dieOf q)
        s.PlainHomes → ∀ i, i < base ∨ base + s.ringCap p ≤ i → FMap.get 0 t.mem i = FMap.get 0 s.mem i
    (∃ t, exec (.wInfo d) s = .next t ∧ s.Did t fun x => x.setS d (x.csr.winno.zeroExtend 64))
      ∧ (x.tr.inTrap = true → ∀ l, s.launch? p n = some l → l.lstate < 4 →
          ∃ t, exec (.wMark a b) s = .next t ∧ t.Fails p n)
      ∧ (x.tr.inTrap = false → 2 ^ 32 ≤ vm.toNat ∨ 2 ^ 19 ≤ fl.toNat → s.Handles q 1 →
          ∃ t, exec (.wMark a b) s = .next t ∧ s.Faulted t { cause := 1, tval := s.tvalWord q 0 })
      ∧ (ok → x.mark = .opened → ∃ t, exec (.wMark a b) s = .next t ∧ s.Did t fun x => { x with mark := .none })
      ∧ (ok → x.mark = .arrived ∨ x.mark = .none ∧ s.quiet q = false →
          ∃ t, exec (.wMark a b) s = .next t ∧ s.Waits t q)
      ∧ (ok → x.mark = .none → s.quiet q = true → x.peerErr = none → ∀ k, x.errorTag = some k →
          let g := FMap.get ({} : EngTag) x.tags k
          s.Handles q g.cause → ∃ t, exec (.wMark a b) s = .next t
            ∧ (s.modSeq q fun x => { x with tags := FMap.set {} x.tags k {} }).Trapped t q x.pc 0 { cause := g.cause, tval := g.addr })
      ∧ (ok → x.mark = .none → clean → x.cur.log = 0 →
          (x.markReq = false ∨ s'.stopAtMark q vm fl = none → ∃ t, exec (.wMark a b) s = .next t ∧ s.Did t settled)
            ∧ ∀ u l, x.markReq = true → s'.stopAtMark q vm fl = some u → s.launch? p n = some l →
              (l.gang = false → ∃ t l', exec (.wMark a b) s = .next t ∧ t.launch? p n = some l' ∧ l'.held = true
                ∧ (t.seq q).live = false)
              ∧ (l.gang = true → (∃ r ∈ l.ranges, r.q ≠ q ∧ r.ended = false ∧ (r.lost = true ∨ (s.seq r.q).mark ≠ .arrived)) →
                ∃ t, exec (.wMark a b) s = .next t ∧ (t.seq q).mark = .arrived ∧ (t.seq q).pc = x.pc))
      ∧ (ok → x.mark = .none → clean → x.cur.log ≠ 0 → x.resume = false → x.live = true →
          let blk := s'.markBlock q (x.csr.winno.toNat + 1) vm fl
          (x.csr.winno = 0xFFFFFFFF ∨ s'.putSnap p n blk = none → s.Handles q 13 →
              ∃ t, exec (.wMark a b) s = .next t
                ∧ s.Trapped t q x.pc 0 { cause := 13, tval := BitVec.ofNat 64 x.csr.winno.toNat })
            ∧ ∀ u l, x.csr.winno ≠ 0xFFFFFFFF → s'.putSnap p n blk = some u → s.launch? p n = some l →
              (l.log ≠ 0 → s.seqsOf p n = [q] → (∀ r ∈ l.ranges, r.ended = true ∨ r.lost = false ∧ r.q = q) →
                (∀ b ∈ l.snaps, b.window ≤ l.winno) → x.markReq = false →
                ∃ t l', exec (.wMark a b) s = .next t ∧ t.launch? p n = some l' ∧ l'.winno = l.winno + 1 ∧ (t.seq q).pc = x.pc
                  ∧ ringOnly l t ∧ { settled x with
                      mark := .opened, csr := { (settled x).csr with winno := BitVec.ofNat 32 (l.winno + 1) } }.Kept (t.seq q))
              ∧ ((∃ r ∈ l.ranges, r.q ≠ q ∧ r.ended = false ∧ (r.lost = true ∨ (s.seq r.q).mark ≠ .arrived)) →
                ∃ t l' e, exec (.wMark a b) s = .next t ∧ t.launch? p n = some l' ∧ e ∈ l'.snaps ∧ e = { blk with pos := e.pos }
                  ∧ l'.winno = l.winno ∧ (t.seq q).mark = .arrived ∧ (t.seq q).pc = x.pc ∧ ringOnly l t
                  ∧ { settled x with mark := .arrived }.Kept (t.seq q)))
      ∧ (∀ i ∈ [Instr.hPfs d a b, .hNop d a b fn], ∃ t, exec i s = .next t ∧ s.Did t fun x => x)
      ∧ ∃ t, exec (.hPf d a b) s = .next t ∧ s.MovedOn t q ∧ x.Kept (t.seq q)
        ∧ (∀ r, r ≠ q → t.seq r = s.seq r) ∧ (∀ k, t.core k = { s.core k with progress := (t.core k).progress })
        ∧ (s.calm = true → s.SameMemory t ∧ t = { s with
            tick := t.tick, now := t.now, turn := t.turn, seqs := t.seqs, cores := t.cores, requests := t.requests
            lines := t.lines })

/-- R341, R299, R300, R291, R289, R324 to R329, R292, R322, R330 to R336, R315 and R389: what the homes, the translation buffers, the
die caches, the base dies and the host's accesses do: an admitted store leaves its buffer and changes its bytes alone, in memory or in
the scratchpad; an invalidation ends only when nothing it covers is cached; a walk's result is cached; a link tag younger than 256 cycles keeps its line; a compressed
line that is written back fills again with its bytes; a broadcast read returns its elements and a broadcast write changes them; a row
that is being copied takes no access; counters and failed channels; a row goes to a free spare, the lowest; a migration runs start, pass,
freeze, moved, free; the host's reads make it a holder of lines and its writes change their bytes. An event out of place changes nothing.
Stated, where memory changes, of homes that take a write as it is, and where an event may let a failing launch or an undo go on, while
there is none.
The model's choices it rests on: log entries 1, 5, 18, 63, 64, 65, 66, 67, 68, 69, 71, 101 and 115. -/
def Obligations.MemoryEvents : Prop :=
  (∀ (s : State) (q k pa : Nat) (b : List Byte) (st : PStore) (pa2 : Nat),
      (s.seq q).stores[k]? = some st →
      (s.storeFree q k = false → s.Ends (.homeWriteAdmit q k) s)
        ∧ (s.storeFree q k = true → s.hostLine st = some pa2 → s.Ends (.homeWriteAdmit q k) { s with
              hostLines := FMap.set false s.hostLines (pa2 / 128) false, backInval := FMap.set false s.backInval (pa2 / 128) true })
        ∧ (s.storeFree q k = true → s.hostLine st = none → s.PlainHomes → s.Settled → st.parts = [(pa, b)] → st.entry = none → st.pad = none →
            st.packet = false → b ≠ [] → pa % 128 + b.length ≤ 128 → pa < 0x7800000000 →
            ∃ t, exec (.homeWriteAdmit q k) s = .next t ∧ s.MemWrote t pa b ∧ FMap.find? t.lineTags (pa / 128) = none
              ∧ (t.seq q).stores = (s.seq q).stores.eraseIdx k ∧ (∀ r, r ≠ q → t.seq r = s.seq r) ∧ ∀ c, t.core c = s.core c)
        ∧ (∀ c, s.storeFree q k = true → s.Settled → st.parts = [(pa, b)] → st.entry = none → st.pad = some c →
            ∃ t, exec (.homeWriteAdmit q k) s = .next t ∧ (t.seq q).stores = (s.seq q).stores.eraseIdx k ∧ s.SameMemory t
              ∧ ∀ a, FMap.get 0 (t.pad c).sp a = if pa ≤ a ∧ a < pa + b.length then b.getD (a - pa) 0 else FMap.get 0 (s.pad c).sp a))
    ∧ (∀ (s : State) (d q : Nat) (va : Word),
        let a := (s.seq q).cur.asid
        s.Ends (.tlbInvalidate d) (s.modDie d fun x => { x with invBusy := true })
          ∧ ((s.die d).invBusy = false → s.Ends (.invalidationDone d) s)
          ∧ ((s.die d).invBusy = true → s.accessesDone (s.die d) = true →
              ∃ t, exec (.invalidationDone d) s = .next t ∧ t.die d = { s.die d with invBusy := false } ∧ s.SameMemory t
                ∧ (∀ c e, e ∈ FMap.get [] t.tlb c → (s.die d).meets e = false ∧ e ∈ FMap.get [] s.tlb c)
                ∧ ∀ c e, e ∈ FMap.get [] s.tlb c → (s.die d).meets e = false → e.range = false → e ∈ FMap.get [] t.tlb c)
          ∧ (q < 2048 → va.toNat < 2 ^ 56 → s.tablesWait q va.toNat = false →
              (∀ c, s.translateFresh (dieOf q) a (s.seq q).cur.partition va.toNat 1 .read = .error c → s.Ends (.tableWalk q va) s)
                ∧ ∀ x, s.translateFresh (dieOf q) a (s.seq q).cur.partition va.toNat 1 .read = .ok x →
                  ∃ t e, s.Ends (.tableWalk q va) { s with tlb := t } ∧ ({ s with tlb := t } : State).cached (coreOf q) a va.toNat = some e
                    ∧ (va.toNat + e.delta) % 2 ^ 64 = x.pa % 2 ^ 64 ∧ e.attr = x.attr ∧ e.asid = a))
    ∧ (∀ (s : State) (line pa : Nat) (bytes : List Byte),
        let o (t : State) : LineState := FMap.get {} t.lines (pa / 128)
        (FMap.find? s.lineTags line = none → s.Ends (.linkTagEvict line) s)
          ∧ (∀ v w, FMap.find? s.lineTags line = some (v, w) → s.now < w + 256 → s.Ends (.linkTagEvict line) s)
          ∧ (s.writeHeld (128 * line) = true → s.Ends (.linkTagEvict line) s)
          ∧ (∀ v w, FMap.find? s.lineTags line = some (v, w) → w + 256 ≤ s.now → s.writeHeld (128 * line) = false →
              ∃ t, exec (.linkTagEvict line) s = .next t ∧ FMap.find? t.lineTags line = none ∧ FMap.find? t.lines line = none)
          ∧ (pa < 0x7800000000 → s.calm = true →
              ∃ t, exec (.lineFill pa) s = .next t ∧ (o t).valid.getLsbD (pa % 128 / 32) = true ∧ s.SameMemory t)
          ∧ (s.rowHeld pa = true → s.Ends (.lineFill pa) s) ∧ (s.writeHeld pa = true → s.Ends (.lineWriteback pa) s)
          ∧ (pa < 0x7800000000 → (o s).dirty = 0 → s.Ends (.lineWriteback pa) s)
          ∧ (pa < 0x7800000000 → (o s).dirty ≠ 0 → (o s).comp = false → s.calm = true →
              ∃ t, exec (.lineWriteback pa) s = .next t ∧ (o t).dirty = 0 ∧ (o t).valid = (o s).valid ∧ s.SameMemory t)
          ∧ (pa < 0x7800000000 → (o s).dirty ≠ 0 → (o s).comp = true → s.calm = true →
              ∃ t, exec (.lineWriteback pa) s = .next t ∧ (o t).dirty = 0 ∧ s.SameMemory t
                ∧ FMap.find? t.stored (pa / 128) = some (encodeLine (readBytes s.mem (pa / 128 * 128) 128) fun _ => false))
          ∧ (parsePacket bytes = none → s.Ends (.broadcastPacket bytes) s)
          ∧ (∀ p, parsePacket bytes = some p → p.write = false → s.calm = true →
              ∃ t, exec (.broadcastPacket bytes) s = .next t ∧ t.mem = s.mem
                ∧ (∀ a, a ∈ p.elems.map Prod.fst → (FMap.get ({} : LineState) t.lines (a / 128)).dirty = 0)
                ∧ t.answers = p.elems.map fun e =>
                    .element p.id (p.first + e.2) (s.badSector (homeDie e.1) e.1 p.size).isSome (s.readPhys e.1 p.size))
          ∧ ∀ p a, parsePacket bytes = some p → p.write = true → p.elems = [(a, 0)] → s.PlainHomes → s.hostHolds a = false →
              ∃ t, exec (.broadcastPacket bytes) s = .next t ∧ s.MemWrote t a (p.data.take p.size)
                ∧ FMap.find? t.lineTags (a / 128) = none ∧ t.answers = [.written p.id (mapPa a).stack (mapPa a).channel 1])
    ∧ (∀ (b : List Byte) (k : Nat), b.length = 128 → k < 4 →
        ∃ f c, (encodeLine b fun _ => false).fill k = (f, some c) ∧ (c.drop (32 * (k - f))).take 32 = (b.drop (32 * k)).take 32)
    ∧ (∀ (s : State) (x c pa : Nat) (v : BitVec 32),
        let k := s.stack x
        let up (d : Nat) (t : State) : Prop := (t.die d).linkLost = true
          ∧ FMap.get 0 (t.die d).counters 0x40 = Nat.min (2 ^ 32 - 1) (FMap.get 0 (s.die d).counters 0x40 + 1)
        (∃ t, exec .d2dLinkLost s = .next t ∧ up 0 t ∧ up 1 t ∧ t.reports = s.reports ++ [.linkLost] ∧ s.SameMemory t)
          ∧ (c < 32 → ∃ k', s.Ends (.channelFailure x c) (s.modStack x fun _ => k') ∧ k' = { k with chfail := k'.chfail, chlost := k'.chlost }
              ∧ (∀ i, i < 32 → k'.chfail.getLsbD i = (k.chfail.getLsbD i || i == c))
              ∧ ∀ i, i < 32 → k'.chlost.getLsbD i = (k.chlost.getLsbD i || i / 16 == c / 16 && k'.chfail.getLsbD i
                  && decide (2 ≤ (List.range 16).countP fun j => k'.chfail.getLsbD (i / 16 * 16 + j))))
          ∧ (∃ k', s.Ends (.declareChannelFailed x v) (s.modStack x fun _ => k') ∧ k'.chfail = k.chfail ||| v)
          ∧ (FMap.get 0 k.postponed c ≤ 8 → ∃ k', s.Ends (.refresh x c) (s.modStack x fun _ => k')
              ∧ k' = { k with postponed := k'.postponed, suspends := k'.suspends } ∧ FMap.get 0 k'.postponed c ≤ 8
              ∧ (FMap.get 0 k.postponed c < 8 → k'.suspends = k.suspends)
              ∧ ∀ i, i ≠ c → FMap.get 0 k'.postponed i = FMap.get 0 k.postponed i)
          ∧ (∃ t, exec (.patrolScrub pa) s = .next t ∧ t.mem = s.mem
              ∧ (FMap.find? s.stored (pa / 128) = none → ∀ i, i ≠ pa / 32 → FMap.get false t.memPoison i = FMap.get false s.memPoison i))
          ∧ (k.rmBusy = false → k.chfail.getLsbD (fld k.rmTarget 0 5) = true →
              s.Ends (.rowRemap x) (s.modStack x fun k => { k with rmResult := 3 }))
          ∧ (k.rmBusy = false → k.chfail = 0 → k.remap = [] →
              s.Ends (.rowRemap x) (s.modStack x fun k => { k with rmBusy := true, rmResult := 0 }))
          ∧ (k.rmBusy = true → k.remap = [] → s.dramBad = [] → s.parityBad = [] → s.held = [] → s.Settled → ∃ k', s.Ends (.remapDone x) (s.modStack x fun _ => k') ∧ k'.rmBusy = false
              ∧ k'.rmResult = 0 ∧ FMap.get [] k'.remap (fld k.rmTarget 0 5) = [{ k.target with spare := 0 }])
          ∧ (k.rmBusy = false → s.Ends (.remapDone x) (s.modStack x fun k => k))
          ∧ ∃ t, exec (.errorCounterClear (0xF000003000000 + 0x1000 * x + 0x10)) s = .next t
            ∧ (x < 8 → t.stack x = { k with corrected := 0 }) ∧ s.SameMemory t)
    ∧ (∀ (s : State) (x i : Nat),
        let k := s.stack x
        let first := fld k.mgSrc 12 39
        let n := fld k.mgPages 0 24
        let phase (t : State) (f : Nat) : Nat := match FMap.find? t.moved f with | some m => m.phase | none => 0
        i < n →
          (k.mgPhase = 0 ∨ k.mgPhase = 4 → fld k.mgPages 24 2 ≠ 3 →
              ∃ t, exec (.migrationStart x) s = .next t ∧ (t.stack x).mgPhase = 1 ∧ phase t (first + i) = 1 ∧ t.mem = s.mem)
            ∧ (k.mgPhase = 1 → fld k.mgPages 24 2 = 0 → s.calm = true → Memory.wf s.mem = true → ∃ t, exec (.migrationPass x) s = .next t ∧ (t.stack x).mgPhase = 2
                ∧ ∀ j, j < 4096 * n →
                  FMap.get 0 t.mem (fld k.mgDst 0 52 / 4096 * 4096 + j) = FMap.get 0 s.mem (4096 * first + j))
            ∧ (k.mgPhase = 2 → ∃ t, exec (.migrationFreeze x) s = .next t ∧ (t.stack x).mgPhase = 3
                ∧ t.isFrozen (4096 * (first + i)) = true ∧ (t.stack x).mgDirty = [])
            ∧ (k.mgPhase = 3 → s.held = [] → s.Settled → ∃ t, exec (.migrationMoved x) s = .next t ∧ (t.stack x).mgPhase = 4 ∧ t.mem = s.mem
                ∧ (∀ j, j < 4096 → t.redirect (4096 * (first + i) + j) = fld k.mgDst 0 52 / 4096 * 4096 + 4096 * i + j)
                ∧ ∀ j, j < 32 → FMap.find? t.lineTags (32 * (first + i) + j) = none)
            ∧ (∃ t, exec (.migrationFree x) s = .next t ∧ (t.stack x).mgPhase = (if k.mgPhase = 4 then 0 else k.mgPhase)
                ∧ t.mem = s.mem
                ∧ ∀ f m, FMap.find? s.moved f = some m → FMap.find? t.moved f = if m.stack = x ∧ m.phase = 3 then none else some m)
            ∧ (k.mgPhase ≠ 3 → s.Ends (.migrationMoved x) s))
    ∧ ∀ (s : State) (pa n tag : Nat) (b : List Byte),
      (s.hostServed pa n = false → s.Ends (.hostMemRead pa n) s)
        ∧ (s.hostServed pa n = true → s.calm = true → ∃ t, exec (.hostMemRead pa n) s = .next t ∧ s.SameMemory t
            ∧ ∀ a, pa ≤ a → a < pa + n → t.hostHolds a = true)
        ∧ (s.hostServed pa b.length = false → s.Ends (.hostMemWrite pa b) s)
        ∧ (s.hostServed pa b.length = true → s.PlainHomes →
            ∃ t, exec (.hostMemWrite pa b) s = .next t ∧ s.MemWrote t pa b
              ∧ ∀ a, pa ≤ a → a < pa + b.length → FMap.find? t.lineTags (a / 128) = none)
        ∧ (∃ t, exec (.backInvalidateResponse pa) s = .next t ∧ t.hostHolds pa = false ∧ s.SameMemory t)
        ∧ s.Ends (.cxlSnoop pa) s
        ∧ (s.openReq 18 tag = none → s.Ends (.cxlCacheResponse tag b) s)
        ∧ ∀ q r, s.Settled → s.openReq 18 tag = some r → r.owner = .seq q → r.write = false → b.length = r.len →
            ∃ t, exec (.cxlCacheResponse tag b) s = .next t ∧ s.MemWrote t r.pa b
              ∧ t.requests = s.requests.map fun o =>
                  if o.port = 18 ∧ o.tag = tag ∧ o.answer = none ∧ o.owner = .seq q ∧ o.write = false then { o with answer := some (.data b) }
                  else o

/-- R135, R236, R272, R286, R308, R352, R359, R363, R25, R34, R391, R392 and R398: what the sequencers' surroundings bring about: the
timer and an interrupt, a grant of matrix mode, rows and completions of the copy engine, an engine fault, the times of an append, a
merged span, ring space for a collective's record, a unit that cannot be fetched or decoded, reset, life cycle with its keys, and
power. Engine rows are stated of unlogged copies and
fills within the scratchpad, of an interrupt while no record of a stopped tile multiply waits to be written, and of an append and a merged
span whose homes can take them. An event out of place changes nothing.
The model's choices it rests on: log entries 1, 10, 44, 45, 51, 61, 78, 90, 91 and 94. -/
def Obligations.UnitEvents : Prop :=
  (∀ (s : State) (q : Nat),
      let x := s.seq q
      let c := if x.cur.det then x.csr.units else x.csr.cycle
      let src := if x.tr.tcmp ≠ 0 ∧ x.tr.tcmp.toNat ≤ c.toNat then 1 else if x.tr.dbpend then 2 else 0
      (x.live = true → x.tr.tcmp ≠ 0 → x.cur.det = false → ∃ t, exec (.timerExpiry q) s = .next t
          ∧ x.tr.tcmp.toNat ≤ (t.seq q).csr.cycle.toNat
          ∧ t.seq q = { x with csr := { x.csr with cycle := (t.seq q).csr.cycle } } ∧ s.SameMemory t)
        ∧ (s.runnable q = true → x.tr.ie = true → x.mark = .none → x.wfi ≠ some x.csr.units → src ≠ 0 → s.Handles q 18 →
            (∀ r, (s.core (coreOf q)).progress = some r → r.recs = []) →
            ∃ t, exec (.interrupt q) s = .next t
              ∧ (s.modCore (coreOf q) fun k => { k with waiters := k.waiters.filter fun w => w != q }).Trapped t q x.pc 0
                { cause := 18, tval := BitVec.ofNat 64 src, sub := src })
        ∧ (x.tr.ie = false ∨ x.wfi = some x.csr.units → s.Ends (.interrupt q) s))
    ∧ (∀ (s : State) (bad : Bool) (w : IWord) (pos : BitVec 2) (cause : BitVec 8) (va : Word),
        (s.Handles s.turn (if bad then 2 else 1) → ∃ t, exec (.illegalInstruction bad w pos) s = .next t
            ∧ s.Faulted t { cause := if bad then 2 else 1, tval := BitVec.ofNat 64 (w.toNat + pos.toNat * 2 ^ 32), pos := pos.toNat })
          ∧ (s.Handles s.turn cause.toNat → ∃ t, exec (.fetchFault cause va) s = .next t
            ∧ s.Faulted t { cause := cause.toNat, tval := va, pos := (va - (s.seq s.turn).pc.q0).toNat / 4 % 4 }))
    ∧ (∀ (s : State) (c w : Nat) (rest : List Nat),
        let k := s.core c
        let x := s.seq w
        let sd : Reg := BitVec.ofNat 5 (s.wordAt w 0 / 256 % 32)
        let r := x.getS sd
        let mvl := if fld r 0 8 = 0 ∨ 128 < fld r 0 8 then 128 else fld r 0 8
        (k.holder ≠ none ∨ k.waiters = [] → s.Ends (.matrixGrant c) s)
          ∧ (k.holder = none → k.waiters = w :: rest → coreOf w = c → x.wantMatrix = false → s.runnable w = true →
              ∃ t, exec (.matrixGrant c) s = .next t ∧ (t.core c).holder = some w ∧ (t.core c).mvl = mvl
                ∧ (t.core c).accFmt = r.extractLsb' 8 8 ∧ (t.core c).acc0 = [] ∧ (t.core c).acc1 = []
                ∧ (t.core c).waiters = (w :: rest).filter (fun o => o != w) ∧ (t.seq w).pc.q0 = x.pc.q1
                ∧ (x.setS sd (BitVec.ofNat 64 mvl)).Kept (t.seq w) ∧ s.SameMemory t))
    ∧ (∀ (s : State) (c id : Nat) (k : EngCmd),
        let l := s.cluster c
        let p := l.pad
        let rest := l.cmds.filter fun o => o.id != id
        let sp (t : State) (a : Nat) : Byte := FMap.get 0 (t.pad c).sp a
        s.cmd? c id = some k →
          (s.rowReady c k = true → k.sent = false → k.ending = false → (∀ r ∈ s.requests, r.owner ≠ .engine c k.id) → k.op = .copy → k.log = 0 → fld k.sc 29 3 = 0 → p.spPois = [] →
              0 < fld k.sc 0 17 → padBase ≤ k.src k.row → k.src k.row + fld k.sc 0 17 ≤ padBase + padSize →
              padBase ≤ k.dst k.row → k.dst k.row + fld k.sc 0 17 ≤ padBase + padSize →
              ∃ t, exec (.engineRow c id) s = .next t
                ∧ (∀ i, sp t i = if k.dst k.row - padBase ≤ i ∧ i < k.dst k.row - padBase + fld k.sc 0 17 then
                    sp s (k.src k.row - padBase + (i - (k.dst k.row - padBase))) else sp s i)
                ∧ ((t.cluster c).cmds.find? fun o => o.id == id) = some { k with row := k.row + 1 } ∧ s.SameMemory t)
            ∧ (s.rowReady c k = true → k.sent = false → k.ending = false → k.op = .fill → k.log = 0 → fld k.sa 0 22 + fld k.sa 22 23 ≤ padSize → 0 < fld k.sa 22 23 →
              ∃ t, exec (.engineRow c id) s = .next t
                ∧ (∀ i, sp t i = if fld k.sa 0 22 ≤ i ∧ i < fld k.sa 0 22 + fld k.sa 22 23 then k.sb.extractLsb' (8 * (i % 8)) 8 else sp s i)
                ∧ ((t.cluster c).cmds.find? fun o => o.id == id) = some { k with row := 1 } ∧ s.SameMemory t)
            ∧ (s.rowReady c k = false → s.Ends (.engineRow c id) s) ∧ (s.endReady c k = false → s.Ends (.engineComplete c id) s)
            ∧ (s.endReady c k = true → k.op ≠ .xf →
              let e := k.err
              let g := FMap.get ({} : EngTag) (s.seq k.owner).tags k.tag
              let b := s.barrier c k.bar
              let n := Nat.min 0xFFFF (b.count + k.row)
              ∃ t, exec (.engineComplete c id) s = .next t ∧ (t.cluster c).cmds = rest ∧ s.SameMemory t
                ∧ FMap.get ({} : EngTag) (t.seq k.owner).tags k.tag
                  = { count := g.count - 1, flags := g.flags ||| k.flags
                      cause := if g.cause = 0 then (match e with | some e => e.1 | none => 0) else g.cause
                      addr := match e with | some e => if g.cause = 0 then e.2 else g.addr | none => g.addr }
                ∧ (k.bar = 0 → (t.pad c).barrier = p.barrier)
                ∧ (k.bar ≠ 0 → t.barrier c k.bar
                  = if e.isSome ∨ b.target ≠ 0 ∧ b.target ≤ n then
                      { target := b.target, count := 0, phase := !b.phase, error := e.isSome, last := n }
                    else { b with count := n })))
    ∧ (∀ (s : State) (c p n : Nat),
        (∃ v, s.Ends (.engineFault c) (s.modCluster c fun l => { l with
            cmds := l.cmds.map fun k => if k.err = none then { k with err := some (19, v) } else k }))
          ∧ s.Ends (.ringSpaceFreed p n) { s with
              colls := s.colls.map fun (k : Coll) => if k.partition = p ∧ k.blocked = some n then { k with blocked := none } else k })
    ∧ (∀ (s : State) (q k desc lvl num : Nat) (e : Append) (d : PDesc) (pd : PendSpan),
        let x := s.seq q
        let a := s.streamCount e.desc
        (s.nextAppend q = none → s.Ends (.pyramidAssign q) s)
          ∧ (s.nextAppend q = some (k, e) → s.streamDesc e.desc = some d → s.appendHeld e.desc d a e = none →
              s.appendBusy e.desc d a e = false ∨ e.items = [] →
              ∃ t, exec (.pyramidAssign q) s = .next t
                ∧ t.seq q = { x with appends := x.appends.eraseIdx k }.setS e.reg (BitVec.ofNat 64 a)
                ∧ (∀ r, r ≠ q → t.seq r = s.seq r)
                ∧ (e.items = [] → t.mem = s.mem)
                ∧ (e.items ≠ [] → x.cur.log = 0 → s.PlainHomes → e.desc % 64 = 0 →
                    t.streamCount e.desc = (a + e.items.length) % 2 ^ 64
                    ∧ t.streamSeq e.desc = mergeSeq (levelCounts d.caps (a + e.items.length)) % 2 ^ 64))
          ∧ ((s.stream desc).pend.find? (fun p => p.level == lvl && p.num == num) = some pd → s.streamDesc desc = some d →
              s.homeWaits ((s.stream desc).pa desc (d.slotVa lvl num)) = false →
              s.hostHolds ((s.stream desc).pa desc (d.slotVa lvl num)) = false →
              ∃ t, exec (.pyramidSpanWrite desc lvl num) s = .next t
                ∧ (t.stream desc).pend = (s.stream desc).pend.filter (fun p => !(p.level == lvl && p.num == num)))
          ∧ ((s.stream desc).pend = [] → s.Ends (.pyramidSpanWrite desc lvl num) s))
    ∧ ∀ (s : State) (life : LifeState) (i m : Nat),
      let rank : LifeState → Nat
        | .manufacture => 0 | .provisioned => 1 | .production => 2 | .return => 3 | .scrapped => 4
      let wiped (t : State) : Prop := t.mem = [] ∧ t.memPoison = [] ∧ t.seqs = [] ∧ t.cores = [] ∧ t.clusters = [] ∧ t.launches = []
        ∧ t.tlb = [] ∧ t.streams = [] ∧ t.requests = [] ∧ t.lines = [] ∧ t.stored = []
      (∃ t, exec .reset s = .next t ∧ wiped t ∧ t.life = s.life ∧ (t.bootFailed = true ∨ (t.part 0).weight = 1)
          ∧ ∀ p, p ≠ 0 → t.part p = {})
        ∧ (rank life = rank s.life + 1 ∨ life = .scrapped ∧ s.life ≠ .scrapped →
            ∃ t, exec (.lifecycleTransition life) s = .next t ∧ wiped t ∧ t.life = life
              ∧ t.keys = (match life with | .provisioned => true | .production => s.keys | _ => false))
        ∧ (¬ (rank life = rank s.life + 1 ∨ life = .scrapped ∧ s.life ≠ .scrapped) → s.Ends (.lifecycleTransition life) s)
        ∧ (i < 36 → ∃ t, exec (.thermalStep i) s = .next t ∧
            let on := (List.range 128).filter fun k => Config.islandOf k == i
            let cur := FMap.get 0 s.islands i
            FMap.get 0 t.islands i =
              (if on.any (fun k => decide (110 * 16 < t.monitor k)) then 15
              else if on.any (fun k => decide (100 * 16 < t.monitor k)) then Nat.min 15 (cur + 1)
              else if on.all (fun k => decide (t.monitor k < 95 * 16)) then Nat.max (FMap.get 0 s.ceilings i) (cur - 1)
              else cur)
            ∧ ∀ j, j ≠ i → FMap.get 0 t.islands j = FMap.get 0 s.islands j)
        ∧ (m < 64 → ∃ t, exec (.droopEvent m) s = .next t
            ∧ t.monitor (128 + m) = Nat.min (2 ^ 32 - 1) (s.monitor (128 + m) + 1) ∧ ∀ k, k ≠ 128 + m → t.monitor k = s.monitor k)
        ∧ ∃ t, exec .powerLimitStep s = .next t ∧ ∀ j, FMap.get 0 t.islands j
            = if s.powerLimit < t.powerAvg ∧ (j < 16 ∨ 18 ≤ j ∧ j < 34) then Nat.min 15 (FMap.get 0 s.islands j + 1)
              else FMap.get 0 s.islands j

/-- R10 to R14, R23, R374 to R387 and R390: the firmware's acts on launches and slots: failing, binding, withdrawing and advancing
records, a preload copy, the expiries and requests of the pre-emption ladder, halting, exchanging and resuming a cluster, resuming a
launch, and writing a partition's configuration. A launch that is bound has its whole element range cut over the sequencers it got. A
record that is written for a launch becomes one of its ranges. A launch that fails waits first for the stores and commands that its
sequencers left. CELLAR_EXCHANGE raises the cluster's island to full speed when no monitor of it is hot (R399). A budget runs from the
cycle count at which it was last given. An event out of place changes nothing. Stated of LAUNCH_BIND and LAUNCH_RESUME for the first
launch of the queue while no other partition has one queued, of a resumption whose snapshot can be read, and of BIND_NEXT_WRITE for
launches that do not log.
The model's choices it rests on: log entries 1, 25, 72, 73, 74, 77, 78, 79, 80, 81, 82, 83, 94, 96, 112 and 113. -/
def Obligations.FirmwareEvents : Prop :=
  (∀ (s : State) (p n cause : Nat) (l : Launch),
      s.launch? p n = some l →
        (l.lstate = 4 ∨ l.lstate = 5 → s.Ends (.launchFail p n cause) s)
          ∧ (l.lstate ≠ 4 → l.lstate ≠ 5 → ∃ t, exec (.launchFail p n cause) s = .next t ∧ t.Fails p n)
          ∧ (l.lstate ≠ 4 → l.lstate ≠ 5 → (∀ q ∈ s.seqsOf p n, s.storesOpen q = false) →
              (∀ e ∈ s.clusters, ∀ k ∈ e.2.cmds, (k.partition, k.launch) ≠ (p, n)) →
              ∃ t l', exec (.launchFail p n cause) s = .next t ∧ t.launch? p n = some l'
                ∧ l'.lstate = 5 ∧ ∀ q, (t.seq q).live = true → (t.seq q).key ≠ (p, n))
          ∧ ((s.part p).weight = 0 → s.Ends (.launchBind p) s)
          ∧ ((s.part p).weight ≠ 0 → (∀ r, r ≠ p → (s.part r).order = []) → (s.part p).order.head? = some n → l.preload = 0 → p < 32 → n < 2 ^ 32 → l.prio < 4 → l.lstate = 1 → l.held = false →
              l.pre0 = 1 → l.pre1 = 1 → l.log = 0 → l.gang = false → l.ranges = [] → l.failing = none → (s.asidEntry l.asid).sealed = false →
              s.freeFor p l.asid ≠ [] →
              ∃ t l', exec (.launchBind p) s = .next t ∧ t.launch? p n = some l' ∧ l'.lstate = 2
                ∧ (l'.ranges.map Range.count).sum = l.n
                ∧ ∀ r ∈ l'.ranges, r.q ∈ s.freeFor p l.asid ∧ (t.seq r.q).next.valid = true ∧ (t.seq r.q).next.seq = n)
          ∧ (l.held = false → s.Ends (.launchResume p n) s)
          ∧ ∀ b q g, l.held = true → l.snaps.filter (fun b => b.window == l.winno) = [b] → s.inCellar (p, n) = false → l.gang = false →
            n < 2 ^ 32 → l.failing = none → (s.part p).weight ≠ 0 → (∀ r, r ≠ p → (s.part r).order = []) →
            (s.part p).order.head? = some n → s.ringBad p b.die l.ringPair b.pos b.size = false →
            s.ringBad p b.die l.ringPair b.besidePos b.beside = false → s.placeSnaps (s.freeFor p l.asid) [b] [] = some [(q, g)] →
            ∃ t l', exec (.launchResume p n) s = .next t ∧ t.launch? p n = some l' ∧ l'.held = false ∧ (t.seq q).live = true
              ∧ (t.seq q).cur.seq = n ∧ (t.seq q).pc.q0 = b.x.pc.q0 ∧ (t.seq q).s = b.x.s ∧ (t.seq q).a = b.x.a)
    ∧ (∀ (s : State) (q : Nat) (w0 w1 w2 w3 : Word),
        let x := s.seq q
        let b : BindRec := { w0 := w0, w1 := w1, w2 := w2, w3 := w3 }
        let c := clusterOf q
        (x.next.valid = true ∨ b.valid = false ∨ c ∉ (s.part b.partition).clusters ∨ (s.cluster c).away = true
            ∨ s.sealOk b.asid c = false → s.Ends (.bindNextWrite q w0 w1 w2 w3) s)
          ∧ (s.slotTakes q b = true → s.launch? b.partition b.seq = none →
              ∃ t, exec (.bindNextWrite q w0 w1 w2 w3) s = .next t ∧ t.seq q = { x with next := b } ∧ ∀ r, r ≠ q → t.seq r = s.seq r)
          ∧ (∀ l, s.slotTakes q b = true → s.launch? b.partition b.seq = some l →
              (s.mayWrite q b l = false → s.Ends (.bindNextWrite q w0 w1 w2 w3) s)
                ∧ (s.mayWrite q b l = true → l.log = 0 → ∃ t l', exec (.bindNextWrite q w0 w1 w2 w3) s = .next t
                  ∧ t.seq q = { x with next := b } ∧ (∀ r, r ≠ q → t.seq r = s.seq r) ∧ t.launch? b.partition b.seq = some l'
                  ∧ ∃ r ∈ l'.ranges, r.q = q ∧ r.start = b.start ∧ r.count = b.count ∧ r.lost = false))
          ∧ (x.next.valid = false → s.Ends (.bindWithdraw q) s)
          ∧ (x.next.valid = true → ∃ t, exec (.bindWithdraw q) s = .next t ∧ t.seq q = { x with next := {} }
              ∧ ∀ r, r ≠ q → t.seq r = s.seq r)
          ∧ (s.mayAdvance q = false → s.Ends (.bindAdvance q) s)
          ∧ (s.mayAdvance q = true → ∃ t, exec (.bindAdvance q) s = .next t ∧ (t.seq q).live = true ∧ (t.seq q).cur = x.next
              ∧ (t.seq q).next.valid = false ∧ (t.seq q).pc.q0 = x.next.entry ∧ (t.seq q).grant = x.next.grant
              ∧ (t.seq q).getS 1 = BitVec.ofNat 64 x.next.start ∧ (t.seq q).getS 2 = BitVec.ofNat 64 x.next.count
              ∧ (t.seq q).tr = {} ∧ (t.seq q).qs = {} ∧ ∀ r, r ≠ q → t.seq r = s.seq r)
          ∧ ((s.cluster c).preloads = [] → s.Ends (.preloadCopyDone q) s)
          ∧ ∀ r rest bytes, (s.cluster c).preloads = r :: rest → r.q = q → r.done = false → r.off + r.len ≤ padSize →
            s.engRead c (preloadCmd q (if r.cur then x.cur else x.next) r) r.src.toNat r.len 0 0 = .ok bytes →
            ∃ t, exec (.preloadCopyDone q) s = .next t
              ∧ (∀ i, FMap.get 0 (t.pad c).sp i = if r.off ≤ i ∧ i < r.off + bytes.length then bytes.getD (i - r.off) 0
                  else FMap.get 0 (s.pad c).sp i)
              ∧ (r.cur = true → (t.seq q).preloading = false ∧ r ∉ (t.cluster c).preloads)
              ∧ (r.cur = false → { r with done := true } ∈ (t.cluster c).preloads))
    ∧ (∀ (s : State) (q n : Nat),
        let x := s.seq q
        let mine (r : Nat) : Prop := (s.seq r).live = true ∧ (s.seq r).key = x.key
        (x.live = true → x.cur.budget ≠ 0 → x.budgetFrom + x.cur.budget * 65536 < 2 ^ 64 → ∃ t, exec (.budgetExpiry q) s = .next t
            ∧ x.budgetFrom + x.cur.budget * 65536 ≤ (t.seq q).csr.cycle.toNat ∧ (∀ r, mine r → (t.seq r).markReq = true)
            ∧ ∀ l, s.launch? x.cur.partition x.cur.seq = some l → t.launch? x.cur.partition x.cur.seq = some { l with demote := true })
          ∧ (x.live = false ∨ x.cur.budget = 0 → s.Ends (.budgetExpiry q) s)
          ∧ (x.live = true → x.reclaim ≠ none → ∃ t, exec (.reclaimWaitExpiry q) s = .next t
              ∧ (∀ r, mine r → t.seq r = { s.seq r with markReq := true }) ∧ s.SameMemory t)
          ∧ (x.reclaim = none → s.Ends (.reclaimWaitExpiry q) s)
          ∧ (x.live = true → x.markReq = true → ∃ t, exec (.markWaitExpiry x.cur.partition x.cur.seq) s = .next t ∧ s.SameMemory t
              ∧ ∀ r, mine r → ((t.cluster (clusterOf r)).halting || (t.cluster (clusterOf r)).halted) = true)
          ∧ s.Ends (.postReclaim q n) (s.modSeq q fun x => if x.live = true ∧ n < (List.range 4).countP (x.grant.getLsbD ·) then
              { x with reclaim := some (match x.reclaim with | some o => Nat.min o n | none => n) } else x)
          ∧ s.Ends (.markRequest q) (s.modSeq q fun x => if x.live then { x with markReq := true } else x))
    ∧ (∀ (s : State) (c : Nat),
        let k := s.cluster c
        (∃ t, exec (.clusterHalt c) s = .next t ∧ ((t.cluster c).halting || (t.cluster c).halted) = true ∧ s.SameMemory t
            ∧ ∀ q r, (s.seq q).live = true → clusterOf q = c →
              t.runnable q = false
                ∧ ((s.seq r).live = true → (s.seq r).key = (s.seq q).key → (s.seq r).cur.log ≠ 0 → t.runnable r = false)
                ∧ ((s.seq r).cur.log = 0 → clusterOf r ≠ c → t.runnable r = s.runnable r))
          ∧ (k.halting = false ∨ s.atRest c = false → s.Ends (.clusterHalted c) s)
          ∧ (k.halting = true → s.atRest c = true → ∃ t, exec (.clusterHalted c) s = .next t ∧ (t.cluster c).halting = false
              ∧ (t.cluster c).halted = true ∧ ∀ q, clusterOf q = c → (t.seq q).next.valid = false
                ∧ ((s.seq q).live = true → (t.seq q).link = .none ∧ (t.seq q).pc = (s.seq q).pc))
          ∧ (k.halted = false → s.Ends (.cellarExchange c) s)
          ∧ (k.halted = true → ∃ m, s.Ends (.cellarExchange c) ({ s with islands := m }.modCluster c fun k => { k with busy := true })
              ∧ ∀ j, FMap.get 0 m j = if j = 18 * (c / 16) + c % 16 ∧ (List.range 128).all (fun i =>
                    Config.islandOf i != j || decide (s.monitor i ≤ 110 * 16)) = true then 0
                  else FMap.get 0 s.islands j)
          ∧ (k.busy = false → s.Ends (.exchangeDone c) s)
          ∧ (k.busy = true → ∃ t, exec (.exchangeDone c) s = .next t ∧ (t.cluster c).busy = false
              ∧ ((∀ e ∈ s.launches, e.2.demote = false) → (t.cluster c).shadow = some (s.contextOf c)) ∧ (t.pad c) = (k.shadow.getD {}).pad ∧ (t.cluster c).cmds = (k.shadow.getD {}).cmds
              ∧ (k.shadow = none → ∀ q, clusterOf q = c → (t.seq q).live = false)
              ∧ (t.cluster c).halted = (k.shadow.isNone && k.halted))
          ∧ s.Ends (.discardShadow c) (s.modCluster c fun k => if k.busy then k else { k with shadow := none })
          ∧ (k.busy = false → k.halted = true → ∃ t, exec (.clusterResume c) s = .next t ∧ (t.cluster c).halted = false
              ∧ (t.cluster c).halting = false ∧ s.SameMemory t
              ∧ ∀ q, clusterOf q = c → (s.seq q).live = true → t.seq q
                = if (s.seq q).wfi = some (s.seq q).csr.units then { s.seq q with woken := true } else s.seq q)
          ∧ (k.busy = true → s.Ends (.clusterResume c) s))
    ∧ ∀ (s : State) (p k : Nat) (v : Word),
      let mask : Word := match k with
        | 1 => 0xFFFFFFFF | 2 => 0xFFFFFFFF000007FF | 3 => 0x000FFFFFFFF00000 | 4 => 0xFFFFFFFF | 5 => 0xFFFF
        | 6 => 0x000FFFFFFFFFF000 | 7 => 0x000FFFFFFFFFF000 | 24 => 0xFFFFFFFF
        | _ => if 8 ≤ k ∧ k < 24 then 0x000FFFFFFFFFF000 else 0
      (s.partBusy p = true → s.Ends (.partitionConfigWrite p (0x200 + 8 * k) v) s)
        ∧ (s.partBusy p = false → p < 32 → k < 32 → k ≠ 0 → ∃ t, exec (.partitionConfigWrite p (0x200 + 8 * k) v) s = .next t
            ∧ (t.part p).cfgWord k = v &&& mask ∧ (∀ j, j ≠ k → (t.part p).cfgWord j = (s.part p).cfgWord j) ∧ s.SameMemory t
            ∧ ∀ g r, t.collCount p g r = 0)
        ∧ (s.partBusy p = false → p < 32 → ∃ t, exec (.partitionConfigWrite p 0x200 v) s = .next t
            ∧ (t.part p).cfgWord 0 = v &&& 0xFFFFFFFF
            ∧ ∀ c, c < 32 → v.getLsbD c ≠ ((s.part p).cfgWord 0).getLsbD c → t.pad c = {} ∧ ∀ i, i / 16 = c → t.core i = {})

/-- R309 to R315, R370 to R374, R390, R393, R386, R316 and R318: recovery and the debugger's commands with their results, and what the
host does to a partition's block: launch windows, LSTAT, jtail, the doorbell, interrupt masks, attestation, and plain registers, with
what registers read as; a register access of the management cores to an address in no region is a bus error; after a failed boot the
host's acts on a partition other than 0 do nothing, and it reads zero there. A debug block stays busy while a write that its undo sends
is not performed. An event out of place changes nothing.
The model's choices it rests on: log entries 1, 53, 62, 84, 85, 87, 88, 89, 91, 97 and 114. -/
def Obligations.HostAndDebugEvents : Prop :=
  (∀ (s : State) (p n : Nat) (l : Launch),
      s.launch? p n = some l →
        (s.mayRollback p n = false → s.Ends (.rollback p n) s)
          ∧ (s.mayRollback p n = true → s.newestGood p l = none ∨ (∃ w, s.newestGood p l = some w ∧ (s.recsGood p l w = false
              ∨ s.slotsBack p n (l.snaps.filter fun b => b.window == w) = false)) →
              ∃ t, exec (.rollback p n) s = .next t ∧ t.Fails p n)
          ∧ (∀ w, s.mayRollback p n = true → s.newestGood p l = some w → s.recsGood p l w = true → s.slotsBack p n (l.snaps.filter fun b => b.window == w) = true →
              ∃ t l', exec (.rollback p n) s = .next t ∧ t.launch? p n = some l' ∧ l'.lstate = 6 ∧ l'.restored = w ∧ l'.winno = w
                ∧ l'.recovering = false ∧ (t.part p).istat.getLsbD 1 = true)
          ∧ ∀ d, n < 2 ^ 32 → l.log ≠ 0 → l.lstate ∈ [2, 3, 6] → l.ring d ≠ [] →
            ∃ t, exec (.logEngineFault d) s = .next t ∧ t.Fails p n)
    ∧ (∀ (s : State) (p : Nat) (l : Launch) (force : Bool),
        let b := s.part p
        let n := b.dbgLaunch
        let q := b.dbgArg0
        let u := b.dbgArg1
        let c := (s.seq q).csr.units.toNat
        let own := s.isOf q p n
        let res (i : Instr) (r : Nat) : Prop := s.Ends i (s.modPart p fun b => { b with dbgResult := r })
        let mine (r : Nat) : Prop := (s.seq r).live = true ∧ (s.seq r).key = (p, n)
        (s.bootFailed = true → p ≠ 0 →
            ∀ i ∈ [Instr.debugStop p, .debugResume p, .debugRewind p force, .debugReplay p, .debugStepback p force], s.Ends i s)
        ∧ (s.bootFailed = false ∨ p = 0 →
          (b.dbgBusy = true → ∀ i ∈ [Instr.debugStop p, .debugResume p, .debugRewind p force, .debugReplay p, .debugStepback p force], s.Ends i s)
          ∧ (b.dbgBusy = false → s.launch? p n = none →
              ∀ i ∈ [Instr.debugStop p, .debugResume p, .debugRewind p force, .debugReplay p, .debugStepback p force], res i 2)
          ∧ (b.dbgBusy = false → s.launch? p n = some l → l.lstate ≠ 4 → l.lstate ≠ 5 → l.failing = none →
              (∃ t, exec (.debugStop p) s = .next t ∧ (∀ r, mine r → t.seq r = { s.stopSeq r (s.seq r) with stopped := true })
                  ∧ (t.part p).dbgBusy = true ∧ (t.part p).dbgResult = 0 ∧ s.SameMemory t)
                ∧ (s.launchStopped p n = false ∨ s.rests p n = false → ∀ i ∈ [Instr.debugResume p, .debugRewind p force, .debugReplay p, .debugStepback p force], res i 1)
                ∧ (s.launchStopped p n = true → s.rests p n = true →
                    (∃ t, exec (.debugResume p) s = .next t ∧ (∀ r, mine r → t.seq r = { s.seq r with stopped := false })
                        ∧ (t.part p).dbgResult = 0 ∧ t.dbgStopped p = false ∧ s.SameMemory t)
                      ∧ (l.log = 0 → res (.debugRewind p force) 5)
                      ∧ (l.log ≠ 0 → q = 0 ∨ l.winno < q → res (.debugRewind p force) 2)
                      ∧ (l.log ≠ 0 → q ≠ 0 → q ≤ l.winno →
                          q < l.oldestGood ∨ l.snaps.any (fun b => b.window == q) = false ∨ s.blocksGood p l q = false
                            ∨ s.slotsBack p n (l.snaps.filter fun b => b.window == q) = false → res (.debugRewind p force) 6)
                      ∧ (l.log ≠ 0 → q ≠ 0 → l.oldestGood ≤ q → q ≤ l.winno → l.snaps.any (fun b => b.window == q) = true →
                          s.blocksGood p l q = true → s.slotsBack p n (l.snaps.filter fun b => b.window == q) = true →
                          s.recsGood p l q = false →
                          ∃ t, exec (.debugRewind p force) s = .next t ∧ (t.part p).dbgResult = 6 ∧ (t.part p).dbgBusy = false
                            ∧ s.SameMemory t ∧ (∀ r, t.seq r = s.seq r)
                            ∧ ∀ d, d < 2 → FMap.get 0 (t.die d).counters 0x48 = if s.badRecs p l q d = 0 then FMap.get 0 (s.die d).counters 0x48
                                else Nat.min (2 ^ 32 - 1) (FMap.get 0 (s.die d).counters 0x48 + s.badRecs p l q d))
                      ∧ (l.log ≠ 0 → q ≠ 0 → l.oldestGood ≤ q → q ≤ l.winno → l.snaps.any (fun b => b.window == q) = true →
                          s.blocksGood p l q = true → s.recsGood p l q = true → s.slotsBack p n (l.snaps.filter fun b => b.window == q) = true →
                          (l.escapesFrom q ≠ [] → res (.debugRewind p false) 3)
                            ∧ (l.escapesFrom q = [] ∨ force = true → ∃ t l', exec (.debugRewind p force) s = .next t
                              ∧ t.launch? p n = some l' ∧ l'.winno = q ∧ (t.part p).dbgResult = 0 ∧ (t.part p).dbgBusy = t.undoOpen p))
                      ∧ (own = false → res (.debugReplay p) 2) ∧ (own = true → u = 0 → res (.debugReplay p) 0)
                      ∧ (own = true → u ≠ 0 → ∃ t, exec (.debugReplay p) s = .next t
                          ∧ t.seq q = { s.seq q with stopped := false, replay := some { target := c + u, alone := true } }
                          ∧ (∀ r, r ≠ q → t.seq r = s.seq r) ∧ (t.part p).dbgBusy = true ∧ s.SameMemory t)
                      ∧ (l.det = false → res (.debugStepback p force) 4) ∧ (l.det = true → l.log = 0 → res (.debugStepback p force) 5)
                      ∧ (l.det = true → l.log ≠ 0 → own = false ∨ c < u → res (.debugStepback p force) 2)
                      ∧ ∀ s1, l.det = true → l.log ≠ 0 → own = true → u ≤ c →
                        let ok := l.snaps.filter fun b => b.q == q && decide (b.x.csr.units.toNat ≤ c - u)
                          && decide (l.oldestGood ≤ b.window ∧ b.window ≤ l.winno)
                        (ok = [] → res (.debugStepback p force) 6)
                          ∧ (ok ≠ [] → s.rewindTo p n (ok.foldl (fun m b => Nat.max m b.window) 0) 2 force l = (s1, 0) →
                            (s1.seq q).csr.units.toNat ≠ c - u → (s1.seq q).live = true → (s1.seq q).key = (p, n) →
                            ∃ t, exec (.debugStepback p force) s = .next t ∧ (t.part p).dbgBusy = true
                              ∧ t.seq q = { s1.seq q with
                                  stopped := if s1.undoOpen p then (s1.seq q).stopped else false
                                  replay := some { target := c - u, alone := false } }))))
          ∧ (b.dbgBusy = true → s.launch? p n = some l → s.launchStopped p n = true → s.rests p n = true →
              s.Ends (.debugHalted p) (s.modPart p fun b => { b with dbgBusy := false })
                ∧ State.dbgStopped ((s.modPart p fun b => { b with dbgBusy := false }).endStep) p = true)
          ∧ (∀ r ∈ s.seqsOf p n, s.launch? p n = some l → l.lstate ≠ 4 → l.lstate ≠ 5 → l.failing = none → s.storesOpen r = true →
              s.Ends (.debugHalted p) s)
          ∧ (b.dbgBusy = false → s.Ends (.debugHalted p) s)
          ∧ (s.seqsOf p n = [] → s.Ends (.replayCountReached p) s)
          ∧ ∀ r x, s.seqsOf p n = [x] → mine x → (s.seq x).replay = some r → r.target ≤ (s.seq x).csr.units.toNat →
              ∃ t, exec (.replayCountReached p) s = .next t ∧ t.seq x = { s.stopSeq x (s.seq x) with stopped := true, replay := none }
                ∧ (t.part p).dbgResult = 0 ∧ (t.part p).dbgBusy = true)
    ∧ (∀ (s : State) (p w : Nat) (b : List Byte) (v : BitVec 32) (m : BitVec 4),
        let part := s.part p
        let pk := wordsOf b 8
        let prio := fld (pk.getD 0 0) 61 2
        let asid := FMap.get 0 part.lasid w
        let code := s.acceptCode p none asid prio pk
        let lstat (t : State) (w : Nat) : Word := FMap.get 0 (t.part p).lstat w
        (s.bootFailed = true → p ≠ 0 → ∀ off, ∀ i ∈ [Instr.launchWindowWrite p off b, .lstatRead p w, .jtailWrite p v, .doorbellWrite p v,
            .interruptMaskWrite p m, .attestationRequest p off], s.Ends i s)
        ∧ (s.bootFailed = false ∨ p = 0 → (∀ off, 256 ≤ off → s.Ends (.launchWindowWrite p off b) s)
          ∧ (w < 4 → b.length ≠ 64 → ∃ t, exec (.launchWindowWrite p (64 * w) b) s = .next t
              ∧ lstat t w = BitVec.ofNat 64 (2 * 2 ^ 32 + 2 ^ 62 + 2 ^ 63) ∧ t.launches = s.launches)
          ∧ (w < 4 → b.length = 64 → code ≠ 0 → ∃ t, exec (.launchWindowWrite p (64 * w) b) s = .next t
              ∧ lstat t w = BitVec.ofNat 64 (code * 2 ^ 32 + 2 ^ 62 + 2 ^ 63) ∧ t.launches = s.launches)
          ∧ (w < 4 → b.length = 64 → code = 0 → ∃ t l, exec (.launchWindowWrite p (64 * w) b) s = .next t
              ∧ lstat t w = BitVec.ofNat 64 (part.jhead.toNat + 2 ^ 62) ∧ (t.part p).jhead = nextSeq part.jhead
              ∧ t.launch? p part.jhead.toNat = some l ∧ l.asid = asid ∧ l.byK = false ∧ l.prio = prio ∧ (l.lstate = 1 ∨ l.lstate = 5)
              ∧ l.packet.drop 1 = pk.drop 1)
          ∧ (∃ t, exec (.lstatRead p w) s = .next t ∧ lstat t w = lstat s w &&& 0xBFFFFFFFFFFFFFFF
              ∧ (∀ i, i ≠ w → lstat t i = lstat s i) ∧ s.SameMemory t)
          ∧ s.Ends (.jtailWrite p v) (s.modPart p fun b =>
              if (v - b.jtail).toNat ≤ (b.jhead - b.jtail).toNat then { b with jtail := v } else b)
          ∧ (∃ t, exec (.doorbellWrite p v) s = .next t ∧ ∀ q, t.seq q
              = if q ∈ s.seqsOf p v.toNat then { s.seq q with tr := { (s.seq q).tr with dbpend := true } }
                else s.seq q)
          ∧ (∃ t, exec (.interruptMaskWrite p m) s = .next t ∧ (t.part p).imask = m
              ∧ (t.part p).undelivered = part.undelivered &&& ~~~ m ∧ (t.part p).istat = part.istat
              ∧ (t.part p).delivered = part.delivered
                ++ ((List.range 4).filter fun k => part.undelivered.getLsbD k && m.getLsbD k).map fun k => 4 * p + k)))
    ∧ (∀ (s : State) (p pa : Nat),
        let part := s.part p
        (s.bootFailed = false ∨ p = 0 → part.attBusy = true ∨ s.areaInRanges p pa 50080 = false → s.Ends (.attestationRequest p pa) s)
          ∧ (s.bootFailed = false ∨ p = 0 → part.attBusy = false → s.areaInRanges p pa 50080 = true → ∃ t, exec (.attestationRequest p pa) s = .next t ∧ s.SameMemory t
              ∧ (t.part p).attBusy = true ∧ (t.part p).attReq = pa
              ∧ (t.part p).attReport.take 4 = [0x56, 0x59, 0x41, 0x54]
              ∧ ((t.part p).attReport.drop 32).take 32 = s.readPhys pa 32)
          ∧ (part.attBusy = false → s.Ends (.attestationDone p) s)
          ∧ (part.attBusy = true → s.PlainHomes → ∃ t, exec (.attestationDone p) s = .next t
              ∧ s.MemWrote t (part.attReq + 32) (part.attReport ++ s.signatureOf part.attReport)
              ∧ (t.part p).attBusy = false ∧ (t.part p).attDone = true ∧ (t.part p).istat.getLsbD 3 = true))
    ∧ ∀ (s : State) (pa k p : Nat) (v : Word) (sys : Bool),
      let live : Prop := s.bootFailed = false ∨ sys = true ∨ p = 0
      (regionOf pa = .none → exec (.registerWrite pa v true) s = .fault .busError)
        ∧ (regionOf pa ≠ .registers → regionOf pa ≠ .none ∨ sys = false → s.Ends (.registerWrite pa v sys) s)
        ∧ (live → p < 32 → k < 4 → s.Ends (.registerWrite (0xF000004000000 + 0x1000 * p + 0x120 + 8 * k) v sys) (s.modPart p fun b =>
            { b with lasid := FMap.set 0 b.lasid k (fld v 0 16), lpre := FMap.set 0 b.lpre k (fld v 16 8) }))
        ∧ (live → p < 32 → s.Ends (.registerWrite (0xF000002000000 + 0x100 * p) v sys) (s.modPart p fun b => { b with dbgLaunch := fld v 0 32 }))
        ∧ (live → p < 32 → s.Ends (.registerWrite (0xF000002000000 + 0x100 * p + 0x28) v sys) (s.modPart p fun b =>
            { b with brkstop := v.getLsbD 0, watchstop := v.getLsbD 1 }))
        ∧ (live → p < 32 → s.Ends (.registerWrite (0xF000004000000 + 0x1000 * p + 0x180) v sys) (s.modPart p fun b =>
            { b with istat := b.istat &&& ~~~ v.truncate 4, undelivered := b.undelivered &&& ~~~ v.truncate 4 }))
        ∧ (k < 2 → s.Ends (.registerWrite (0xF000001000000 + 0x1000 * k) v true) (s.modDie k fun x =>
            { x with invAsid := v.truncate 16, invAll := v.getLsbD 16 }))
        ∧ (k < 8 → (s.stack k).mgPhase = 0 ∨ (s.stack k).mgPhase = 4 → s.Ends (.registerWrite (0xF000003000000 + 0x1000 * k + 0x80) v true)
            (s.modStack k fun x => { x with mgSrc := v &&& 0x0007FFFFFFFFF000 }))
        ∧ (k < 32 → s.Ends (.registerWrite (0xF000005020000 + 0x40 * k) v true) (s.modCluster k fun c => { c with preTab := fld v 0 52 }))
        ∧ (k < 36 → s.Ends (.registerWrite (0xF000006000800 + 8 * k) v true)
            { s with ceilings := FMap.set 0 s.ceilings k (Nat.min 15 (fld v 8 8)) })
        ∧ s.Ends (.registerWrite 0xF000006000A00 v true) { s with powerLimit := Nat.min 2400 (fld v 0 16) }
        ∧ (regionOf pa = .none → s.readRegister pa true = none)
        ∧ (regionOf pa ≠ .none ∨ sys = false → pa % 8 ≠ 0 → s.readRegister pa sys = some 0)
        ∧ (s.bootFailed = true → 0 < p → p < 32 → k < 0x200 →
          s.readRegister (0xF000004000000 + 0x1000 * p + 8 * k) false = some 0)
        ∧ (live → p < 32 → s.readRegister (0xF000004000000 + 0x1000 * p + 0x148) sys = some ((s.part p).jhead.zeroExtend 64)
          ∧ s.readRegister (0xF000004000000 + 0x1000 * p + 0x180) sys = some ((s.part p).istat.zeroExtend 64)
          ∧ s.readRegister (0xF000002000000 + 0x100 * p + 0x18) sys = some 0
          ∧ s.readRegister (0xF000002000000 + 0x100 * p + 0x20) sys
            = some (BitVec.ofNat 64 ((s.part p).dbgBusy.toNat + (s.dbgStopped p).toNat * 2
              + (s.part p).dbgResult % 16 * 16 + (s.part p).dbgEscapes % 2 ^ 32 * 2 ^ 32)))
        ∧ (k < 8 → s.readRegister (0xF000003000000 + 0x1000 * k) true
            = some (BitVec.ofNat 64 ((s.stack k).chfail.toNat + (s.stack k).chlost.toNat * 2 ^ 32))
          ∧ s.readRegister (0xF000003000000 + 0x1000 * k + 0x30) true = some (BitVec.ofNat 64 (s.stack k).remapfail)
          ∧ s.readRegister (0xF000003000000 + 0x1000 * k) false = some 0)
        ∧ (k < 224 → s.readRegister (0xF000006000000 + 8 * k) true = some (BitVec.ofNat 64 (s.monitor k)))

/-- R406 to R408, R411, R412 and R415 to R420: what a port makes of a flit it receives: one in its place is taken and acknowledged, one
that was received before is acknowledged again, and one that fails its check, or is out of its place, is answered with a negative
acknowledgement; credits and acknowledgements, a link coming up, a peer's read and write of this package's memory, replies and a reply
that never comes, retraining and a port's end, and the data, completion and failure of a collective. An event out of place changes
nothing. Replies are stated while no failing launch and no undo waits for one.
The model's choices it rests on: log entries 1, 21, 27, 28, 57, 58 and 60. -/
def Obligations.PortEvents : Prop :=
  let acked (s : State) (k seq kind : Nat) : State :=
    let dst := match s.findPeer fun e => e.getLsbD (1 + k) with | some e => fld e 19 10 | none => 0
    s.modPort k fun p => { p with
      freed := p.freed - 255
      lastAck := mkFlit 4 p.txSeq (Nat.min 255 p.freed) s.selfPackage dst (toBytes 2 seq ++ toBytes 1 kind) }
  (∀ (s : State) (port : Nat) (f : List Byte),
      let p := s.port port
      let head := bytesNat f 0 8
      let behind := (p.rxSeq + 4096 - head / 16 % 4096) % 4096
      let again := head / 2 ^ 44 = 0 ∧ bytesNat f 248 8 = (crc64 (f.take 248)).toNat ∧ 0 < behind ∧ behind < 2048
      (∀ e ∈ ([(.inboundRequest port f, 1), (.peerReply port f, 2), (.collectiveData port f, 3), (.linkUp port f, 5),
            (.retrainRequest port f, 5), (.collectiveFailedMsg port f, 5), (.peerLostMsg port f, 5)] : List (Instr × Nat)),
          s.receive port e.2 f = none →
            (p.down = true ∨ f.length ≠ 256 ∨ head % 16 ≠ e.2 → s.Ends e.1 s)
              ∧ (p.down = false → f.length = 256 → head % 16 = e.2 →
                (again → s.Ends e.1 (acked s port ((p.rxSeq + 4095) % 4096) 0)) ∧ (¬again → s.Ends e.1 (acked s port p.rxSeq 1))))
        ∧ (s.receive port 4 f = none → s.Ends (.flitAck port f) s)
        ∧ (∀ type seq freed src dst payload, type < 6 → type ≠ 4 → seq < 4096 → freed < 256 → src < 1024 → dst < 1024 →
            payload.length = 240 → p.down = false → f = mkFlit type seq freed src dst payload →
            (seq ≠ p.rxSeq → s.receive port type f = none)
              ∧ (seq = p.rxSeq → p.waiting = [] →
                ∃ r, s.receive port type f = some r ∧ r.src = src ∧ r.payload = payload
                  ∧ r.s = acked (s.modPort port fun p => { p with
                      rxSeq := (p.rxSeq + 1) % 4096, credits := p.credits + freed, freed := if type ≤ 3 then p.freed + 1 else p.freed })
                      port seq 0)))
    ∧ (∀ (s : State) (port n v : Nat) (f : List Byte) (r : Received),
        let up := r.s.modPort port fun p => { p with credits := v }
        (s.receive port 5 f = some r → r.payload = controlPayload 1 v 0 0 0 → v < 65536 → (r.s.port port).waiting = [] →
            ((r.s.port port).announced = true → s.Ends (.linkUp port f) up)
              ∧ ((r.s.port port).announced = false → s.Ends (.linkUp port f)
                ((up.modPort port fun p => { p with announced := true }).sendFlit port 5 r.src (controlPayload 1 256 0 0 0))))
          ∧ (s.receive port 5 f = some r → (∀ v, r.payload ≠ controlPayload 1 v 0 0 0) →
            s.Ends (.linkUp port f) (acked s port (s.port port).rxSeq 1))
          ∧ (s.receive port 5 f = some r → r.payload ≠ controlPayload 2 0 0 0 0 →
            s.Ends (.retrainRequest port f) (acked s port (s.port port).rxSeq 1))
          ∧ (s.receive port 5 f = some r → r.payload = controlPayload 2 0 0 0 0 →
            s.Ends (.retrainRequest port f) (r.s.modPort port fun p => { p with wantRetrain := true }))
          ∧ (∀ l b m, s.receive port 4 f = some r → r.payload = padTo 240 (toBytes 2 n ++ toBytes 1 0) → n < 4096 →
            (r.s.port port).replay = l ++ (n, b) :: m → (∀ e ∈ l, e.1 ≠ n) → (r.s.port port).waiting = [] →
            ∃ t, exec (.flitAck port f) s = .next t ∧ (t.port port).replay = m ∧ (t.port port).replays = 0)
          ∧ ((s.port port).down = true → ∀ k, s.Ends (.portRetrain port k) s)
          ∧ (∀ k, (s.port port).down = false → (s.port port).wantRetrain = true → 2 ≤ k →
            s.Ends (.portRetrain port k) (s.modPort port fun p => { p with lanes := Nat.min k 4, replays := 0, wantRetrain := false }))
          ∧ (port < 18 → ∃ t, exec (.portDown port) s = .next t ∧ ∀ q, q ∈ t.requests → q.port = port → q.answer ≠ none)
          ∧ (s.colls = [] → s.requests = [] →
            s.Ends (.portDown port) (s.modPort port fun p => { p with down := true, waiting := [], replay := [] })))
    ∧ (∀ (s : State) (port tag pa len part : Nat) (data : List Byte) (f : List Byte) (r : Received),
        let line := pa / 128
        let request (op : Nat) := padTo 240 (requestPayload op 0 tag len pa (if op = 2 then data else []))
        tag < 65536 → 0 < len → pa % 128 + len ≤ 128 → pa + len ≤ 0x7800000000 → s.receive port 1 f = some r → r.s.inboundPart r.src = some part →
          r.s.runInRanges part pa len = true → r.s.PlainHomes →
          (r.payload = request 1 → r.s.badSector (homeDie pa) pa len = none →
              s.Ends (.inboundRequest port f) (r.s.sendFlit port 2 r.src
                ((replyPayload 1 0 len (r.s.readPhys pa len)).take 2 ++ toBytes 2 tag ++ (replyPayload 1 0 len (r.s.readPhys pa len)).drop 4)))
            ∧ (r.payload = request 2 → data.length = len → r.s.hostHolds pa = false →
              ∃ t, exec (.inboundRequest port f) s = .next t ∧ s.MemWrote t pa data ∧ FMap.find? t.lineTags line = none))
    ∧ (∀ (s : State) (port tag q : Nat) (data : List Byte) (f : List Byte) (r : Received) (o : Req),
        s.Settled →
        (s.receive port 2 f = some r → tag < 65536 → data.length < 129 → r.payload = replyPayload 1 tag data.length data →
            r.s.openReq port tag = some o → o.owner = .seq q → o.write = false →
            s.Ends (.peerReply port f) { r.s with requests := r.s.requests.map fun w =>
              if w.port = port ∧ w.tag = tag ∧ w.answer = none ∧ w.owner = .seq q ∧ w.write = false then { w with answer := some (.data data) }
              else w })
          ∧ (s.openReq port tag = none → s.Ends (.peerTimeout port tag) s)
          ∧ (s.openReq port tag = some o → o.owner = .seq q → o.write = false →
            s.Ends (.peerTimeout port tag) { s with requests := s.requests.map fun w =>
              if w.port = port ∧ w.tag = tag ∧ w.answer = none ∧ w.owner = .seq q ∧ w.write = false then { w with answer := some (.lost 0xFF) }
              else w })
          ∧ (s.openReq port tag = some o → o.owner = .seq q → o.write = true →
            ∃ t, exec (.peerTimeout port tag) s = .next t ∧ (t.seq q).peerErr = some ((s.seq q).peerErr.getD (20, 0xFF))
              ∧ t.requests = s.requests.filter fun w =>
                !(w.port == port && w.tag == tag && w.answer.isNone && w.owner == .seq q && w.write))
          ∧ (s.receive port 5 f = some r → r.payload = controlPayload 4 tag 0 0 0 → tag < 65536 → r.s.colls = [] →
            ∃ t, exec (.peerLostMsg port f) s = .next t ∧ (∀ a, a < deviceTop → FMap.get 0 t.mem a = FMap.get 0 s.mem a)
              ∧ ∀ w pn, w ∈ t.requests → regionOf w.pa = .peer pn → (r.s.peerEntry pn).getLsbD 0 = true →
                fld (r.s.peerEntry pn) 19 10 = tag → w.answer ≠ none))
    ∧ ∀ (s : State) (k reason port part group number : Nat) (f : List Byte) (r : Received) (c : Coll) (m : Member) (h : CHandle)
        (pa n : Nat) (attr : Word) (b : List Byte),
      let told (t : State) : Prop := ∀ d, t.colls[k]? = some d → d.failed ≠ none
      (1 ≤ reason → reason ≤ 4 → ∃ t, exec (.collectiveFail k reason port) s = .next t ∧ told t
            ∧ (s.PlainHomes → (∀ e ∈ s.launches, e.2.log = 0) → s.SameMemoryBut t s.collOut))
        ∧ (s.collReady k = false → s.Ends (.collectiveComplete k) s)
        ∧ (s.colls[k]? = some c → s.collReady k = true → s.resultHeld c = none → c.results = some [(m, b)] → m.out = [(pa, n, attr)] →
            b.length = n → s.PlainHomes → (∀ l, s.launch? c.partition m.launch = some l → l.log = 0) →
            (s.seq m.q).live = true → (s.seq m.q).key = (c.partition, m.launch) →
            FMap.find? (s.seq m.q).chandles m.slot = some h → h.serial = m.serial →
            ∃ t, exec (.collectiveComplete k) s = .next t ∧ (s.disturbed c = false → s.MemWrote t pa b)
              ∧ t.colls = s.colls.eraseIdx k
              ∧ FMap.find? (t.seq m.q).chandles m.slot = some { h with state := 1, reason := 0, port := 0xFF })
        ∧ (s.receive port 3 f = some r → group < 2 ^ 32 → number < 2 ^ 32 → 0 < b.length → b.length ≤ 208 →
            r.payload = collPayload group number 1 0 1 0x25 0 b → r.s.inboundPart r.src = some part → r.s.colls = [] →
            s.Ends (.collectiveData port f) { r.s with colls := [{
              partition := part, group := group, number := number
              data := [{ package := r.src, src := 1, dst := 0, op := 1, fmt := 0x25, first := 0, bytes := b }] }] })
        ∧ (s.receive port 5 f = some r → group < 2 ^ 32 → number < 2 ^ 32 → reason < 256 → r.payload = controlPayload 3 0 group number reason →
            r.s.inboundPart r.src = some part → r.s.colls = [] →
            s.Ends (.collectiveFailedMsg port f) { r.s with colls := [{
              partition := part, group := group, number := number, failed := some (reason, 0xFF) }] })

/-- R391, R392 and R116, R374, R98, R137 through the fields that start at zero: after reset memory holds nothing but zeros, no sequencer
has a record, the registers, queues, flags and control registers of every sequencer are zero, every cluster, core, stream, table and
queue is empty, journals start at sequence number 1, and the invariant of every step holds. No event waits and no hardware error is counted. The values that the spec gives no reset
for (the ports, the life-cycle state, the address of the ASID table, the power limit, registers that no rule names, and the model's own
fields) are the model's choice (log entries 3, 4, 6, 8, 9, 10 and 115). -/
def Obligations.ResetState : Prop :=
  let s := State.reset
  s.Good 0 ∧ (∀ a n, s.readPhys a n = List.replicate n 0)
    ∧ (∀ q r, (s.seq q).live = false ∧ (s.seq q).getA r = 0 ∧ (s.seq q).getS r = 0 ∧ (s.seq q).csr = {} ∧ (s.seq q).tr = {}
        ∧ (s.seq q).qs = {} ∧ (s.seq q).grant = 0 ∧ (s.seq q).stores = [] ∧ (s.seq q).link = .none)
    ∧ (∀ c, s.core c = {} ∧ s.cluster c = {}) ∧ (∀ p n, (s.part p).jhead = 1 ∧ (s.part p).jtail = 1 ∧ s.launch? p n = none)
    ∧ (∀ d pa, s.sectorBad d pa = false) ∧ s.inputs = [] ∧ s.upsets = [] ∧ s.calm = true ∧ s.runnables = []

/-- R10, R316 and the canonical form of storage, R392: every step keeps the invariant. From any state whose memory is in its canonical
form and whose life cycle has reached the rank k, every step answers a state that is so again, and no step refuses; the one fault is the
bus error of a register write of the management cores to an address in no region (R316).
The model's choices it rests on: log entry 89. -/
def Obligations.StepKeepsGood : Prop :=
  ∀ (s : State) (k : Nat), s.Good k →
    (∀ i, (∃ t, exec i s = .next t ∧ t.Good k) ∨ (exec i s = .fault .busError ∧ ∃ pa v, i = .registerWrite pa v true ∧ regionOf pa = .none))
      ∧ ((∃ t, step s = .next t ∧ t.Good k)
        ∨ (step s = .fault .busError ∧ ∃ pa v rest, s.inputs = .registerWrite pa v true :: rest ∧ regionOf pa = .none))

/-- R24 to R60: decoding what `encode` makes of a well-formed instruction gives the instruction back, for every word of the device and for
convoys of two to four words, with every operand at every value that the encoding admits; and a word that decodes at all is the encoding of
what it decodes to, so that no reserved code and no must-be-zero field is read as a neighbour (R25). -/
def Obligations.EncodeDecode : Prop :=
  (∀ i : Instr, i.wf = true → (i.isWord = true ∨ ∃ ws, i = .convoy ws) → decodeUnit i.encode = .ok i)
    ∧ (∀ (w : IWord) (i : Instr), decodeWord w = some i → i.wf = true ∧ i.isWord = true ∧ i.encode = [w])

/-- Words whose encodings the spec writes out in its examples decode to their instructions: one of nearly every family, and the convoy
of R36. -/
def Obligations.DecodedWords : Prop :=
  (∀ r ∈ ([
      (0x00440008, .kFence 2 4), (0x04640001, .kcRw 3 4 1), (0x08611000, .aAdd 3 1 2), (0x08A6081A, .aSext 5 6 .b16),
      (0x0C844003, .aiShl 4 4 3), (0x10032022, .sBqlt 3 4), (0x14A50FFF, .siAdd 5 5 0xFFF), (0x18FCBEEF, .ins 7 true 3 0xBEEF),
      (0x1C864410, .ld 4 6 .s32 false .sync 16), (0x20065000, .st 0 6 .s32 true .plain 0), (0x24C40000, .lkLl 6 4),
      (0x28434FFC, .bLt 2 3 .ifNot 0x7FC), (0x32FFFFFE, .j .ifTaken 0xFFFFFE), (0x60521800, .vcSetvl 5 4 6),
      (0x64308880, .vAdd false 3 1 2 1), (0x68812406, .vsMac false 8 2 9 0), (0x6CA07C21, .viMv false 10 31 0),
      (0x70C19004, .vfFma false 12 3 4 0), (0x74630808, .vfsMax false 6 6 2 0), (0x7BF20003, .vcvHad true 31 4 0 0),
      (0x7CC20183, .vpCmpr false 12 4 3), (0x80C11042, .vld false 12 2 4 0 .index 0 .elem), (0x84A38009, .vst false 10 7 0 0 .unit 2 .sync),
      (0x88721541, .vlkSc false 7 4 5 2), (0xA090A004, .mOps true 4 5), (0xA6818806, .mtMul 2 true 0 12 8 6),
      (0xC0509525, .cGath 8 9 10 2 5), (0xC4072800, .cbSet 7 5), (0xD0442890, .pApp 4 8 10 1), (0xD0642C32, .pLds 6 8 11 2),
      (0xF0042800, .wMark 4 5)] : List (Nat × Instr)), decodeTableWord 32 r.1 = some r.2)
    ∧ decodeUnit [0x83F20000, 0x73FF8802, 0x85F28000]
        = .ok (.convoy [.load ⟨31, 4, 0, 0, .unit, 0, .plain⟩, .fp false .mul 31 31 2 0, .store ⟨31, 5, 0, 0, .unit, 0, .plain⟩])

/-- R24, R34, R123 and R297: a step of the package with no input waiting and no hardware error striking, in which the schedule picks a
sequencer that may run, takes no interrupt and has no annulled unit at Q0 and no word of it to bring in from a damaged home, is `exec` of the instruction that the words at Q0 decode to, after the launch of the sequencer is
marked running (R374). Around `exec` a step adds nothing else: the queue moves, and the counters rise, within it. The words are those that
the fetch reads from Q0 on, up to and including the first one that is not linked, four at most; a word is read where Q0 translates to.
The model's choices it rests on: log entries 2, 3, 5, 92, 99, 106 and 115. -/
def Obligations.StepRunsDecoded : Prop :=
  (∀ (s : State) (q : Nat) (ws : List IWord) (i : Instr),
      s.inputs = [] → (s.upsets = [] ∨ Config.strikes s.tick = false) → s.nextRunner = some q → s.internal.length ≤ Config.schedule s.tick % (s.internal.length + 1)
        → (s.seq q).takesInt = false → (s.seq q).pc.n0 = false → s.codeWaits q (s.seq q).pc.q0 = false
        → s.fetchUnit q (s.seq q).pc.q0 = (ws, none)
        → decodeUnit ws = .ok i → s.blockedByAppend q i = false → step s = exec i (State.begun { s with turn := q } q))
    ∧ (∀ (s : State) (q : Nat) (va : Word) (ws : List IWord),
      0 < ws.length → ws.length ≤ 4 → (∀ k, k + 1 < ws.length → linkedWord (ws.getD k 0) = true)
        → (ws.length = 4 ∨ linkedWord (ws.getD (ws.length - 1) 0) = false)
        → (∀ k, k < ws.length → s.fetchWord q (va + BitVec.ofNat 64 (4 * k)) = .ok (ws.getD k 0))
        → s.fetchUnit q va = (ws, none))
    ∧ (∀ (s : State) (q : Nat) (va : Word) (x : Xlat),
      va.toNat < 2 ^ 56 → s.translate (coreOf q) (s.seq q).cur.asid (s.seq q).cur.partition va.toNat 4 .fetch = .ok x
        → s.badSector (dieOf q) x.pa 4 = none
        → s.fetchWord q va = .ok (BitVec.ofNat 32 (ofBytes (s.readPhys x.pa 4))))
    ∧ (∀ (s : State) (q : Nat),
      (∀ l, s.launch? (s.seq q).cur.partition (s.seq q).cur.seq = some l → l.lstate ≠ 2 ∧ l.lstate ≠ 6) → s.begun q = s)
end

