-- ==== Sys2Proof/Laws/BaseDie.lean ====
section
/-!
SUPPORT. Sys2Proof/Laws/BaseDie.lean: what the byte-wise XOR of a parity granule gives the base die: the update of a written sector and
the rebuilding of a lost one (15_package_memory.md R320 to R322).
-/

namespace Sys2Proof.Machine

open Sys2Proof

/-- The byte of a parity granule over the bytes of its data granules at the same place. -/
def parityByte (l : List Byte) : Byte := l.foldl (· ^^^ ·) 0

theorem xor_fold (l : List Byte) (x : Byte) : l.foldl (· ^^^ ·) x = x ^^^ parityByte l := by
  induction l generalizing x with
  | nil => exact (BitVec.xor_zero).symm
  | cons b l ih =>
    have e : parityByte (b :: l) = b ^^^ parityByte l := by
      have z : (0 : Byte) ^^^ b = b := BitVec.zero_xor
      exact (ih (0 ^^^ b)).trans (by rw [z])
    rw [List.foldl_cons, ih, e, BitVec.xor_assoc]

theorem parityByte_append (l m : List Byte) : parityByte (l ++ m) = parityByte l ^^^ parityByte m := by
  unfold parityByte
  rw [List.foldl_append, xor_fold]
  rfl

theorem parityByte_cons (b : Byte) (l : List Byte) : parityByte (b :: l) = b ^^^ parityByte l := by
  have h := parityByte_append [b] l
  rwa [List.singleton_append, show parityByte [b] = b from BitVec.zero_xor] at h

/-- New parity = old parity XOR old data XOR new data (R321). -/
theorem parity_write (l m : List Byte) (old new : Byte) :
    parityByte (l ++ new :: m) = parityByte (l ++ old :: m) ^^^ old ^^^ new := by
  simp only [parityByte_append, parityByte_cons]
  generalize parityByte l = a
  generalize parityByte m = b
  refine BitVec.eq_of_getLsbD_eq fun i _ => ?_
  simp only [BitVec.getLsbD_xor]
  cases a.getLsbD i <;> cases b.getLsbD i <;> cases old.getLsbD i <;> cases new.getLsbD i <;> rfl

/-- The XOR of the other 14 data granules and the parity restores a lost byte (R322). -/
theorem parity_rebuild (l m : List Byte) (lost : Byte) : parityByte (l ++ m) ^^^ parityByte (l ++ lost :: m) = lost := by
  simp only [parityByte_append, parityByte_cons]
  generalize parityByte l = a
  generalize parityByte m = b
  refine BitVec.eq_of_getLsbD_eq fun i _ => ?_
  simp only [BitVec.getLsbD_xor]
  cases a.getLsbD i <;> cases b.getLsbD i <;> cases lost.getLsbD i <;> rfl

/-- Every sector that a parity sector covers lies in its stripe at one offset (R319, R320). -/
theorem covered_stripe {k j : Nat} (h : j ∈ covered k) : j / 120 = k / 120 ∧ j % 8 = k % 8 := by
  obtain ⟨i, hi, rfl⟩ := List.mem_map.1 h
  have := List.mem_range.1 hi
  omega

end Sys2Proof.Machine
end

