-- ==== Sys2Proof/Laws/FMap.lean ====
section
/-!
SUPPORT. Sys2Proof/Laws/FMap.lean: laws of sparse contents: a read after a write, and the canonical form.
-/

namespace Sys2Proof.Machine

variable {α : Type}

@[simp] theorem FMap.find?_nil (x : Nat) : FMap.find? ([] : FMap α) x = none := rfl

theorem FMap.find?_cons (k : Nat) (v : α) (m : FMap α) (x : Nat) :
    FMap.find? ((k, v) :: m) x = if x = k then some v else FMap.find? m x := rfl

@[simp] theorem FMap.get_nil (d : α) (x : Nat) : FMap.get d ([] : FMap α) x = d := rfl

@[simp] theorem FMap.find?_put_same (m : FMap α) (x : Nat) (v : α) : FMap.find? (FMap.put m x v) x = some v := by
  induction m with
  | nil => simp [FMap.put, FMap.find?_cons]
  | cons e m ih =>
    obtain ⟨k, w⟩ := e
    simp only [FMap.put]
    split
    · next h => simp [FMap.find?_cons, h]
    · next h =>
      split
      · simp [FMap.find?_cons]
      · simp [FMap.find?_cons, h, ih]

theorem FMap.find?_put_ne (m : FMap α) {x y : Nat} (v : α) (h : y ≠ x) :
    FMap.find? (FMap.put m x v) y = FMap.find? m y := by
  induction m with
  | nil => simp [FMap.put, FMap.find?_cons, h]
  | cons e m ih =>
    obtain ⟨k, w⟩ := e
    simp only [FMap.put]
    split
    · next hk => subst hk; simp [FMap.find?_cons, h]
    · split <;> simp [FMap.find?_cons, h, ih]

@[simp] theorem FMap.find?_erase_same (m : FMap α) (x : Nat) : FMap.find? (FMap.erase m x) x = none := by
  induction m with
  | nil => rfl
  | cons e m ih =>
    obtain ⟨k, w⟩ := e
    by_cases hk : k = x
    · simpa [FMap.erase, hk] using ih
    · have hx : x ≠ k := fun h => hk h.symm
      simpa [FMap.erase, hk, FMap.find?_cons, hx] using ih

theorem FMap.find?_erase_ne (m : FMap α) {x y : Nat} (h : y ≠ x) : FMap.find? (FMap.erase m x) y = FMap.find? m y := by
  induction m with
  | nil => rfl
  | cons e m ih =>
    obtain ⟨k, w⟩ := e
    by_cases hk : k = x
    · subst hk
      simpa [FMap.erase, FMap.find?_cons, h] using ih
    · by_cases hy : y = k
      · simp [FMap.erase, hk, FMap.find?_cons, hy]
      · simpa [FMap.erase, hk, FMap.find?_cons, hy] using ih

@[simp] theorem FMap.get_put_same (d : α) (m : FMap α) (x : Nat) (v : α) : FMap.get d (FMap.put m x v) x = v := by
  simp [FMap.get]

theorem FMap.get_put_ne (d : α) (m : FMap α) {x y : Nat} (v : α) (h : y ≠ x) :
    FMap.get d (FMap.put m x v) y = FMap.get d m y := by
  simp [FMap.get, FMap.find?_put_ne m v h]

@[simp] theorem FMap.get_set_same [DecidableEq α] (d : α) (m : FMap α) (x : Nat) (v : α) :
    FMap.get d (FMap.set d m x v) x = v := by
  unfold FMap.set
  split
  · next h => simp [FMap.get, h]
  · simp

theorem FMap.get_set_ne [DecidableEq α] (d : α) (m : FMap α) {x y : Nat} (v : α) (h : y ≠ x) :
    FMap.get d (FMap.set d m x v) y = FMap.get d m y := by
  unfold FMap.set
  split
  · simp [FMap.get, FMap.find?_erase_ne m h]
  · exact FMap.get_put_ne d m v h

theorem FMap.get_set [DecidableEq α] (d : α) (m : FMap α) (x y : Nat) (v : α) :
    FMap.get d (FMap.set d m x v) y = if y = x then v else FMap.get d m y := by
  split
  · next h => simp [h]
  · next h => exact FMap.get_set_ne d m v h

/-! ### The canonical form -/

theorem FMap.rising_some_iff (m : FMap α) (l : Nat) :
    FMap.rising (some l) m = true ↔ FMap.rising none m = true ∧ ∀ e ∈ m, l < e.1 := by
  induction m generalizing l with
  | nil => simp [FMap.rising]
  | cons e m ih =>
    obtain ⟨k, v⟩ := e
    simp only [FMap.rising, Bool.and_eq_true, decide_eq_true_eq, List.mem_cons, forall_eq_or_imp, Bool.true_and]
    constructor
    · rintro ⟨h1, h2⟩
      exact ⟨h2, h1, fun e he => Nat.lt_trans h1 (((ih k).1 h2).2 e he)⟩
    · rintro ⟨h2, h1, -⟩
      exact ⟨h1, h2⟩

theorem FMap.rising_cons (k : Nat) (v : α) (m : FMap α) :
    FMap.rising none ((k, v) :: m) = true ↔ FMap.rising none m = true ∧ ∀ e ∈ m, k < e.1 := by
  simp [FMap.rising, FMap.rising_some_iff]

theorem FMap.mem_put (m : FMap α) (x : Nat) (v : α) {e : Nat × α} (h : e ∈ FMap.put m x v) : e = (x, v) ∨ e ∈ m := by
  induction m with
  | nil => simpa [FMap.put] using h
  | cons f m ih =>
    obtain ⟨k, w⟩ := f
    simp only [FMap.put] at h
    split at h
    · next hk =>
      rcases List.mem_cons.1 h with h | h
      · exact .inl (by rw [h, hk])
      · exact .inr (List.mem_cons_of_mem _ h)
    · split at h
      · rcases List.mem_cons.1 h with h | h
        · exact .inl h
        · exact .inr h
      · rcases List.mem_cons.1 h with h | h
        · exact .inr (by simp [h])
        · rcases ih h with h | h
          · exact .inl h
          · exact .inr (List.mem_cons_of_mem _ h)

theorem FMap.rising_put (m : FMap α) (x : Nat) (v : α) (h : FMap.rising none m = true) :
    FMap.rising none (FMap.put m x v) = true := by
  induction m with
  | nil => simp [FMap.put, FMap.rising]
  | cons f m ih =>
    obtain ⟨k, w⟩ := f
    obtain ⟨hm, hk⟩ := (FMap.rising_cons k w m).1 h
    simp only [FMap.put]
    split
    · exact (FMap.rising_cons k v m).2 ⟨hm, hk⟩
    · split
      · next hlt =>
        refine (FMap.rising_cons x v _).2 ⟨h, ?_⟩
        intro e he
        rcases List.mem_cons.1 he with he | he
        · rw [he]; exact hlt
        · exact Nat.lt_trans hlt (hk e he)
      · next hne hlt =>
        refine (FMap.rising_cons k w _).2 ⟨ih hm, ?_⟩
        intro e he
        rcases FMap.mem_put m x v he with he | he
        · rw [he]; simp only; omega
        · exact hk e he

theorem FMap.rising_filter (m : FMap α) (p : Nat × α → Bool) (h : FMap.rising none m = true) :
    FMap.rising none (m.filter p) = true := by
  induction m with
  | nil => exact h
  | cons f m ih =>
    obtain ⟨k, w⟩ := f
    obtain ⟨hm, hk⟩ := (FMap.rising_cons k w m).1 h
    by_cases hp : p (k, w)
    · rw [List.filter_cons_of_pos hp]
      exact (FMap.rising_cons k w _).2 ⟨ih hm, fun e he => hk e (List.mem_filter.1 he).1⟩
    · rw [List.filter_cons_of_neg hp]
      exact ih hm

theorem FMap.wf_iff [DecidableEq α] (d : α) (m : FMap α) :
    FMap.wf d m = true ↔ FMap.rising none m = true ∧ ∀ e ∈ m, e.2 ≠ d := by
  simp [FMap.wf]

/-- A write keeps the canonical form. -/
theorem FMap.wf_set [DecidableEq α] (d : α) (m : FMap α) (x : Nat) (v : α) (h : FMap.wf d m = true) :
    FMap.wf d (FMap.set d m x v) = true := by
  obtain ⟨hr, hd⟩ := (FMap.wf_iff d m).1 h
  unfold FMap.set
  split
  · exact (FMap.wf_iff d _).2 ⟨FMap.rising_filter m _ hr, fun e he => hd e (List.mem_filter.1 he).1⟩
  · next hv =>
    refine (FMap.wf_iff d _).2 ⟨FMap.rising_put m x v hr, fun e he => ?_⟩
    rcases FMap.mem_put m x v he with he | he
    · rw [he]; exact hv
    · exact hd e he

/-- Taking entries off keeps the canonical form. -/
theorem FMap.wf_keep [DecidableEq α] (d : α) (m : FMap α) (p : Nat → Bool) (h : FMap.wf d m = true) :
    FMap.wf d (FMap.keep m p) = true := by
  obtain ⟨hr, hd⟩ := (FMap.wf_iff d m).1 h
  exact (FMap.wf_iff d _).2 ⟨FMap.rising_filter m _ hr, fun e he => hd e (List.mem_filter.1 he).1⟩

/-! ### Storage -/

theorem writeBytes_wf (m : Memory) (a : Nat) (b : List Byte) (h : Memory.wf m = true) : Memory.wf (writeBytes m a b) = true := by
  induction b generalizing m a with
  | nil => exact h
  | cons x b ih => exact ih _ _ (FMap.wf_set 0 m a x h)

/-- A write leaves every address outside its bytes alone. -/
theorem get_writeBytes_out (m : Memory) (a : Nat) (b : List Byte) {x : Nat} (h : x < a ∨ a + b.length ≤ x) :
    FMap.get 0 (writeBytes m a b) x = FMap.get 0 m x := by
  induction b generalizing m a with
  | nil => rfl
  | cons y b ih =>
    simp only [writeBytes]
    rw [ih _ _ (by simp only [List.length_cons] at h; omega)]
    exact FMap.get_set_ne 0 m y (by simp only [List.length_cons] at h; omega)

/-- A byte written reads as it was written. -/
theorem get_writeBytes_in (m : Memory) (a : Nat) (b : List Byte) (i : Nat) (h : i < b.length) :
    FMap.get 0 (writeBytes m a b) (a + i) = b[i] := by
  induction b generalizing m a i with
  | nil => simp at h
  | cons y b ih =>
    simp only [writeBytes]
    cases i with
    | zero => rw [get_writeBytes_out _ _ _ (by omega)]; simp
    | succ i =>
      have := ih (FMap.set 0 m a y) (a + 1) i (by simpa using h)
      rw [show a + (i + 1) = a + 1 + i by omega, this]
      simp

@[simp] theorem readBytes_length (m : Memory) (a n : Nat) : (readBytes m a n).length = n := by
  induction n generalizing a with
  | zero => rfl
  | succ n ih => simp [readBytes, ih]

/-- A read after a write of the same bytes. -/
theorem readBytes_writeBytes (m : Memory) (a : Nat) (b : List Byte) : readBytes (writeBytes m a b) a b.length = b := by
  have key : ∀ (n i : Nat), i + n = b.length → readBytes (writeBytes m a b) (a + i) n = b.drop i := by
    intro n
    induction n with
    | zero => intro i h; simp [readBytes, List.drop_eq_nil_of_le (show b.length ≤ i by omega)]
    | succ n ih =>
      intro i h
      have hi : i < b.length := by omega
      rw [readBytes, get_writeBytes_in m a b i hi, show a + i + 1 = a + (i + 1) by omega, ih (i + 1) (by omega),
        List.drop_eq_getElem_cons hi]
  simpa using key b.length 0 (by omega)

theorem readBytes_writeBytes_out (m : Memory) (a x n : Nat) (b : List Byte) (h : x + n ≤ a ∨ a + b.length ≤ x) :
    readBytes (writeBytes m a b) x n = readBytes m x n := by
  induction n generalizing x with
  | zero => rfl
  | succ n ih =>
    rw [readBytes, readBytes, ih (x + 1) (by omega), get_writeBytes_out m a b (by omega)]

theorem toBytes_length (n v : Nat) : (toBytes n v).length = n := by
  induction n generalizing v with
  | zero => rfl
  | succ n ih => simp [toBytes, ih]

theorem ofBytes_toBytes (n v : Nat) : ofBytes (toBytes n v) = v % 256 ^ n := by
  induction n generalizing v with
  | zero => simp [toBytes, ofBytes, Nat.mod_one]
  | succ n ih =>
    have h : (BitVec.ofNat 8 v).toNat = v % 256 := BitVec.toNat_ofNat v 8
    rw [toBytes, ofBytes, ih, h, Nat.pow_succ', Nat.mod_mul]

/-- A write of bits keeps the canonical form. -/
theorem setBits_wf (m : FMap Bool) (k : Nat) (v : Bool) (n : Nat) (h : FMap.wf false m = true) :
    FMap.wf false (setBits m k v n) = true := by
  induction n generalizing m k with
  | zero => exact h
  | succ n ih => exact ih _ _ (FMap.wf_set false m k v h)

/-! ### Register files (R28, R116) -/

@[simp] theorem Seq.getA_zero (x : Seq) : x.getA 0 = 0 := rfl
@[simp] theorem Seq.getS_zero (x : Seq) : x.getS 0 = 0 := rfl

theorem Seq.getA_setA (x : Seq) (d r : Reg) (v : Word) :
    (x.setA d v).getA r = if r = d ∧ d ≠ 0 then v else x.getA r := by
  unfold Seq.setA Seq.getA
  by_cases hd : d = 0
  · have hn : ¬(r = d ∧ d ≠ 0) := fun h => h.2 hd
    rw [if_pos hd, if_neg hn]
  · rw [if_neg hd]
    by_cases hr : r = 0
    · rw [if_pos hr, if_pos hr, if_neg fun h => hd (h.1.symm.trans hr)]
    · rw [if_neg hr, if_neg hr]
      by_cases h : r = d
      · rw [if_pos ⟨h, hd⟩, h]
        exact FMap.get_set_same 0 x.a d.toNat v
      · rw [if_neg fun e => h e.1]
        exact FMap.get_set_ne 0 x.a v fun e => h (BitVec.eq_of_toNat_eq e)

theorem Seq.getS_setS (x : Seq) (d r : Reg) (v : Word) :
    (x.setS d v).getS r = if r = d ∧ d ≠ 0 then v else x.getS r := by
  unfold Seq.setS Seq.getS
  by_cases hd : d = 0
  · have hn : ¬(r = d ∧ d ≠ 0) := fun h => h.2 hd
    rw [if_pos hd, if_neg hn]
  · rw [if_neg hd]
    by_cases hr : r = 0
    · rw [if_pos hr, if_pos hr, if_neg fun h => hd (h.1.symm.trans hr)]
    · rw [if_neg hr, if_neg hr]
      by_cases h : r = d
      · rw [if_pos ⟨h, hd⟩, h]
        exact FMap.get_set_same 0 x.s d.toNat v
      · rw [if_neg fun e => h e.1]
        exact FMap.get_set_ne 0 x.s v fun e => h (BitVec.eq_of_toNat_eq e)

end Sys2Proof.Machine
end

