-- ==== Sys2Proof/Laws/State.lean ====
section
/-!
SUPPORT. Sys2Proof/Laws/State.lean: one lemma for each field and each update of the state, and the records read after an
update.
-/

namespace Sys2Proof.Machine

/-! ### setSeq -/

@[simp] theorem State.setSeq_tick (s : State) (q : Nat) (x : Seq) : (s.setSeq q x).tick = s.tick := rfl
@[simp] theorem State.setSeq_now (s : State) (q : Nat) (x : Seq) : (s.setSeq q x).now = s.now := rfl
@[simp] theorem State.setSeq_inputs (s : State) (q : Nat) (x : Seq) : (s.setSeq q x).inputs = s.inputs := rfl
@[simp] theorem State.setSeq_turn (s : State) (q : Nat) (x : Seq) : (s.setSeq q x).turn = s.turn := rfl
@[simp] theorem State.setSeq_cores (s : State) (q : Nat) (x : Seq) : (s.setSeq q x).cores = s.cores := rfl
@[simp] theorem State.setSeq_clusters (s : State) (q : Nat) (x : Seq) : (s.setSeq q x).clusters = s.clusters := rfl
@[simp] theorem State.setSeq_dies (s : State) (q : Nat) (x : Seq) : (s.setSeq q x).dies = s.dies := rfl
@[simp] theorem State.setSeq_baseDies (s : State) (q : Nat) (x : Seq) : (s.setSeq q x).baseDies = s.baseDies := rfl
@[simp] theorem State.setSeq_parts (s : State) (q : Nat) (x : Seq) : (s.setSeq q x).parts = s.parts := rfl
@[simp] theorem State.setSeq_mem (s : State) (q : Nat) (x : Seq) : (s.setSeq q x).mem = s.mem := rfl
@[simp] theorem State.setSeq_memPoison (s : State) (q : Nat) (x : Seq) : (s.setSeq q x).memPoison = s.memPoison := rfl
@[simp] theorem State.setSeq_lineTags (s : State) (q : Nat) (x : Seq) : (s.setSeq q x).lineTags = s.lineTags := rfl
@[simp] theorem State.setSeq_lines (s : State) (q : Nat) (x : Seq) : (s.setSeq q x).lines = s.lines := rfl
@[simp] theorem State.setSeq_stored (s : State) (q : Nat) (x : Seq) : (s.setSeq q x).stored = s.stored := rfl
@[simp] theorem State.setSeq_moved (s : State) (q : Nat) (x : Seq) : (s.setSeq q x).moved = s.moved := rfl
@[simp] theorem State.setSeq_asidTable (s : State) (q : Nat) (x : Seq) : (s.setSeq q x).asidTable = s.asidTable := rfl
@[simp] theorem State.setSeq_peerTable (s : State) (q : Nat) (x : Seq) : (s.setSeq q x).peerTable = s.peerTable := rfl
@[simp] theorem State.setSeq_held (s : State) (q : Nat) (x : Seq) : (s.setSeq q x).held = s.held := rfl
@[simp] theorem State.setSeq_ports (s : State) (q : Nat) (x : Seq) : (s.setSeq q x).ports = s.ports := rfl
@[simp] theorem State.setSeq_requests (s : State) (q : Nat) (x : Seq) : (s.setSeq q x).requests = s.requests := rfl
@[simp] theorem State.setSeq_streams (s : State) (q : Nat) (x : Seq) : (s.setSeq q x).streams = s.streams := rfl
@[simp] theorem State.setSeq_colls (s : State) (q : Nat) (x : Seq) : (s.setSeq q x).colls = s.colls := rfl
@[simp] theorem State.setSeq_collCounts (s : State) (q : Nat) (x : Seq) : (s.setSeq q x).collCounts = s.collCounts := rfl
@[simp] theorem State.setSeq_launches (s : State) (q : Nat) (x : Seq) : (s.setSeq q x).launches = s.launches := rfl
@[simp] theorem State.setSeq_tlb (s : State) (q : Nat) (x : Seq) : (s.setSeq q x).tlb = s.tlb := rfl
@[simp] theorem State.setSeq_life (s : State) (q : Nat) (x : Seq) : (s.setSeq q x).life = s.life := rfl
@[simp] theorem State.setSeq_svn (s : State) (q : Nat) (x : Seq) : (s.setSeq q x).svn = s.svn := rfl
@[simp] theorem State.setSeq_m0 (s : State) (q : Nat) (x : Seq) : (s.setSeq q x).m0 = s.m0 := rfl
@[simp] theorem State.setSeq_bootFailed (s : State) (q : Nat) (x : Seq) : (s.setSeq q x).bootFailed = s.bootFailed := rfl
@[simp] theorem State.setSeq_monitors (s : State) (q : Nat) (x : Seq) : (s.setSeq q x).monitors = s.monitors := rfl
@[simp] theorem State.setSeq_islands (s : State) (q : Nat) (x : Seq) : (s.setSeq q x).islands = s.islands := rfl
@[simp] theorem State.setSeq_ceilings (s : State) (q : Nat) (x : Seq) : (s.setSeq q x).ceilings = s.ceilings := rfl
@[simp] theorem State.setSeq_powerLimit (s : State) (q : Nat) (x : Seq) : (s.setSeq q x).powerLimit = s.powerLimit := rfl
@[simp] theorem State.setSeq_powerAvg (s : State) (q : Nat) (x : Seq) : (s.setSeq q x).powerAvg = s.powerAvg := rfl
@[simp] theorem State.setSeq_hostLines (s : State) (q : Nat) (x : Seq) : (s.setSeq q x).hostLines = s.hostLines := rfl
@[simp] theorem State.setSeq_backInval (s : State) (q : Nat) (x : Seq) : (s.setSeq q x).backInval = s.backInval := rfl
@[simp] theorem State.setSeq_dramBad (s : State) (q : Nat) (x : Seq) : (s.setSeq q x).dramBad = s.dramBad := rfl
@[simp] theorem State.setSeq_parityBad (s : State) (q : Nat) (x : Seq) : (s.setSeq q x).parityBad = s.parityBad := rfl
@[simp] theorem State.setSeq_upsets (s : State) (q : Nat) (x : Seq) : (s.setSeq q x).upsets = s.upsets := rfl
@[simp] theorem State.setSeq_answers (s : State) (q : Nat) (x : Seq) : (s.setSeq q x).answers = s.answers := rfl
@[simp] theorem State.setSeq_reports (s : State) (q : Nat) (x : Seq) : (s.setSeq q x).reports = s.reports := rfl
@[simp] theorem State.setSeq_keys (s : State) (q : Nat) (x : Seq) : (s.setSeq q x).keys = s.keys := rfl

/-! ### modSeq -/

@[simp] theorem State.modSeq_tick (s : State) (q : Nat) (f : Seq → Seq) : (s.modSeq q f).tick = s.tick := rfl
@[simp] theorem State.modSeq_now (s : State) (q : Nat) (f : Seq → Seq) : (s.modSeq q f).now = s.now := rfl
@[simp] theorem State.modSeq_inputs (s : State) (q : Nat) (f : Seq → Seq) : (s.modSeq q f).inputs = s.inputs := rfl
@[simp] theorem State.modSeq_turn (s : State) (q : Nat) (f : Seq → Seq) : (s.modSeq q f).turn = s.turn := rfl
@[simp] theorem State.modSeq_cores (s : State) (q : Nat) (f : Seq → Seq) : (s.modSeq q f).cores = s.cores := rfl
@[simp] theorem State.modSeq_clusters (s : State) (q : Nat) (f : Seq → Seq) : (s.modSeq q f).clusters = s.clusters := rfl
@[simp] theorem State.modSeq_dies (s : State) (q : Nat) (f : Seq → Seq) : (s.modSeq q f).dies = s.dies := rfl
@[simp] theorem State.modSeq_baseDies (s : State) (q : Nat) (f : Seq → Seq) : (s.modSeq q f).baseDies = s.baseDies := rfl
@[simp] theorem State.modSeq_parts (s : State) (q : Nat) (f : Seq → Seq) : (s.modSeq q f).parts = s.parts := rfl
@[simp] theorem State.modSeq_mem (s : State) (q : Nat) (f : Seq → Seq) : (s.modSeq q f).mem = s.mem := rfl
@[simp] theorem State.modSeq_memPoison (s : State) (q : Nat) (f : Seq → Seq) : (s.modSeq q f).memPoison = s.memPoison := rfl
@[simp] theorem State.modSeq_lineTags (s : State) (q : Nat) (f : Seq → Seq) : (s.modSeq q f).lineTags = s.lineTags := rfl
@[simp] theorem State.modSeq_lines (s : State) (q : Nat) (f : Seq → Seq) : (s.modSeq q f).lines = s.lines := rfl
@[simp] theorem State.modSeq_stored (s : State) (q : Nat) (f : Seq → Seq) : (s.modSeq q f).stored = s.stored := rfl
@[simp] theorem State.modSeq_moved (s : State) (q : Nat) (f : Seq → Seq) : (s.modSeq q f).moved = s.moved := rfl
@[simp] theorem State.modSeq_asidTable (s : State) (q : Nat) (f : Seq → Seq) : (s.modSeq q f).asidTable = s.asidTable := rfl
@[simp] theorem State.modSeq_peerTable (s : State) (q : Nat) (f : Seq → Seq) : (s.modSeq q f).peerTable = s.peerTable := rfl
@[simp] theorem State.modSeq_held (s : State) (q : Nat) (f : Seq → Seq) : (s.modSeq q f).held = s.held := rfl
@[simp] theorem State.modSeq_ports (s : State) (q : Nat) (f : Seq → Seq) : (s.modSeq q f).ports = s.ports := rfl
@[simp] theorem State.modSeq_requests (s : State) (q : Nat) (f : Seq → Seq) : (s.modSeq q f).requests = s.requests := rfl
@[simp] theorem State.modSeq_streams (s : State) (q : Nat) (f : Seq → Seq) : (s.modSeq q f).streams = s.streams := rfl
@[simp] theorem State.modSeq_colls (s : State) (q : Nat) (f : Seq → Seq) : (s.modSeq q f).colls = s.colls := rfl
@[simp] theorem State.modSeq_collCounts (s : State) (q : Nat) (f : Seq → Seq) : (s.modSeq q f).collCounts = s.collCounts := rfl
@[simp] theorem State.modSeq_launches (s : State) (q : Nat) (f : Seq → Seq) : (s.modSeq q f).launches = s.launches := rfl
@[simp] theorem State.modSeq_tlb (s : State) (q : Nat) (f : Seq → Seq) : (s.modSeq q f).tlb = s.tlb := rfl
@[simp] theorem State.modSeq_life (s : State) (q : Nat) (f : Seq → Seq) : (s.modSeq q f).life = s.life := rfl
@[simp] theorem State.modSeq_svn (s : State) (q : Nat) (f : Seq → Seq) : (s.modSeq q f).svn = s.svn := rfl
@[simp] theorem State.modSeq_m0 (s : State) (q : Nat) (f : Seq → Seq) : (s.modSeq q f).m0 = s.m0 := rfl
@[simp] theorem State.modSeq_bootFailed (s : State) (q : Nat) (f : Seq → Seq) : (s.modSeq q f).bootFailed = s.bootFailed := rfl
@[simp] theorem State.modSeq_monitors (s : State) (q : Nat) (f : Seq → Seq) : (s.modSeq q f).monitors = s.monitors := rfl
@[simp] theorem State.modSeq_islands (s : State) (q : Nat) (f : Seq → Seq) : (s.modSeq q f).islands = s.islands := rfl
@[simp] theorem State.modSeq_ceilings (s : State) (q : Nat) (f : Seq → Seq) : (s.modSeq q f).ceilings = s.ceilings := rfl
@[simp] theorem State.modSeq_powerLimit (s : State) (q : Nat) (f : Seq → Seq) : (s.modSeq q f).powerLimit = s.powerLimit := rfl
@[simp] theorem State.modSeq_powerAvg (s : State) (q : Nat) (f : Seq → Seq) : (s.modSeq q f).powerAvg = s.powerAvg := rfl
@[simp] theorem State.modSeq_hostLines (s : State) (q : Nat) (f : Seq → Seq) : (s.modSeq q f).hostLines = s.hostLines := rfl
@[simp] theorem State.modSeq_backInval (s : State) (q : Nat) (f : Seq → Seq) : (s.modSeq q f).backInval = s.backInval := rfl
@[simp] theorem State.modSeq_dramBad (s : State) (q : Nat) (f : Seq → Seq) : (s.modSeq q f).dramBad = s.dramBad := rfl
@[simp] theorem State.modSeq_parityBad (s : State) (q : Nat) (f : Seq → Seq) : (s.modSeq q f).parityBad = s.parityBad := rfl
@[simp] theorem State.modSeq_upsets (s : State) (q : Nat) (f : Seq → Seq) : (s.modSeq q f).upsets = s.upsets := rfl
@[simp] theorem State.modSeq_answers (s : State) (q : Nat) (f : Seq → Seq) : (s.modSeq q f).answers = s.answers := rfl
@[simp] theorem State.modSeq_reports (s : State) (q : Nat) (f : Seq → Seq) : (s.modSeq q f).reports = s.reports := rfl
@[simp] theorem State.modSeq_keys (s : State) (q : Nat) (f : Seq → Seq) : (s.modSeq q f).keys = s.keys := rfl

/-! ### setCore -/

@[simp] theorem State.setCore_tick (s : State) (c : Nat) (x : Core) : (s.setCore c x).tick = s.tick := rfl
@[simp] theorem State.setCore_now (s : State) (c : Nat) (x : Core) : (s.setCore c x).now = s.now := rfl
@[simp] theorem State.setCore_inputs (s : State) (c : Nat) (x : Core) : (s.setCore c x).inputs = s.inputs := rfl
@[simp] theorem State.setCore_turn (s : State) (c : Nat) (x : Core) : (s.setCore c x).turn = s.turn := rfl
@[simp] theorem State.setCore_seqs (s : State) (c : Nat) (x : Core) : (s.setCore c x).seqs = s.seqs := rfl
@[simp] theorem State.setCore_clusters (s : State) (c : Nat) (x : Core) : (s.setCore c x).clusters = s.clusters := rfl
@[simp] theorem State.setCore_dies (s : State) (c : Nat) (x : Core) : (s.setCore c x).dies = s.dies := rfl
@[simp] theorem State.setCore_baseDies (s : State) (c : Nat) (x : Core) : (s.setCore c x).baseDies = s.baseDies := rfl
@[simp] theorem State.setCore_parts (s : State) (c : Nat) (x : Core) : (s.setCore c x).parts = s.parts := rfl
@[simp] theorem State.setCore_mem (s : State) (c : Nat) (x : Core) : (s.setCore c x).mem = s.mem := rfl
@[simp] theorem State.setCore_memPoison (s : State) (c : Nat) (x : Core) : (s.setCore c x).memPoison = s.memPoison := rfl
@[simp] theorem State.setCore_lineTags (s : State) (c : Nat) (x : Core) : (s.setCore c x).lineTags = s.lineTags := rfl
@[simp] theorem State.setCore_lines (s : State) (c : Nat) (x : Core) : (s.setCore c x).lines = s.lines := rfl
@[simp] theorem State.setCore_stored (s : State) (c : Nat) (x : Core) : (s.setCore c x).stored = s.stored := rfl
@[simp] theorem State.setCore_moved (s : State) (c : Nat) (x : Core) : (s.setCore c x).moved = s.moved := rfl
@[simp] theorem State.setCore_asidTable (s : State) (c : Nat) (x : Core) : (s.setCore c x).asidTable = s.asidTable := rfl
@[simp] theorem State.setCore_peerTable (s : State) (c : Nat) (x : Core) : (s.setCore c x).peerTable = s.peerTable := rfl
@[simp] theorem State.setCore_held (s : State) (c : Nat) (x : Core) : (s.setCore c x).held = s.held := rfl
@[simp] theorem State.setCore_ports (s : State) (c : Nat) (x : Core) : (s.setCore c x).ports = s.ports := rfl
@[simp] theorem State.setCore_requests (s : State) (c : Nat) (x : Core) : (s.setCore c x).requests = s.requests := rfl
@[simp] theorem State.setCore_streams (s : State) (c : Nat) (x : Core) : (s.setCore c x).streams = s.streams := rfl
@[simp] theorem State.setCore_colls (s : State) (c : Nat) (x : Core) : (s.setCore c x).colls = s.colls := rfl
@[simp] theorem State.setCore_collCounts (s : State) (c : Nat) (x : Core) : (s.setCore c x).collCounts = s.collCounts := rfl
@[simp] theorem State.setCore_launches (s : State) (c : Nat) (x : Core) : (s.setCore c x).launches = s.launches := rfl
@[simp] theorem State.setCore_tlb (s : State) (c : Nat) (x : Core) : (s.setCore c x).tlb = s.tlb := rfl
@[simp] theorem State.setCore_life (s : State) (c : Nat) (x : Core) : (s.setCore c x).life = s.life := rfl
@[simp] theorem State.setCore_svn (s : State) (c : Nat) (x : Core) : (s.setCore c x).svn = s.svn := rfl
@[simp] theorem State.setCore_m0 (s : State) (c : Nat) (x : Core) : (s.setCore c x).m0 = s.m0 := rfl
@[simp] theorem State.setCore_bootFailed (s : State) (c : Nat) (x : Core) : (s.setCore c x).bootFailed = s.bootFailed := rfl
@[simp] theorem State.setCore_monitors (s : State) (c : Nat) (x : Core) : (s.setCore c x).monitors = s.monitors := rfl
@[simp] theorem State.setCore_islands (s : State) (c : Nat) (x : Core) : (s.setCore c x).islands = s.islands := rfl
@[simp] theorem State.setCore_ceilings (s : State) (c : Nat) (x : Core) : (s.setCore c x).ceilings = s.ceilings := rfl
@[simp] theorem State.setCore_powerLimit (s : State) (c : Nat) (x : Core) : (s.setCore c x).powerLimit = s.powerLimit := rfl
@[simp] theorem State.setCore_powerAvg (s : State) (c : Nat) (x : Core) : (s.setCore c x).powerAvg = s.powerAvg := rfl
@[simp] theorem State.setCore_hostLines (s : State) (c : Nat) (x : Core) : (s.setCore c x).hostLines = s.hostLines := rfl
@[simp] theorem State.setCore_backInval (s : State) (c : Nat) (x : Core) : (s.setCore c x).backInval = s.backInval := rfl
@[simp] theorem State.setCore_dramBad (s : State) (c : Nat) (x : Core) : (s.setCore c x).dramBad = s.dramBad := rfl
@[simp] theorem State.setCore_parityBad (s : State) (c : Nat) (x : Core) : (s.setCore c x).parityBad = s.parityBad := rfl
@[simp] theorem State.setCore_upsets (s : State) (c : Nat) (x : Core) : (s.setCore c x).upsets = s.upsets := rfl
@[simp] theorem State.setCore_answers (s : State) (c : Nat) (x : Core) : (s.setCore c x).answers = s.answers := rfl
@[simp] theorem State.setCore_reports (s : State) (c : Nat) (x : Core) : (s.setCore c x).reports = s.reports := rfl
@[simp] theorem State.setCore_keys (s : State) (c : Nat) (x : Core) : (s.setCore c x).keys = s.keys := rfl

/-! ### modCore -/

@[simp] theorem State.modCore_tick (s : State) (c : Nat) (f : Core → Core) : (s.modCore c f).tick = s.tick := rfl
@[simp] theorem State.modCore_now (s : State) (c : Nat) (f : Core → Core) : (s.modCore c f).now = s.now := rfl
@[simp] theorem State.modCore_inputs (s : State) (c : Nat) (f : Core → Core) : (s.modCore c f).inputs = s.inputs := rfl
@[simp] theorem State.modCore_turn (s : State) (c : Nat) (f : Core → Core) : (s.modCore c f).turn = s.turn := rfl
@[simp] theorem State.modCore_seqs (s : State) (c : Nat) (f : Core → Core) : (s.modCore c f).seqs = s.seqs := rfl
@[simp] theorem State.modCore_clusters (s : State) (c : Nat) (f : Core → Core) : (s.modCore c f).clusters = s.clusters := rfl
@[simp] theorem State.modCore_dies (s : State) (c : Nat) (f : Core → Core) : (s.modCore c f).dies = s.dies := rfl
@[simp] theorem State.modCore_baseDies (s : State) (c : Nat) (f : Core → Core) : (s.modCore c f).baseDies = s.baseDies := rfl
@[simp] theorem State.modCore_parts (s : State) (c : Nat) (f : Core → Core) : (s.modCore c f).parts = s.parts := rfl
@[simp] theorem State.modCore_mem (s : State) (c : Nat) (f : Core → Core) : (s.modCore c f).mem = s.mem := rfl
@[simp] theorem State.modCore_memPoison (s : State) (c : Nat) (f : Core → Core) : (s.modCore c f).memPoison = s.memPoison := rfl
@[simp] theorem State.modCore_lineTags (s : State) (c : Nat) (f : Core → Core) : (s.modCore c f).lineTags = s.lineTags := rfl
@[simp] theorem State.modCore_lines (s : State) (c : Nat) (f : Core → Core) : (s.modCore c f).lines = s.lines := rfl
@[simp] theorem State.modCore_stored (s : State) (c : Nat) (f : Core → Core) : (s.modCore c f).stored = s.stored := rfl
@[simp] theorem State.modCore_moved (s : State) (c : Nat) (f : Core → Core) : (s.modCore c f).moved = s.moved := rfl
@[simp] theorem State.modCore_asidTable (s : State) (c : Nat) (f : Core → Core) : (s.modCore c f).asidTable = s.asidTable := rfl
@[simp] theorem State.modCore_peerTable (s : State) (c : Nat) (f : Core → Core) : (s.modCore c f).peerTable = s.peerTable := rfl
@[simp] theorem State.modCore_held (s : State) (c : Nat) (f : Core → Core) : (s.modCore c f).held = s.held := rfl
@[simp] theorem State.modCore_ports (s : State) (c : Nat) (f : Core → Core) : (s.modCore c f).ports = s.ports := rfl
@[simp] theorem State.modCore_requests (s : State) (c : Nat) (f : Core → Core) : (s.modCore c f).requests = s.requests := rfl
@[simp] theorem State.modCore_streams (s : State) (c : Nat) (f : Core → Core) : (s.modCore c f).streams = s.streams := rfl
@[simp] theorem State.modCore_colls (s : State) (c : Nat) (f : Core → Core) : (s.modCore c f).colls = s.colls := rfl
@[simp] theorem State.modCore_collCounts (s : State) (c : Nat) (f : Core → Core) : (s.modCore c f).collCounts = s.collCounts := rfl
@[simp] theorem State.modCore_launches (s : State) (c : Nat) (f : Core → Core) : (s.modCore c f).launches = s.launches := rfl
@[simp] theorem State.modCore_tlb (s : State) (c : Nat) (f : Core → Core) : (s.modCore c f).tlb = s.tlb := rfl
@[simp] theorem State.modCore_life (s : State) (c : Nat) (f : Core → Core) : (s.modCore c f).life = s.life := rfl
@[simp] theorem State.modCore_svn (s : State) (c : Nat) (f : Core → Core) : (s.modCore c f).svn = s.svn := rfl
@[simp] theorem State.modCore_m0 (s : State) (c : Nat) (f : Core → Core) : (s.modCore c f).m0 = s.m0 := rfl
@[simp] theorem State.modCore_bootFailed (s : State) (c : Nat) (f : Core → Core) : (s.modCore c f).bootFailed = s.bootFailed := rfl
@[simp] theorem State.modCore_monitors (s : State) (c : Nat) (f : Core → Core) : (s.modCore c f).monitors = s.monitors := rfl
@[simp] theorem State.modCore_islands (s : State) (c : Nat) (f : Core → Core) : (s.modCore c f).islands = s.islands := rfl
@[simp] theorem State.modCore_ceilings (s : State) (c : Nat) (f : Core → Core) : (s.modCore c f).ceilings = s.ceilings := rfl
@[simp] theorem State.modCore_powerLimit (s : State) (c : Nat) (f : Core → Core) : (s.modCore c f).powerLimit = s.powerLimit := rfl
@[simp] theorem State.modCore_powerAvg (s : State) (c : Nat) (f : Core → Core) : (s.modCore c f).powerAvg = s.powerAvg := rfl
@[simp] theorem State.modCore_hostLines (s : State) (c : Nat) (f : Core → Core) : (s.modCore c f).hostLines = s.hostLines := rfl
@[simp] theorem State.modCore_backInval (s : State) (c : Nat) (f : Core → Core) : (s.modCore c f).backInval = s.backInval := rfl
@[simp] theorem State.modCore_dramBad (s : State) (c : Nat) (f : Core → Core) : (s.modCore c f).dramBad = s.dramBad := rfl
@[simp] theorem State.modCore_parityBad (s : State) (c : Nat) (f : Core → Core) : (s.modCore c f).parityBad = s.parityBad := rfl
@[simp] theorem State.modCore_upsets (s : State) (c : Nat) (f : Core → Core) : (s.modCore c f).upsets = s.upsets := rfl
@[simp] theorem State.modCore_answers (s : State) (c : Nat) (f : Core → Core) : (s.modCore c f).answers = s.answers := rfl
@[simp] theorem State.modCore_reports (s : State) (c : Nat) (f : Core → Core) : (s.modCore c f).reports = s.reports := rfl
@[simp] theorem State.modCore_keys (s : State) (c : Nat) (f : Core → Core) : (s.modCore c f).keys = s.keys := rfl

/-! ### setCluster -/

@[simp] theorem State.setCluster_tick (s : State) (c : Nat) (x : Cluster) : (s.setCluster c x).tick = s.tick := rfl
@[simp] theorem State.setCluster_now (s : State) (c : Nat) (x : Cluster) : (s.setCluster c x).now = s.now := rfl
@[simp] theorem State.setCluster_inputs (s : State) (c : Nat) (x : Cluster) : (s.setCluster c x).inputs = s.inputs := rfl
@[simp] theorem State.setCluster_turn (s : State) (c : Nat) (x : Cluster) : (s.setCluster c x).turn = s.turn := rfl
@[simp] theorem State.setCluster_seqs (s : State) (c : Nat) (x : Cluster) : (s.setCluster c x).seqs = s.seqs := rfl
@[simp] theorem State.setCluster_cores (s : State) (c : Nat) (x : Cluster) : (s.setCluster c x).cores = s.cores := rfl
@[simp] theorem State.setCluster_dies (s : State) (c : Nat) (x : Cluster) : (s.setCluster c x).dies = s.dies := rfl
@[simp] theorem State.setCluster_baseDies (s : State) (c : Nat) (x : Cluster) : (s.setCluster c x).baseDies = s.baseDies := rfl
@[simp] theorem State.setCluster_parts (s : State) (c : Nat) (x : Cluster) : (s.setCluster c x).parts = s.parts := rfl
@[simp] theorem State.setCluster_mem (s : State) (c : Nat) (x : Cluster) : (s.setCluster c x).mem = s.mem := rfl
@[simp] theorem State.setCluster_memPoison (s : State) (c : Nat) (x : Cluster) : (s.setCluster c x).memPoison = s.memPoison := rfl
@[simp] theorem State.setCluster_lineTags (s : State) (c : Nat) (x : Cluster) : (s.setCluster c x).lineTags = s.lineTags := rfl
@[simp] theorem State.setCluster_lines (s : State) (c : Nat) (x : Cluster) : (s.setCluster c x).lines = s.lines := rfl
@[simp] theorem State.setCluster_stored (s : State) (c : Nat) (x : Cluster) : (s.setCluster c x).stored = s.stored := rfl
@[simp] theorem State.setCluster_moved (s : State) (c : Nat) (x : Cluster) : (s.setCluster c x).moved = s.moved := rfl
@[simp] theorem State.setCluster_asidTable (s : State) (c : Nat) (x : Cluster) : (s.setCluster c x).asidTable = s.asidTable := rfl
@[simp] theorem State.setCluster_peerTable (s : State) (c : Nat) (x : Cluster) : (s.setCluster c x).peerTable = s.peerTable := rfl
@[simp] theorem State.setCluster_held (s : State) (c : Nat) (x : Cluster) : (s.setCluster c x).held = s.held := rfl
@[simp] theorem State.setCluster_ports (s : State) (c : Nat) (x : Cluster) : (s.setCluster c x).ports = s.ports := rfl
@[simp] theorem State.setCluster_requests (s : State) (c : Nat) (x : Cluster) : (s.setCluster c x).requests = s.requests := rfl
@[simp] theorem State.setCluster_streams (s : State) (c : Nat) (x : Cluster) : (s.setCluster c x).streams = s.streams := rfl
@[simp] theorem State.setCluster_colls (s : State) (c : Nat) (x : Cluster) : (s.setCluster c x).colls = s.colls := rfl
@[simp] theorem State.setCluster_collCounts (s : State) (c : Nat) (x : Cluster) : (s.setCluster c x).collCounts = s.collCounts := rfl
@[simp] theorem State.setCluster_launches (s : State) (c : Nat) (x : Cluster) : (s.setCluster c x).launches = s.launches := rfl
@[simp] theorem State.setCluster_tlb (s : State) (c : Nat) (x : Cluster) : (s.setCluster c x).tlb = s.tlb := rfl
@[simp] theorem State.setCluster_life (s : State) (c : Nat) (x : Cluster) : (s.setCluster c x).life = s.life := rfl
@[simp] theorem State.setCluster_svn (s : State) (c : Nat) (x : Cluster) : (s.setCluster c x).svn = s.svn := rfl
@[simp] theorem State.setCluster_m0 (s : State) (c : Nat) (x : Cluster) : (s.setCluster c x).m0 = s.m0 := rfl
@[simp] theorem State.setCluster_bootFailed (s : State) (c : Nat) (x : Cluster) : (s.setCluster c x).bootFailed = s.bootFailed := rfl
@[simp] theorem State.setCluster_monitors (s : State) (c : Nat) (x : Cluster) : (s.setCluster c x).monitors = s.monitors := rfl
@[simp] theorem State.setCluster_islands (s : State) (c : Nat) (x : Cluster) : (s.setCluster c x).islands = s.islands := rfl
@[simp] theorem State.setCluster_ceilings (s : State) (c : Nat) (x : Cluster) : (s.setCluster c x).ceilings = s.ceilings := rfl
@[simp] theorem State.setCluster_powerLimit (s : State) (c : Nat) (x : Cluster) : (s.setCluster c x).powerLimit = s.powerLimit := rfl
@[simp] theorem State.setCluster_powerAvg (s : State) (c : Nat) (x : Cluster) : (s.setCluster c x).powerAvg = s.powerAvg := rfl
@[simp] theorem State.setCluster_hostLines (s : State) (c : Nat) (x : Cluster) : (s.setCluster c x).hostLines = s.hostLines := rfl
@[simp] theorem State.setCluster_backInval (s : State) (c : Nat) (x : Cluster) : (s.setCluster c x).backInval = s.backInval := rfl
@[simp] theorem State.setCluster_dramBad (s : State) (c : Nat) (x : Cluster) : (s.setCluster c x).dramBad = s.dramBad := rfl
@[simp] theorem State.setCluster_parityBad (s : State) (c : Nat) (x : Cluster) : (s.setCluster c x).parityBad = s.parityBad := rfl
@[simp] theorem State.setCluster_upsets (s : State) (c : Nat) (x : Cluster) : (s.setCluster c x).upsets = s.upsets := rfl
@[simp] theorem State.setCluster_answers (s : State) (c : Nat) (x : Cluster) : (s.setCluster c x).answers = s.answers := rfl
@[simp] theorem State.setCluster_reports (s : State) (c : Nat) (x : Cluster) : (s.setCluster c x).reports = s.reports := rfl
@[simp] theorem State.setCluster_keys (s : State) (c : Nat) (x : Cluster) : (s.setCluster c x).keys = s.keys := rfl

/-! ### modCluster -/

@[simp] theorem State.modCluster_tick (s : State) (c : Nat) (f : Cluster → Cluster) : (s.modCluster c f).tick = s.tick := rfl
@[simp] theorem State.modCluster_now (s : State) (c : Nat) (f : Cluster → Cluster) : (s.modCluster c f).now = s.now := rfl
@[simp] theorem State.modCluster_inputs (s : State) (c : Nat) (f : Cluster → Cluster) : (s.modCluster c f).inputs = s.inputs := rfl
@[simp] theorem State.modCluster_turn (s : State) (c : Nat) (f : Cluster → Cluster) : (s.modCluster c f).turn = s.turn := rfl
@[simp] theorem State.modCluster_seqs (s : State) (c : Nat) (f : Cluster → Cluster) : (s.modCluster c f).seqs = s.seqs := rfl
@[simp] theorem State.modCluster_cores (s : State) (c : Nat) (f : Cluster → Cluster) : (s.modCluster c f).cores = s.cores := rfl
@[simp] theorem State.modCluster_dies (s : State) (c : Nat) (f : Cluster → Cluster) : (s.modCluster c f).dies = s.dies := rfl
@[simp] theorem State.modCluster_baseDies (s : State) (c : Nat) (f : Cluster → Cluster) : (s.modCluster c f).baseDies = s.baseDies := rfl
@[simp] theorem State.modCluster_parts (s : State) (c : Nat) (f : Cluster → Cluster) : (s.modCluster c f).parts = s.parts := rfl
@[simp] theorem State.modCluster_mem (s : State) (c : Nat) (f : Cluster → Cluster) : (s.modCluster c f).mem = s.mem := rfl
@[simp] theorem State.modCluster_memPoison (s : State) (c : Nat) (f : Cluster → Cluster) : (s.modCluster c f).memPoison = s.memPoison := rfl
@[simp] theorem State.modCluster_lineTags (s : State) (c : Nat) (f : Cluster → Cluster) : (s.modCluster c f).lineTags = s.lineTags := rfl
@[simp] theorem State.modCluster_lines (s : State) (c : Nat) (f : Cluster → Cluster) : (s.modCluster c f).lines = s.lines := rfl
@[simp] theorem State.modCluster_stored (s : State) (c : Nat) (f : Cluster → Cluster) : (s.modCluster c f).stored = s.stored := rfl
@[simp] theorem State.modCluster_moved (s : State) (c : Nat) (f : Cluster → Cluster) : (s.modCluster c f).moved = s.moved := rfl
@[simp] theorem State.modCluster_asidTable (s : State) (c : Nat) (f : Cluster → Cluster) : (s.modCluster c f).asidTable = s.asidTable := rfl
@[simp] theorem State.modCluster_peerTable (s : State) (c : Nat) (f : Cluster → Cluster) : (s.modCluster c f).peerTable = s.peerTable := rfl
@[simp] theorem State.modCluster_held (s : State) (c : Nat) (f : Cluster → Cluster) : (s.modCluster c f).held = s.held := rfl
@[simp] theorem State.modCluster_ports (s : State) (c : Nat) (f : Cluster → Cluster) : (s.modCluster c f).ports = s.ports := rfl
@[simp] theorem State.modCluster_requests (s : State) (c : Nat) (f : Cluster → Cluster) : (s.modCluster c f).requests = s.requests := rfl
@[simp] theorem State.modCluster_streams (s : State) (c : Nat) (f : Cluster → Cluster) : (s.modCluster c f).streams = s.streams := rfl
@[simp] theorem State.modCluster_colls (s : State) (c : Nat) (f : Cluster → Cluster) : (s.modCluster c f).colls = s.colls := rfl
@[simp] theorem State.modCluster_collCounts (s : State) (c : Nat) (f : Cluster → Cluster) : (s.modCluster c f).collCounts = s.collCounts := rfl
@[simp] theorem State.modCluster_launches (s : State) (c : Nat) (f : Cluster → Cluster) : (s.modCluster c f).launches = s.launches := rfl
@[simp] theorem State.modCluster_tlb (s : State) (c : Nat) (f : Cluster → Cluster) : (s.modCluster c f).tlb = s.tlb := rfl
@[simp] theorem State.modCluster_life (s : State) (c : Nat) (f : Cluster → Cluster) : (s.modCluster c f).life = s.life := rfl
@[simp] theorem State.modCluster_svn (s : State) (c : Nat) (f : Cluster → Cluster) : (s.modCluster c f).svn = s.svn := rfl
@[simp] theorem State.modCluster_m0 (s : State) (c : Nat) (f : Cluster → Cluster) : (s.modCluster c f).m0 = s.m0 := rfl
@[simp] theorem State.modCluster_bootFailed (s : State) (c : Nat) (f : Cluster → Cluster) : (s.modCluster c f).bootFailed = s.bootFailed := rfl
@[simp] theorem State.modCluster_monitors (s : State) (c : Nat) (f : Cluster → Cluster) : (s.modCluster c f).monitors = s.monitors := rfl
@[simp] theorem State.modCluster_islands (s : State) (c : Nat) (f : Cluster → Cluster) : (s.modCluster c f).islands = s.islands := rfl
@[simp] theorem State.modCluster_ceilings (s : State) (c : Nat) (f : Cluster → Cluster) : (s.modCluster c f).ceilings = s.ceilings := rfl
@[simp] theorem State.modCluster_powerLimit (s : State) (c : Nat) (f : Cluster → Cluster) : (s.modCluster c f).powerLimit = s.powerLimit := rfl
@[simp] theorem State.modCluster_powerAvg (s : State) (c : Nat) (f : Cluster → Cluster) : (s.modCluster c f).powerAvg = s.powerAvg := rfl
@[simp] theorem State.modCluster_hostLines (s : State) (c : Nat) (f : Cluster → Cluster) : (s.modCluster c f).hostLines = s.hostLines := rfl
@[simp] theorem State.modCluster_backInval (s : State) (c : Nat) (f : Cluster → Cluster) : (s.modCluster c f).backInval = s.backInval := rfl
@[simp] theorem State.modCluster_dramBad (s : State) (c : Nat) (f : Cluster → Cluster) : (s.modCluster c f).dramBad = s.dramBad := rfl
@[simp] theorem State.modCluster_parityBad (s : State) (c : Nat) (f : Cluster → Cluster) : (s.modCluster c f).parityBad = s.parityBad := rfl
@[simp] theorem State.modCluster_upsets (s : State) (c : Nat) (f : Cluster → Cluster) : (s.modCluster c f).upsets = s.upsets := rfl
@[simp] theorem State.modCluster_answers (s : State) (c : Nat) (f : Cluster → Cluster) : (s.modCluster c f).answers = s.answers := rfl
@[simp] theorem State.modCluster_reports (s : State) (c : Nat) (f : Cluster → Cluster) : (s.modCluster c f).reports = s.reports := rfl
@[simp] theorem State.modCluster_keys (s : State) (c : Nat) (f : Cluster → Cluster) : (s.modCluster c f).keys = s.keys := rfl

/-! ### modPad -/

@[simp] theorem State.modPad_tick (s : State) (c : Nat) (f : Pad → Pad) : (s.modPad c f).tick = s.tick := rfl
@[simp] theorem State.modPad_now (s : State) (c : Nat) (f : Pad → Pad) : (s.modPad c f).now = s.now := rfl
@[simp] theorem State.modPad_inputs (s : State) (c : Nat) (f : Pad → Pad) : (s.modPad c f).inputs = s.inputs := rfl
@[simp] theorem State.modPad_turn (s : State) (c : Nat) (f : Pad → Pad) : (s.modPad c f).turn = s.turn := rfl
@[simp] theorem State.modPad_seqs (s : State) (c : Nat) (f : Pad → Pad) : (s.modPad c f).seqs = s.seqs := rfl
@[simp] theorem State.modPad_cores (s : State) (c : Nat) (f : Pad → Pad) : (s.modPad c f).cores = s.cores := rfl
@[simp] theorem State.modPad_dies (s : State) (c : Nat) (f : Pad → Pad) : (s.modPad c f).dies = s.dies := rfl
@[simp] theorem State.modPad_baseDies (s : State) (c : Nat) (f : Pad → Pad) : (s.modPad c f).baseDies = s.baseDies := rfl
@[simp] theorem State.modPad_parts (s : State) (c : Nat) (f : Pad → Pad) : (s.modPad c f).parts = s.parts := rfl
@[simp] theorem State.modPad_mem (s : State) (c : Nat) (f : Pad → Pad) : (s.modPad c f).mem = s.mem := rfl
@[simp] theorem State.modPad_memPoison (s : State) (c : Nat) (f : Pad → Pad) : (s.modPad c f).memPoison = s.memPoison := rfl
@[simp] theorem State.modPad_lineTags (s : State) (c : Nat) (f : Pad → Pad) : (s.modPad c f).lineTags = s.lineTags := rfl
@[simp] theorem State.modPad_lines (s : State) (c : Nat) (f : Pad → Pad) : (s.modPad c f).lines = s.lines := rfl
@[simp] theorem State.modPad_stored (s : State) (c : Nat) (f : Pad → Pad) : (s.modPad c f).stored = s.stored := rfl
@[simp] theorem State.modPad_moved (s : State) (c : Nat) (f : Pad → Pad) : (s.modPad c f).moved = s.moved := rfl
@[simp] theorem State.modPad_asidTable (s : State) (c : Nat) (f : Pad → Pad) : (s.modPad c f).asidTable = s.asidTable := rfl
@[simp] theorem State.modPad_peerTable (s : State) (c : Nat) (f : Pad → Pad) : (s.modPad c f).peerTable = s.peerTable := rfl
@[simp] theorem State.modPad_held (s : State) (c : Nat) (f : Pad → Pad) : (s.modPad c f).held = s.held := rfl
@[simp] theorem State.modPad_ports (s : State) (c : Nat) (f : Pad → Pad) : (s.modPad c f).ports = s.ports := rfl
@[simp] theorem State.modPad_requests (s : State) (c : Nat) (f : Pad → Pad) : (s.modPad c f).requests = s.requests := rfl
@[simp] theorem State.modPad_streams (s : State) (c : Nat) (f : Pad → Pad) : (s.modPad c f).streams = s.streams := rfl
@[simp] theorem State.modPad_colls (s : State) (c : Nat) (f : Pad → Pad) : (s.modPad c f).colls = s.colls := rfl
@[simp] theorem State.modPad_collCounts (s : State) (c : Nat) (f : Pad → Pad) : (s.modPad c f).collCounts = s.collCounts := rfl
@[simp] theorem State.modPad_launches (s : State) (c : Nat) (f : Pad → Pad) : (s.modPad c f).launches = s.launches := rfl
@[simp] theorem State.modPad_tlb (s : State) (c : Nat) (f : Pad → Pad) : (s.modPad c f).tlb = s.tlb := rfl
@[simp] theorem State.modPad_life (s : State) (c : Nat) (f : Pad → Pad) : (s.modPad c f).life = s.life := rfl
@[simp] theorem State.modPad_svn (s : State) (c : Nat) (f : Pad → Pad) : (s.modPad c f).svn = s.svn := rfl
@[simp] theorem State.modPad_m0 (s : State) (c : Nat) (f : Pad → Pad) : (s.modPad c f).m0 = s.m0 := rfl
@[simp] theorem State.modPad_bootFailed (s : State) (c : Nat) (f : Pad → Pad) : (s.modPad c f).bootFailed = s.bootFailed := rfl
@[simp] theorem State.modPad_monitors (s : State) (c : Nat) (f : Pad → Pad) : (s.modPad c f).monitors = s.monitors := rfl
@[simp] theorem State.modPad_islands (s : State) (c : Nat) (f : Pad → Pad) : (s.modPad c f).islands = s.islands := rfl
@[simp] theorem State.modPad_ceilings (s : State) (c : Nat) (f : Pad → Pad) : (s.modPad c f).ceilings = s.ceilings := rfl
@[simp] theorem State.modPad_powerLimit (s : State) (c : Nat) (f : Pad → Pad) : (s.modPad c f).powerLimit = s.powerLimit := rfl
@[simp] theorem State.modPad_powerAvg (s : State) (c : Nat) (f : Pad → Pad) : (s.modPad c f).powerAvg = s.powerAvg := rfl
@[simp] theorem State.modPad_hostLines (s : State) (c : Nat) (f : Pad → Pad) : (s.modPad c f).hostLines = s.hostLines := rfl
@[simp] theorem State.modPad_backInval (s : State) (c : Nat) (f : Pad → Pad) : (s.modPad c f).backInval = s.backInval := rfl
@[simp] theorem State.modPad_dramBad (s : State) (c : Nat) (f : Pad → Pad) : (s.modPad c f).dramBad = s.dramBad := rfl
@[simp] theorem State.modPad_parityBad (s : State) (c : Nat) (f : Pad → Pad) : (s.modPad c f).parityBad = s.parityBad := rfl
@[simp] theorem State.modPad_upsets (s : State) (c : Nat) (f : Pad → Pad) : (s.modPad c f).upsets = s.upsets := rfl
@[simp] theorem State.modPad_answers (s : State) (c : Nat) (f : Pad → Pad) : (s.modPad c f).answers = s.answers := rfl
@[simp] theorem State.modPad_reports (s : State) (c : Nat) (f : Pad → Pad) : (s.modPad c f).reports = s.reports := rfl
@[simp] theorem State.modPad_keys (s : State) (c : Nat) (f : Pad → Pad) : (s.modPad c f).keys = s.keys := rfl

/-! ### modDie -/

@[simp] theorem State.modDie_tick (s : State) (d : Nat) (f : Die → Die) : (s.modDie d f).tick = s.tick := rfl
@[simp] theorem State.modDie_now (s : State) (d : Nat) (f : Die → Die) : (s.modDie d f).now = s.now := rfl
@[simp] theorem State.modDie_inputs (s : State) (d : Nat) (f : Die → Die) : (s.modDie d f).inputs = s.inputs := rfl
@[simp] theorem State.modDie_turn (s : State) (d : Nat) (f : Die → Die) : (s.modDie d f).turn = s.turn := rfl
@[simp] theorem State.modDie_seqs (s : State) (d : Nat) (f : Die → Die) : (s.modDie d f).seqs = s.seqs := rfl
@[simp] theorem State.modDie_cores (s : State) (d : Nat) (f : Die → Die) : (s.modDie d f).cores = s.cores := rfl
@[simp] theorem State.modDie_clusters (s : State) (d : Nat) (f : Die → Die) : (s.modDie d f).clusters = s.clusters := rfl
@[simp] theorem State.modDie_baseDies (s : State) (d : Nat) (f : Die → Die) : (s.modDie d f).baseDies = s.baseDies := rfl
@[simp] theorem State.modDie_parts (s : State) (d : Nat) (f : Die → Die) : (s.modDie d f).parts = s.parts := rfl
@[simp] theorem State.modDie_mem (s : State) (d : Nat) (f : Die → Die) : (s.modDie d f).mem = s.mem := rfl
@[simp] theorem State.modDie_memPoison (s : State) (d : Nat) (f : Die → Die) : (s.modDie d f).memPoison = s.memPoison := rfl
@[simp] theorem State.modDie_lineTags (s : State) (d : Nat) (f : Die → Die) : (s.modDie d f).lineTags = s.lineTags := rfl
@[simp] theorem State.modDie_lines (s : State) (d : Nat) (f : Die → Die) : (s.modDie d f).lines = s.lines := rfl
@[simp] theorem State.modDie_stored (s : State) (d : Nat) (f : Die → Die) : (s.modDie d f).stored = s.stored := rfl
@[simp] theorem State.modDie_moved (s : State) (d : Nat) (f : Die → Die) : (s.modDie d f).moved = s.moved := rfl
@[simp] theorem State.modDie_asidTable (s : State) (d : Nat) (f : Die → Die) : (s.modDie d f).asidTable = s.asidTable := rfl
@[simp] theorem State.modDie_peerTable (s : State) (d : Nat) (f : Die → Die) : (s.modDie d f).peerTable = s.peerTable := rfl
@[simp] theorem State.modDie_held (s : State) (d : Nat) (f : Die → Die) : (s.modDie d f).held = s.held := rfl
@[simp] theorem State.modDie_ports (s : State) (d : Nat) (f : Die → Die) : (s.modDie d f).ports = s.ports := rfl
@[simp] theorem State.modDie_requests (s : State) (d : Nat) (f : Die → Die) : (s.modDie d f).requests = s.requests := rfl
@[simp] theorem State.modDie_streams (s : State) (d : Nat) (f : Die → Die) : (s.modDie d f).streams = s.streams := rfl
@[simp] theorem State.modDie_colls (s : State) (d : Nat) (f : Die → Die) : (s.modDie d f).colls = s.colls := rfl
@[simp] theorem State.modDie_collCounts (s : State) (d : Nat) (f : Die → Die) : (s.modDie d f).collCounts = s.collCounts := rfl
@[simp] theorem State.modDie_launches (s : State) (d : Nat) (f : Die → Die) : (s.modDie d f).launches = s.launches := rfl
@[simp] theorem State.modDie_tlb (s : State) (d : Nat) (f : Die → Die) : (s.modDie d f).tlb = s.tlb := rfl
@[simp] theorem State.modDie_life (s : State) (d : Nat) (f : Die → Die) : (s.modDie d f).life = s.life := rfl
@[simp] theorem State.modDie_svn (s : State) (d : Nat) (f : Die → Die) : (s.modDie d f).svn = s.svn := rfl
@[simp] theorem State.modDie_m0 (s : State) (d : Nat) (f : Die → Die) : (s.modDie d f).m0 = s.m0 := rfl
@[simp] theorem State.modDie_bootFailed (s : State) (d : Nat) (f : Die → Die) : (s.modDie d f).bootFailed = s.bootFailed := rfl
@[simp] theorem State.modDie_monitors (s : State) (d : Nat) (f : Die → Die) : (s.modDie d f).monitors = s.monitors := rfl
@[simp] theorem State.modDie_islands (s : State) (d : Nat) (f : Die → Die) : (s.modDie d f).islands = s.islands := rfl
@[simp] theorem State.modDie_ceilings (s : State) (d : Nat) (f : Die → Die) : (s.modDie d f).ceilings = s.ceilings := rfl
@[simp] theorem State.modDie_powerLimit (s : State) (d : Nat) (f : Die → Die) : (s.modDie d f).powerLimit = s.powerLimit := rfl
@[simp] theorem State.modDie_powerAvg (s : State) (d : Nat) (f : Die → Die) : (s.modDie d f).powerAvg = s.powerAvg := rfl
@[simp] theorem State.modDie_hostLines (s : State) (d : Nat) (f : Die → Die) : (s.modDie d f).hostLines = s.hostLines := rfl
@[simp] theorem State.modDie_backInval (s : State) (d : Nat) (f : Die → Die) : (s.modDie d f).backInval = s.backInval := rfl
@[simp] theorem State.modDie_dramBad (s : State) (d : Nat) (f : Die → Die) : (s.modDie d f).dramBad = s.dramBad := rfl
@[simp] theorem State.modDie_parityBad (s : State) (d : Nat) (f : Die → Die) : (s.modDie d f).parityBad = s.parityBad := rfl
@[simp] theorem State.modDie_upsets (s : State) (d : Nat) (f : Die → Die) : (s.modDie d f).upsets = s.upsets := rfl
@[simp] theorem State.modDie_answers (s : State) (d : Nat) (f : Die → Die) : (s.modDie d f).answers = s.answers := rfl
@[simp] theorem State.modDie_reports (s : State) (d : Nat) (f : Die → Die) : (s.modDie d f).reports = s.reports := rfl
@[simp] theorem State.modDie_keys (s : State) (d : Nat) (f : Die → Die) : (s.modDie d f).keys = s.keys := rfl

/-! ### modStack -/

@[simp] theorem State.modStack_tick (s : State) (k : Nat) (f : Stack → Stack) : (s.modStack k f).tick = s.tick := rfl
@[simp] theorem State.modStack_now (s : State) (k : Nat) (f : Stack → Stack) : (s.modStack k f).now = s.now := rfl
@[simp] theorem State.modStack_inputs (s : State) (k : Nat) (f : Stack → Stack) : (s.modStack k f).inputs = s.inputs := rfl
@[simp] theorem State.modStack_turn (s : State) (k : Nat) (f : Stack → Stack) : (s.modStack k f).turn = s.turn := rfl
@[simp] theorem State.modStack_seqs (s : State) (k : Nat) (f : Stack → Stack) : (s.modStack k f).seqs = s.seqs := rfl
@[simp] theorem State.modStack_cores (s : State) (k : Nat) (f : Stack → Stack) : (s.modStack k f).cores = s.cores := rfl
@[simp] theorem State.modStack_clusters (s : State) (k : Nat) (f : Stack → Stack) : (s.modStack k f).clusters = s.clusters := rfl
@[simp] theorem State.modStack_dies (s : State) (k : Nat) (f : Stack → Stack) : (s.modStack k f).dies = s.dies := rfl
@[simp] theorem State.modStack_parts (s : State) (k : Nat) (f : Stack → Stack) : (s.modStack k f).parts = s.parts := rfl
@[simp] theorem State.modStack_mem (s : State) (k : Nat) (f : Stack → Stack) : (s.modStack k f).mem = s.mem := rfl
@[simp] theorem State.modStack_memPoison (s : State) (k : Nat) (f : Stack → Stack) : (s.modStack k f).memPoison = s.memPoison := rfl
@[simp] theorem State.modStack_lineTags (s : State) (k : Nat) (f : Stack → Stack) : (s.modStack k f).lineTags = s.lineTags := rfl
@[simp] theorem State.modStack_lines (s : State) (k : Nat) (f : Stack → Stack) : (s.modStack k f).lines = s.lines := rfl
@[simp] theorem State.modStack_stored (s : State) (k : Nat) (f : Stack → Stack) : (s.modStack k f).stored = s.stored := rfl
@[simp] theorem State.modStack_moved (s : State) (k : Nat) (f : Stack → Stack) : (s.modStack k f).moved = s.moved := rfl
@[simp] theorem State.modStack_asidTable (s : State) (k : Nat) (f : Stack → Stack) : (s.modStack k f).asidTable = s.asidTable := rfl
@[simp] theorem State.modStack_peerTable (s : State) (k : Nat) (f : Stack → Stack) : (s.modStack k f).peerTable = s.peerTable := rfl
@[simp] theorem State.modStack_held (s : State) (k : Nat) (f : Stack → Stack) : (s.modStack k f).held = s.held := rfl
@[simp] theorem State.modStack_ports (s : State) (k : Nat) (f : Stack → Stack) : (s.modStack k f).ports = s.ports := rfl
@[simp] theorem State.modStack_requests (s : State) (k : Nat) (f : Stack → Stack) : (s.modStack k f).requests = s.requests := rfl
@[simp] theorem State.modStack_streams (s : State) (k : Nat) (f : Stack → Stack) : (s.modStack k f).streams = s.streams := rfl
@[simp] theorem State.modStack_colls (s : State) (k : Nat) (f : Stack → Stack) : (s.modStack k f).colls = s.colls := rfl
@[simp] theorem State.modStack_collCounts (s : State) (k : Nat) (f : Stack → Stack) : (s.modStack k f).collCounts = s.collCounts := rfl
@[simp] theorem State.modStack_launches (s : State) (k : Nat) (f : Stack → Stack) : (s.modStack k f).launches = s.launches := rfl
@[simp] theorem State.modStack_tlb (s : State) (k : Nat) (f : Stack → Stack) : (s.modStack k f).tlb = s.tlb := rfl
@[simp] theorem State.modStack_life (s : State) (k : Nat) (f : Stack → Stack) : (s.modStack k f).life = s.life := rfl
@[simp] theorem State.modStack_svn (s : State) (k : Nat) (f : Stack → Stack) : (s.modStack k f).svn = s.svn := rfl
@[simp] theorem State.modStack_m0 (s : State) (k : Nat) (f : Stack → Stack) : (s.modStack k f).m0 = s.m0 := rfl
@[simp] theorem State.modStack_bootFailed (s : State) (k : Nat) (f : Stack → Stack) : (s.modStack k f).bootFailed = s.bootFailed := rfl
@[simp] theorem State.modStack_monitors (s : State) (k : Nat) (f : Stack → Stack) : (s.modStack k f).monitors = s.monitors := rfl
@[simp] theorem State.modStack_islands (s : State) (k : Nat) (f : Stack → Stack) : (s.modStack k f).islands = s.islands := rfl
@[simp] theorem State.modStack_ceilings (s : State) (k : Nat) (f : Stack → Stack) : (s.modStack k f).ceilings = s.ceilings := rfl
@[simp] theorem State.modStack_powerLimit (s : State) (k : Nat) (f : Stack → Stack) : (s.modStack k f).powerLimit = s.powerLimit := rfl
@[simp] theorem State.modStack_powerAvg (s : State) (k : Nat) (f : Stack → Stack) : (s.modStack k f).powerAvg = s.powerAvg := rfl
@[simp] theorem State.modStack_hostLines (s : State) (k : Nat) (f : Stack → Stack) : (s.modStack k f).hostLines = s.hostLines := rfl
@[simp] theorem State.modStack_backInval (s : State) (k : Nat) (f : Stack → Stack) : (s.modStack k f).backInval = s.backInval := rfl
@[simp] theorem State.modStack_dramBad (s : State) (k : Nat) (f : Stack → Stack) : (s.modStack k f).dramBad = s.dramBad := rfl
@[simp] theorem State.modStack_parityBad (s : State) (k : Nat) (f : Stack → Stack) : (s.modStack k f).parityBad = s.parityBad := rfl
@[simp] theorem State.modStack_upsets (s : State) (k : Nat) (f : Stack → Stack) : (s.modStack k f).upsets = s.upsets := rfl
@[simp] theorem State.modStack_answers (s : State) (k : Nat) (f : Stack → Stack) : (s.modStack k f).answers = s.answers := rfl
@[simp] theorem State.modStack_reports (s : State) (k : Nat) (f : Stack → Stack) : (s.modStack k f).reports = s.reports := rfl
@[simp] theorem State.modStack_keys (s : State) (k : Nat) (f : Stack → Stack) : (s.modStack k f).keys = s.keys := rfl

/-! ### modPart -/

@[simp] theorem State.modPart_tick (s : State) (p : Nat) (f : Part → Part) : (s.modPart p f).tick = s.tick := rfl
@[simp] theorem State.modPart_now (s : State) (p : Nat) (f : Part → Part) : (s.modPart p f).now = s.now := rfl
@[simp] theorem State.modPart_inputs (s : State) (p : Nat) (f : Part → Part) : (s.modPart p f).inputs = s.inputs := rfl
@[simp] theorem State.modPart_turn (s : State) (p : Nat) (f : Part → Part) : (s.modPart p f).turn = s.turn := rfl
@[simp] theorem State.modPart_seqs (s : State) (p : Nat) (f : Part → Part) : (s.modPart p f).seqs = s.seqs := rfl
@[simp] theorem State.modPart_cores (s : State) (p : Nat) (f : Part → Part) : (s.modPart p f).cores = s.cores := rfl
@[simp] theorem State.modPart_clusters (s : State) (p : Nat) (f : Part → Part) : (s.modPart p f).clusters = s.clusters := rfl
@[simp] theorem State.modPart_dies (s : State) (p : Nat) (f : Part → Part) : (s.modPart p f).dies = s.dies := rfl
@[simp] theorem State.modPart_baseDies (s : State) (p : Nat) (f : Part → Part) : (s.modPart p f).baseDies = s.baseDies := rfl
@[simp] theorem State.modPart_mem (s : State) (p : Nat) (f : Part → Part) : (s.modPart p f).mem = s.mem := rfl
@[simp] theorem State.modPart_memPoison (s : State) (p : Nat) (f : Part → Part) : (s.modPart p f).memPoison = s.memPoison := rfl
@[simp] theorem State.modPart_lineTags (s : State) (p : Nat) (f : Part → Part) : (s.modPart p f).lineTags = s.lineTags := rfl
@[simp] theorem State.modPart_lines (s : State) (p : Nat) (f : Part → Part) : (s.modPart p f).lines = s.lines := rfl
@[simp] theorem State.modPart_stored (s : State) (p : Nat) (f : Part → Part) : (s.modPart p f).stored = s.stored := rfl
@[simp] theorem State.modPart_moved (s : State) (p : Nat) (f : Part → Part) : (s.modPart p f).moved = s.moved := rfl
@[simp] theorem State.modPart_asidTable (s : State) (p : Nat) (f : Part → Part) : (s.modPart p f).asidTable = s.asidTable := rfl
@[simp] theorem State.modPart_peerTable (s : State) (p : Nat) (f : Part → Part) : (s.modPart p f).peerTable = s.peerTable := rfl
@[simp] theorem State.modPart_held (s : State) (p : Nat) (f : Part → Part) : (s.modPart p f).held = s.held := rfl
@[simp] theorem State.modPart_ports (s : State) (p : Nat) (f : Part → Part) : (s.modPart p f).ports = s.ports := rfl
@[simp] theorem State.modPart_requests (s : State) (p : Nat) (f : Part → Part) : (s.modPart p f).requests = s.requests := rfl
@[simp] theorem State.modPart_streams (s : State) (p : Nat) (f : Part → Part) : (s.modPart p f).streams = s.streams := rfl
@[simp] theorem State.modPart_colls (s : State) (p : Nat) (f : Part → Part) : (s.modPart p f).colls = s.colls := rfl
@[simp] theorem State.modPart_collCounts (s : State) (p : Nat) (f : Part → Part) : (s.modPart p f).collCounts = s.collCounts := rfl
@[simp] theorem State.modPart_launches (s : State) (p : Nat) (f : Part → Part) : (s.modPart p f).launches = s.launches := rfl
@[simp] theorem State.modPart_tlb (s : State) (p : Nat) (f : Part → Part) : (s.modPart p f).tlb = s.tlb := rfl
@[simp] theorem State.modPart_life (s : State) (p : Nat) (f : Part → Part) : (s.modPart p f).life = s.life := rfl
@[simp] theorem State.modPart_svn (s : State) (p : Nat) (f : Part → Part) : (s.modPart p f).svn = s.svn := rfl
@[simp] theorem State.modPart_m0 (s : State) (p : Nat) (f : Part → Part) : (s.modPart p f).m0 = s.m0 := rfl
@[simp] theorem State.modPart_bootFailed (s : State) (p : Nat) (f : Part → Part) : (s.modPart p f).bootFailed = s.bootFailed := rfl
@[simp] theorem State.modPart_monitors (s : State) (p : Nat) (f : Part → Part) : (s.modPart p f).monitors = s.monitors := rfl
@[simp] theorem State.modPart_islands (s : State) (p : Nat) (f : Part → Part) : (s.modPart p f).islands = s.islands := rfl
@[simp] theorem State.modPart_ceilings (s : State) (p : Nat) (f : Part → Part) : (s.modPart p f).ceilings = s.ceilings := rfl
@[simp] theorem State.modPart_powerLimit (s : State) (p : Nat) (f : Part → Part) : (s.modPart p f).powerLimit = s.powerLimit := rfl
@[simp] theorem State.modPart_powerAvg (s : State) (p : Nat) (f : Part → Part) : (s.modPart p f).powerAvg = s.powerAvg := rfl
@[simp] theorem State.modPart_hostLines (s : State) (p : Nat) (f : Part → Part) : (s.modPart p f).hostLines = s.hostLines := rfl
@[simp] theorem State.modPart_backInval (s : State) (p : Nat) (f : Part → Part) : (s.modPart p f).backInval = s.backInval := rfl
@[simp] theorem State.modPart_dramBad (s : State) (p : Nat) (f : Part → Part) : (s.modPart p f).dramBad = s.dramBad := rfl
@[simp] theorem State.modPart_parityBad (s : State) (p : Nat) (f : Part → Part) : (s.modPart p f).parityBad = s.parityBad := rfl
@[simp] theorem State.modPart_upsets (s : State) (p : Nat) (f : Part → Part) : (s.modPart p f).upsets = s.upsets := rfl
@[simp] theorem State.modPart_answers (s : State) (p : Nat) (f : Part → Part) : (s.modPart p f).answers = s.answers := rfl
@[simp] theorem State.modPart_reports (s : State) (p : Nat) (f : Part → Part) : (s.modPart p f).reports = s.reports := rfl
@[simp] theorem State.modPart_keys (s : State) (p : Nat) (f : Part → Part) : (s.modPart p f).keys = s.keys := rfl

/-! ### modPort -/

@[simp] theorem State.modPort_tick (s : State) (k : Nat) (f : Port → Port) : (s.modPort k f).tick = s.tick := rfl
@[simp] theorem State.modPort_now (s : State) (k : Nat) (f : Port → Port) : (s.modPort k f).now = s.now := rfl
@[simp] theorem State.modPort_inputs (s : State) (k : Nat) (f : Port → Port) : (s.modPort k f).inputs = s.inputs := rfl
@[simp] theorem State.modPort_turn (s : State) (k : Nat) (f : Port → Port) : (s.modPort k f).turn = s.turn := rfl
@[simp] theorem State.modPort_seqs (s : State) (k : Nat) (f : Port → Port) : (s.modPort k f).seqs = s.seqs := rfl
@[simp] theorem State.modPort_cores (s : State) (k : Nat) (f : Port → Port) : (s.modPort k f).cores = s.cores := rfl
@[simp] theorem State.modPort_clusters (s : State) (k : Nat) (f : Port → Port) : (s.modPort k f).clusters = s.clusters := rfl
@[simp] theorem State.modPort_dies (s : State) (k : Nat) (f : Port → Port) : (s.modPort k f).dies = s.dies := rfl
@[simp] theorem State.modPort_baseDies (s : State) (k : Nat) (f : Port → Port) : (s.modPort k f).baseDies = s.baseDies := rfl
@[simp] theorem State.modPort_parts (s : State) (k : Nat) (f : Port → Port) : (s.modPort k f).parts = s.parts := rfl
@[simp] theorem State.modPort_mem (s : State) (k : Nat) (f : Port → Port) : (s.modPort k f).mem = s.mem := rfl
@[simp] theorem State.modPort_memPoison (s : State) (k : Nat) (f : Port → Port) : (s.modPort k f).memPoison = s.memPoison := rfl
@[simp] theorem State.modPort_lineTags (s : State) (k : Nat) (f : Port → Port) : (s.modPort k f).lineTags = s.lineTags := rfl
@[simp] theorem State.modPort_lines (s : State) (k : Nat) (f : Port → Port) : (s.modPort k f).lines = s.lines := rfl
@[simp] theorem State.modPort_stored (s : State) (k : Nat) (f : Port → Port) : (s.modPort k f).stored = s.stored := rfl
@[simp] theorem State.modPort_moved (s : State) (k : Nat) (f : Port → Port) : (s.modPort k f).moved = s.moved := rfl
@[simp] theorem State.modPort_asidTable (s : State) (k : Nat) (f : Port → Port) : (s.modPort k f).asidTable = s.asidTable := rfl
@[simp] theorem State.modPort_peerTable (s : State) (k : Nat) (f : Port → Port) : (s.modPort k f).peerTable = s.peerTable := rfl
@[simp] theorem State.modPort_held (s : State) (k : Nat) (f : Port → Port) : (s.modPort k f).held = s.held := rfl
@[simp] theorem State.modPort_requests (s : State) (k : Nat) (f : Port → Port) : (s.modPort k f).requests = s.requests := rfl
@[simp] theorem State.modPort_streams (s : State) (k : Nat) (f : Port → Port) : (s.modPort k f).streams = s.streams := rfl
@[simp] theorem State.modPort_colls (s : State) (k : Nat) (f : Port → Port) : (s.modPort k f).colls = s.colls := rfl
@[simp] theorem State.modPort_collCounts (s : State) (k : Nat) (f : Port → Port) : (s.modPort k f).collCounts = s.collCounts := rfl
@[simp] theorem State.modPort_launches (s : State) (k : Nat) (f : Port → Port) : (s.modPort k f).launches = s.launches := rfl
@[simp] theorem State.modPort_tlb (s : State) (k : Nat) (f : Port → Port) : (s.modPort k f).tlb = s.tlb := rfl
@[simp] theorem State.modPort_life (s : State) (k : Nat) (f : Port → Port) : (s.modPort k f).life = s.life := rfl
@[simp] theorem State.modPort_svn (s : State) (k : Nat) (f : Port → Port) : (s.modPort k f).svn = s.svn := rfl
@[simp] theorem State.modPort_m0 (s : State) (k : Nat) (f : Port → Port) : (s.modPort k f).m0 = s.m0 := rfl
@[simp] theorem State.modPort_bootFailed (s : State) (k : Nat) (f : Port → Port) : (s.modPort k f).bootFailed = s.bootFailed := rfl
@[simp] theorem State.modPort_monitors (s : State) (k : Nat) (f : Port → Port) : (s.modPort k f).monitors = s.monitors := rfl
@[simp] theorem State.modPort_islands (s : State) (k : Nat) (f : Port → Port) : (s.modPort k f).islands = s.islands := rfl
@[simp] theorem State.modPort_ceilings (s : State) (k : Nat) (f : Port → Port) : (s.modPort k f).ceilings = s.ceilings := rfl
@[simp] theorem State.modPort_powerLimit (s : State) (k : Nat) (f : Port → Port) : (s.modPort k f).powerLimit = s.powerLimit := rfl
@[simp] theorem State.modPort_powerAvg (s : State) (k : Nat) (f : Port → Port) : (s.modPort k f).powerAvg = s.powerAvg := rfl
@[simp] theorem State.modPort_hostLines (s : State) (k : Nat) (f : Port → Port) : (s.modPort k f).hostLines = s.hostLines := rfl
@[simp] theorem State.modPort_backInval (s : State) (k : Nat) (f : Port → Port) : (s.modPort k f).backInval = s.backInval := rfl
@[simp] theorem State.modPort_dramBad (s : State) (k : Nat) (f : Port → Port) : (s.modPort k f).dramBad = s.dramBad := rfl
@[simp] theorem State.modPort_parityBad (s : State) (k : Nat) (f : Port → Port) : (s.modPort k f).parityBad = s.parityBad := rfl
@[simp] theorem State.modPort_upsets (s : State) (k : Nat) (f : Port → Port) : (s.modPort k f).upsets = s.upsets := rfl
@[simp] theorem State.modPort_answers (s : State) (k : Nat) (f : Port → Port) : (s.modPort k f).answers = s.answers := rfl
@[simp] theorem State.modPort_reports (s : State) (k : Nat) (f : Port → Port) : (s.modPort k f).reports = s.reports := rfl
@[simp] theorem State.modPort_keys (s : State) (k : Nat) (f : Port → Port) : (s.modPort k f).keys = s.keys := rfl

/-! ### modLaunch -/

@[simp] theorem State.modLaunch_tick (s : State) (p n : Nat) (g : Launch → Launch) : (s.modLaunch p n g).tick = s.tick := by
  unfold State.modLaunch; split <;> rfl
@[simp] theorem State.modLaunch_now (s : State) (p n : Nat) (g : Launch → Launch) : (s.modLaunch p n g).now = s.now := by
  unfold State.modLaunch; split <;> rfl
@[simp] theorem State.modLaunch_inputs (s : State) (p n : Nat) (g : Launch → Launch) : (s.modLaunch p n g).inputs = s.inputs := by
  unfold State.modLaunch; split <;> rfl
@[simp] theorem State.modLaunch_turn (s : State) (p n : Nat) (g : Launch → Launch) : (s.modLaunch p n g).turn = s.turn := by
  unfold State.modLaunch; split <;> rfl
@[simp] theorem State.modLaunch_seqs (s : State) (p n : Nat) (g : Launch → Launch) : (s.modLaunch p n g).seqs = s.seqs := by
  unfold State.modLaunch; split <;> rfl
@[simp] theorem State.modLaunch_cores (s : State) (p n : Nat) (g : Launch → Launch) : (s.modLaunch p n g).cores = s.cores := by
  unfold State.modLaunch; split <;> rfl
@[simp] theorem State.modLaunch_clusters (s : State) (p n : Nat) (g : Launch → Launch) : (s.modLaunch p n g).clusters = s.clusters := by
  unfold State.modLaunch; split <;> rfl
@[simp] theorem State.modLaunch_dies (s : State) (p n : Nat) (g : Launch → Launch) : (s.modLaunch p n g).dies = s.dies := by
  unfold State.modLaunch; split <;> rfl
@[simp] theorem State.modLaunch_baseDies (s : State) (p n : Nat) (g : Launch → Launch) : (s.modLaunch p n g).baseDies = s.baseDies := by
  unfold State.modLaunch; split <;> rfl
@[simp] theorem State.modLaunch_parts (s : State) (p n : Nat) (g : Launch → Launch) : (s.modLaunch p n g).parts = s.parts := by
  unfold State.modLaunch; split <;> rfl
@[simp] theorem State.modLaunch_mem (s : State) (p n : Nat) (g : Launch → Launch) : (s.modLaunch p n g).mem = s.mem := by
  unfold State.modLaunch; split <;> rfl
@[simp] theorem State.modLaunch_memPoison (s : State) (p n : Nat) (g : Launch → Launch) : (s.modLaunch p n g).memPoison = s.memPoison := by
  unfold State.modLaunch; split <;> rfl
@[simp] theorem State.modLaunch_lineTags (s : State) (p n : Nat) (g : Launch → Launch) : (s.modLaunch p n g).lineTags = s.lineTags := by
  unfold State.modLaunch; split <;> rfl
@[simp] theorem State.modLaunch_lines (s : State) (p n : Nat) (g : Launch → Launch) : (s.modLaunch p n g).lines = s.lines := by
  unfold State.modLaunch; split <;> rfl
@[simp] theorem State.modLaunch_stored (s : State) (p n : Nat) (g : Launch → Launch) : (s.modLaunch p n g).stored = s.stored := by
  unfold State.modLaunch; split <;> rfl
@[simp] theorem State.modLaunch_moved (s : State) (p n : Nat) (g : Launch → Launch) : (s.modLaunch p n g).moved = s.moved := by
  unfold State.modLaunch; split <;> rfl
@[simp] theorem State.modLaunch_asidTable (s : State) (p n : Nat) (g : Launch → Launch) : (s.modLaunch p n g).asidTable = s.asidTable := by
  unfold State.modLaunch; split <;> rfl
@[simp] theorem State.modLaunch_peerTable (s : State) (p n : Nat) (g : Launch → Launch) : (s.modLaunch p n g).peerTable = s.peerTable := by
  unfold State.modLaunch; split <;> rfl
@[simp] theorem State.modLaunch_held (s : State) (p n : Nat) (g : Launch → Launch) : (s.modLaunch p n g).held = s.held := by
  unfold State.modLaunch; split <;> rfl
@[simp] theorem State.modLaunch_ports (s : State) (p n : Nat) (g : Launch → Launch) : (s.modLaunch p n g).ports = s.ports := by
  unfold State.modLaunch; split <;> rfl
@[simp] theorem State.modLaunch_requests (s : State) (p n : Nat) (g : Launch → Launch) : (s.modLaunch p n g).requests = s.requests := by
  unfold State.modLaunch; split <;> rfl
@[simp] theorem State.modLaunch_streams (s : State) (p n : Nat) (g : Launch → Launch) : (s.modLaunch p n g).streams = s.streams := by
  unfold State.modLaunch; split <;> rfl
@[simp] theorem State.modLaunch_colls (s : State) (p n : Nat) (g : Launch → Launch) : (s.modLaunch p n g).colls = s.colls := by
  unfold State.modLaunch; split <;> rfl
@[simp] theorem State.modLaunch_collCounts (s : State) (p n : Nat) (g : Launch → Launch) : (s.modLaunch p n g).collCounts = s.collCounts := by
  unfold State.modLaunch; split <;> rfl
@[simp] theorem State.modLaunch_tlb (s : State) (p n : Nat) (g : Launch → Launch) : (s.modLaunch p n g).tlb = s.tlb := by
  unfold State.modLaunch; split <;> rfl
@[simp] theorem State.modLaunch_life (s : State) (p n : Nat) (g : Launch → Launch) : (s.modLaunch p n g).life = s.life := by
  unfold State.modLaunch; split <;> rfl
@[simp] theorem State.modLaunch_svn (s : State) (p n : Nat) (g : Launch → Launch) : (s.modLaunch p n g).svn = s.svn := by
  unfold State.modLaunch; split <;> rfl
@[simp] theorem State.modLaunch_m0 (s : State) (p n : Nat) (g : Launch → Launch) : (s.modLaunch p n g).m0 = s.m0 := by
  unfold State.modLaunch; split <;> rfl
@[simp] theorem State.modLaunch_bootFailed (s : State) (p n : Nat) (g : Launch → Launch) : (s.modLaunch p n g).bootFailed = s.bootFailed := by
  unfold State.modLaunch; split <;> rfl
@[simp] theorem State.modLaunch_monitors (s : State) (p n : Nat) (g : Launch → Launch) : (s.modLaunch p n g).monitors = s.monitors := by
  unfold State.modLaunch; split <;> rfl
@[simp] theorem State.modLaunch_islands (s : State) (p n : Nat) (g : Launch → Launch) : (s.modLaunch p n g).islands = s.islands := by
  unfold State.modLaunch; split <;> rfl
@[simp] theorem State.modLaunch_ceilings (s : State) (p n : Nat) (g : Launch → Launch) : (s.modLaunch p n g).ceilings = s.ceilings := by
  unfold State.modLaunch; split <;> rfl
@[simp] theorem State.modLaunch_powerLimit (s : State) (p n : Nat) (g : Launch → Launch) : (s.modLaunch p n g).powerLimit = s.powerLimit := by
  unfold State.modLaunch; split <;> rfl
@[simp] theorem State.modLaunch_powerAvg (s : State) (p n : Nat) (g : Launch → Launch) : (s.modLaunch p n g).powerAvg = s.powerAvg := by
  unfold State.modLaunch; split <;> rfl
@[simp] theorem State.modLaunch_hostLines (s : State) (p n : Nat) (g : Launch → Launch) : (s.modLaunch p n g).hostLines = s.hostLines := by
  unfold State.modLaunch; split <;> rfl
@[simp] theorem State.modLaunch_backInval (s : State) (p n : Nat) (g : Launch → Launch) : (s.modLaunch p n g).backInval = s.backInval := by
  unfold State.modLaunch; split <;> rfl
@[simp] theorem State.modLaunch_dramBad (s : State) (p n : Nat) (g : Launch → Launch) : (s.modLaunch p n g).dramBad = s.dramBad := by
  unfold State.modLaunch; split <;> rfl
@[simp] theorem State.modLaunch_parityBad (s : State) (p n : Nat) (g : Launch → Launch) : (s.modLaunch p n g).parityBad = s.parityBad := by
  unfold State.modLaunch; split <;> rfl
@[simp] theorem State.modLaunch_upsets (s : State) (p n : Nat) (g : Launch → Launch) : (s.modLaunch p n g).upsets = s.upsets := by
  unfold State.modLaunch; split <;> rfl
@[simp] theorem State.modLaunch_answers (s : State) (p n : Nat) (g : Launch → Launch) : (s.modLaunch p n g).answers = s.answers := by
  unfold State.modLaunch; split <;> rfl
@[simp] theorem State.modLaunch_reports (s : State) (p n : Nat) (g : Launch → Launch) : (s.modLaunch p n g).reports = s.reports := by
  unfold State.modLaunch; split <;> rfl
@[simp] theorem State.modLaunch_keys (s : State) (p n : Nat) (g : Launch → Launch) : (s.modLaunch p n g).keys = s.keys := by
  unfold State.modLaunch; split <;> rfl

/-! ### endStep -/

@[simp] theorem State.endStep_inputs (s : State) : s.endStep.inputs = s.inputs := rfl
@[simp] theorem State.endStep_seqs (s : State) : s.endStep.seqs = s.seqs := rfl
@[simp] theorem State.endStep_cores (s : State) : s.endStep.cores = s.cores := rfl
@[simp] theorem State.endStep_clusters (s : State) : s.endStep.clusters = s.clusters := rfl
@[simp] theorem State.endStep_dies (s : State) : s.endStep.dies = s.dies := rfl
@[simp] theorem State.endStep_baseDies (s : State) : s.endStep.baseDies = s.baseDies := rfl
@[simp] theorem State.endStep_parts (s : State) : s.endStep.parts = s.parts := rfl
@[simp] theorem State.endStep_mem (s : State) : s.endStep.mem = s.mem := rfl
@[simp] theorem State.endStep_memPoison (s : State) : s.endStep.memPoison = s.memPoison := rfl
@[simp] theorem State.endStep_lineTags (s : State) : s.endStep.lineTags = s.lineTags := rfl
@[simp] theorem State.endStep_lines (s : State) : s.endStep.lines = s.lines := rfl
@[simp] theorem State.endStep_stored (s : State) : s.endStep.stored = s.stored := rfl
@[simp] theorem State.endStep_moved (s : State) : s.endStep.moved = s.moved := rfl
@[simp] theorem State.endStep_asidTable (s : State) : s.endStep.asidTable = s.asidTable := rfl
@[simp] theorem State.endStep_peerTable (s : State) : s.endStep.peerTable = s.peerTable := rfl
@[simp] theorem State.endStep_held (s : State) : s.endStep.held = s.held := rfl
@[simp] theorem State.endStep_ports (s : State) : s.endStep.ports = s.ports := rfl
@[simp] theorem State.endStep_requests (s : State) : s.endStep.requests = s.requests := rfl
@[simp] theorem State.endStep_streams (s : State) : s.endStep.streams = s.streams := rfl
@[simp] theorem State.endStep_colls (s : State) : s.endStep.colls = s.colls := rfl
@[simp] theorem State.endStep_collCounts (s : State) : s.endStep.collCounts = s.collCounts := rfl
@[simp] theorem State.endStep_launches (s : State) : s.endStep.launches = s.launches := rfl
@[simp] theorem State.endStep_tlb (s : State) : s.endStep.tlb = s.tlb := rfl
@[simp] theorem State.endStep_life (s : State) : s.endStep.life = s.life := rfl
@[simp] theorem State.endStep_svn (s : State) : s.endStep.svn = s.svn := rfl
@[simp] theorem State.endStep_m0 (s : State) : s.endStep.m0 = s.m0 := rfl
@[simp] theorem State.endStep_bootFailed (s : State) : s.endStep.bootFailed = s.bootFailed := rfl
@[simp] theorem State.endStep_monitors (s : State) : s.endStep.monitors = s.monitors := rfl
@[simp] theorem State.endStep_islands (s : State) : s.endStep.islands = s.islands := rfl
@[simp] theorem State.endStep_ceilings (s : State) : s.endStep.ceilings = s.ceilings := rfl
@[simp] theorem State.endStep_powerLimit (s : State) : s.endStep.powerLimit = s.powerLimit := rfl
@[simp] theorem State.endStep_powerAvg (s : State) : s.endStep.powerAvg = s.powerAvg := rfl
@[simp] theorem State.endStep_hostLines (s : State) : s.endStep.hostLines = s.hostLines := rfl
@[simp] theorem State.endStep_backInval (s : State) : s.endStep.backInval = s.backInval := rfl
@[simp] theorem State.endStep_dramBad (s : State) : s.endStep.dramBad = s.dramBad := rfl
@[simp] theorem State.endStep_parityBad (s : State) : s.endStep.parityBad = s.parityBad := rfl
@[simp] theorem State.endStep_upsets (s : State) : s.endStep.upsets = s.upsets := rfl
@[simp] theorem State.endStep_answers (s : State) : s.endStep.answers = s.answers := rfl
@[simp] theorem State.endStep_reports (s : State) : s.endStep.reports = s.reports := rfl
@[simp] theorem State.endStep_keys (s : State) : s.endStep.keys = s.keys := rfl

/-! ### dropReads -/

@[simp] theorem State.dropReads_tick (s : State) (o : Owner) : (s.dropReads o).tick = s.tick := by
  unfold State.dropReads; split <;> rfl
@[simp] theorem State.dropReads_now (s : State) (o : Owner) : (s.dropReads o).now = s.now := by
  unfold State.dropReads; split <;> rfl
@[simp] theorem State.dropReads_inputs (s : State) (o : Owner) : (s.dropReads o).inputs = s.inputs := by
  unfold State.dropReads; split <;> rfl
@[simp] theorem State.dropReads_turn (s : State) (o : Owner) : (s.dropReads o).turn = s.turn := by
  unfold State.dropReads; split <;> rfl
@[simp] theorem State.dropReads_seqs (s : State) (o : Owner) : (s.dropReads o).seqs = s.seqs := by
  unfold State.dropReads; split <;> rfl
@[simp] theorem State.dropReads_cores (s : State) (o : Owner) : (s.dropReads o).cores = s.cores := by
  unfold State.dropReads; split <;> rfl
@[simp] theorem State.dropReads_clusters (s : State) (o : Owner) : (s.dropReads o).clusters = s.clusters := by
  unfold State.dropReads; split <;> rfl
@[simp] theorem State.dropReads_dies (s : State) (o : Owner) : (s.dropReads o).dies = s.dies := by
  unfold State.dropReads; split <;> rfl
@[simp] theorem State.dropReads_baseDies (s : State) (o : Owner) : (s.dropReads o).baseDies = s.baseDies := by
  unfold State.dropReads; split <;> rfl
@[simp] theorem State.dropReads_parts (s : State) (o : Owner) : (s.dropReads o).parts = s.parts := by
  unfold State.dropReads; split <;> rfl
@[simp] theorem State.dropReads_mem (s : State) (o : Owner) : (s.dropReads o).mem = s.mem := by
  unfold State.dropReads; split <;> rfl
@[simp] theorem State.dropReads_memPoison (s : State) (o : Owner) : (s.dropReads o).memPoison = s.memPoison := by
  unfold State.dropReads; split <;> rfl
@[simp] theorem State.dropReads_lineTags (s : State) (o : Owner) : (s.dropReads o).lineTags = s.lineTags := by
  unfold State.dropReads; split <;> rfl
@[simp] theorem State.dropReads_lines (s : State) (o : Owner) : (s.dropReads o).lines = s.lines := by
  unfold State.dropReads; split <;> rfl
@[simp] theorem State.dropReads_stored (s : State) (o : Owner) : (s.dropReads o).stored = s.stored := by
  unfold State.dropReads; split <;> rfl
@[simp] theorem State.dropReads_moved (s : State) (o : Owner) : (s.dropReads o).moved = s.moved := by
  unfold State.dropReads; split <;> rfl
@[simp] theorem State.dropReads_asidTable (s : State) (o : Owner) : (s.dropReads o).asidTable = s.asidTable := by
  unfold State.dropReads; split <;> rfl
@[simp] theorem State.dropReads_peerTable (s : State) (o : Owner) : (s.dropReads o).peerTable = s.peerTable := by
  unfold State.dropReads; split <;> rfl
@[simp] theorem State.dropReads_held (s : State) (o : Owner) : (s.dropReads o).held = s.held := by
  unfold State.dropReads; split <;> rfl
@[simp] theorem State.dropReads_ports (s : State) (o : Owner) : (s.dropReads o).ports = s.ports := by
  unfold State.dropReads; split <;> rfl
@[simp] theorem State.dropReads_streams (s : State) (o : Owner) : (s.dropReads o).streams = s.streams := by
  unfold State.dropReads; split <;> rfl
@[simp] theorem State.dropReads_colls (s : State) (o : Owner) : (s.dropReads o).colls = s.colls := by
  unfold State.dropReads; split <;> rfl
@[simp] theorem State.dropReads_collCounts (s : State) (o : Owner) : (s.dropReads o).collCounts = s.collCounts := by
  unfold State.dropReads; split <;> rfl
@[simp] theorem State.dropReads_launches (s : State) (o : Owner) : (s.dropReads o).launches = s.launches := by
  unfold State.dropReads; split <;> rfl
@[simp] theorem State.dropReads_tlb (s : State) (o : Owner) : (s.dropReads o).tlb = s.tlb := by
  unfold State.dropReads; split <;> rfl
@[simp] theorem State.dropReads_life (s : State) (o : Owner) : (s.dropReads o).life = s.life := by
  unfold State.dropReads; split <;> rfl
@[simp] theorem State.dropReads_svn (s : State) (o : Owner) : (s.dropReads o).svn = s.svn := by
  unfold State.dropReads; split <;> rfl
@[simp] theorem State.dropReads_m0 (s : State) (o : Owner) : (s.dropReads o).m0 = s.m0 := by
  unfold State.dropReads; split <;> rfl
@[simp] theorem State.dropReads_bootFailed (s : State) (o : Owner) : (s.dropReads o).bootFailed = s.bootFailed := by
  unfold State.dropReads; split <;> rfl
@[simp] theorem State.dropReads_monitors (s : State) (o : Owner) : (s.dropReads o).monitors = s.monitors := by
  unfold State.dropReads; split <;> rfl
@[simp] theorem State.dropReads_islands (s : State) (o : Owner) : (s.dropReads o).islands = s.islands := by
  unfold State.dropReads; split <;> rfl
@[simp] theorem State.dropReads_ceilings (s : State) (o : Owner) : (s.dropReads o).ceilings = s.ceilings := by
  unfold State.dropReads; split <;> rfl
@[simp] theorem State.dropReads_powerLimit (s : State) (o : Owner) : (s.dropReads o).powerLimit = s.powerLimit := by
  unfold State.dropReads; split <;> rfl
@[simp] theorem State.dropReads_powerAvg (s : State) (o : Owner) : (s.dropReads o).powerAvg = s.powerAvg := by
  unfold State.dropReads; split <;> rfl
@[simp] theorem State.dropReads_hostLines (s : State) (o : Owner) : (s.dropReads o).hostLines = s.hostLines := by
  unfold State.dropReads; split <;> rfl
@[simp] theorem State.dropReads_backInval (s : State) (o : Owner) : (s.dropReads o).backInval = s.backInval := by
  unfold State.dropReads; split <;> rfl
@[simp] theorem State.dropReads_dramBad (s : State) (o : Owner) : (s.dropReads o).dramBad = s.dramBad := by
  unfold State.dropReads; split <;> rfl
@[simp] theorem State.dropReads_parityBad (s : State) (o : Owner) : (s.dropReads o).parityBad = s.parityBad := by
  unfold State.dropReads; split <;> rfl
@[simp] theorem State.dropReads_upsets (s : State) (o : Owner) : (s.dropReads o).upsets = s.upsets := by
  unfold State.dropReads; split <;> rfl
@[simp] theorem State.dropReads_answers (s : State) (o : Owner) : (s.dropReads o).answers = s.answers := by
  unfold State.dropReads; split <;> rfl
@[simp] theorem State.dropReads_reports (s : State) (o : Owner) : (s.dropReads o).reports = s.reports := by
  unfold State.dropReads; split <;> rfl
@[simp] theorem State.dropReads_keys (s : State) (o : Owner) : (s.dropReads o).keys = s.keys := by
  unfold State.dropReads; split <;> rfl

/-! ### Records read after an update -/

@[simp] theorem State.seq_setSeq_same (s : State) (q : Nat) (x : Seq) : (s.setSeq q x).seq q = x := by simp [State.setSeq, State.seq]
theorem State.seq_setSeq_ne (s : State) (q : Nat) (x : Seq) {r : Nat} (h : r ≠ q) : (s.setSeq q x).seq r = s.seq r := by
  simp [State.setSeq, State.seq, FMap.get_put_ne _ _ _ h]
@[simp] theorem State.core_setSeq (s : State) (q : Nat) (x : Seq) (r : Nat) : (s.setSeq q x).core r = s.core r := rfl
@[simp] theorem State.cluster_setSeq (s : State) (q : Nat) (x : Seq) (r : Nat) : (s.setSeq q x).cluster r = s.cluster r := rfl
@[simp] theorem State.die_setSeq (s : State) (q : Nat) (x : Seq) (r : Nat) : (s.setSeq q x).die r = s.die r := rfl
@[simp] theorem State.stack_setSeq (s : State) (q : Nat) (x : Seq) (r : Nat) : (s.setSeq q x).stack r = s.stack r := rfl
@[simp] theorem State.part_setSeq (s : State) (q : Nat) (x : Seq) (r : Nat) : (s.setSeq q x).part r = s.part r := rfl
@[simp] theorem State.port_setSeq (s : State) (q : Nat) (x : Seq) (r : Nat) : (s.setSeq q x).port r = s.port r := rfl
@[simp] theorem State.pad_setSeq (s : State) (q : Nat) (x : Seq) (r : Nat) : (s.setSeq q x).pad r = s.pad r := rfl
@[simp] theorem State.launch?_setSeq (s : State) (q : Nat) (x : Seq) (y z : Nat) : (s.setSeq q x).launch? y z = s.launch? y z := rfl
@[simp] theorem State.readPhys_setSeq (s : State) (q : Nat) (x : Seq) (y z : Nat) : (s.setSeq q x).readPhys y z = s.readPhys y z := rfl
@[simp] theorem State.seq_modSeq_same (s : State) (q : Nat) (f : Seq → Seq) : (s.modSeq q f).seq q = f (s.seq q) := by simp [State.modSeq, State.setSeq, State.seq]
theorem State.seq_modSeq_ne (s : State) (q : Nat) (f : Seq → Seq) {r : Nat} (h : r ≠ q) : (s.modSeq q f).seq r = s.seq r := by
  simp [State.modSeq, State.setSeq, State.seq, FMap.get_put_ne _ _ _ h]
@[simp] theorem State.core_modSeq (s : State) (q : Nat) (f : Seq → Seq) (r : Nat) : (s.modSeq q f).core r = s.core r := rfl
@[simp] theorem State.cluster_modSeq (s : State) (q : Nat) (f : Seq → Seq) (r : Nat) : (s.modSeq q f).cluster r = s.cluster r := rfl
@[simp] theorem State.die_modSeq (s : State) (q : Nat) (f : Seq → Seq) (r : Nat) : (s.modSeq q f).die r = s.die r := rfl
@[simp] theorem State.stack_modSeq (s : State) (q : Nat) (f : Seq → Seq) (r : Nat) : (s.modSeq q f).stack r = s.stack r := rfl
@[simp] theorem State.part_modSeq (s : State) (q : Nat) (f : Seq → Seq) (r : Nat) : (s.modSeq q f).part r = s.part r := rfl
@[simp] theorem State.port_modSeq (s : State) (q : Nat) (f : Seq → Seq) (r : Nat) : (s.modSeq q f).port r = s.port r := rfl
@[simp] theorem State.pad_modSeq (s : State) (q : Nat) (f : Seq → Seq) (r : Nat) : (s.modSeq q f).pad r = s.pad r := rfl
@[simp] theorem State.launch?_modSeq (s : State) (q : Nat) (f : Seq → Seq) (y z : Nat) : (s.modSeq q f).launch? y z = s.launch? y z := rfl
@[simp] theorem State.readPhys_modSeq (s : State) (q : Nat) (f : Seq → Seq) (y z : Nat) : (s.modSeq q f).readPhys y z = s.readPhys y z := rfl
@[simp] theorem State.core_setCore_same (s : State) (c : Nat) (x : Core) : (s.setCore c x).core c = x := by simp [State.setCore, State.core]
theorem State.core_setCore_ne (s : State) (c : Nat) (x : Core) {r : Nat} (h : r ≠ c) : (s.setCore c x).core r = s.core r := by
  simp [State.setCore, State.core, FMap.get_put_ne _ _ _ h]
@[simp] theorem State.seq_setCore (s : State) (c : Nat) (x : Core) (r : Nat) : (s.setCore c x).seq r = s.seq r := rfl
@[simp] theorem State.cluster_setCore (s : State) (c : Nat) (x : Core) (r : Nat) : (s.setCore c x).cluster r = s.cluster r := rfl
@[simp] theorem State.die_setCore (s : State) (c : Nat) (x : Core) (r : Nat) : (s.setCore c x).die r = s.die r := rfl
@[simp] theorem State.stack_setCore (s : State) (c : Nat) (x : Core) (r : Nat) : (s.setCore c x).stack r = s.stack r := rfl
@[simp] theorem State.part_setCore (s : State) (c : Nat) (x : Core) (r : Nat) : (s.setCore c x).part r = s.part r := rfl
@[simp] theorem State.port_setCore (s : State) (c : Nat) (x : Core) (r : Nat) : (s.setCore c x).port r = s.port r := rfl
@[simp] theorem State.pad_setCore (s : State) (c : Nat) (x : Core) (r : Nat) : (s.setCore c x).pad r = s.pad r := rfl
@[simp] theorem State.launch?_setCore (s : State) (c : Nat) (x : Core) (y z : Nat) : (s.setCore c x).launch? y z = s.launch? y z := rfl
@[simp] theorem State.readPhys_setCore (s : State) (c : Nat) (x : Core) (y z : Nat) : (s.setCore c x).readPhys y z = s.readPhys y z := rfl
@[simp] theorem State.core_modCore_same (s : State) (c : Nat) (f : Core → Core) : (s.modCore c f).core c = f (s.core c) := by simp [State.modCore, State.setCore, State.core]
theorem State.core_modCore_ne (s : State) (c : Nat) (f : Core → Core) {r : Nat} (h : r ≠ c) : (s.modCore c f).core r = s.core r := by
  simp [State.modCore, State.setCore, State.core, FMap.get_put_ne _ _ _ h]
@[simp] theorem State.seq_modCore (s : State) (c : Nat) (f : Core → Core) (r : Nat) : (s.modCore c f).seq r = s.seq r := rfl
@[simp] theorem State.cluster_modCore (s : State) (c : Nat) (f : Core → Core) (r : Nat) : (s.modCore c f).cluster r = s.cluster r := rfl
@[simp] theorem State.die_modCore (s : State) (c : Nat) (f : Core → Core) (r : Nat) : (s.modCore c f).die r = s.die r := rfl
@[simp] theorem State.stack_modCore (s : State) (c : Nat) (f : Core → Core) (r : Nat) : (s.modCore c f).stack r = s.stack r := rfl
@[simp] theorem State.part_modCore (s : State) (c : Nat) (f : Core → Core) (r : Nat) : (s.modCore c f).part r = s.part r := rfl
@[simp] theorem State.port_modCore (s : State) (c : Nat) (f : Core → Core) (r : Nat) : (s.modCore c f).port r = s.port r := rfl
@[simp] theorem State.pad_modCore (s : State) (c : Nat) (f : Core → Core) (r : Nat) : (s.modCore c f).pad r = s.pad r := rfl
@[simp] theorem State.launch?_modCore (s : State) (c : Nat) (f : Core → Core) (y z : Nat) : (s.modCore c f).launch? y z = s.launch? y z := rfl
@[simp] theorem State.readPhys_modCore (s : State) (c : Nat) (f : Core → Core) (y z : Nat) : (s.modCore c f).readPhys y z = s.readPhys y z := rfl
@[simp] theorem State.cluster_setCluster_same (s : State) (c : Nat) (x : Cluster) : (s.setCluster c x).cluster c = x := by simp [State.setCluster, State.cluster]
theorem State.cluster_setCluster_ne (s : State) (c : Nat) (x : Cluster) {r : Nat} (h : r ≠ c) : (s.setCluster c x).cluster r = s.cluster r := by
  simp [State.setCluster, State.cluster, FMap.get_put_ne _ _ _ h]
@[simp] theorem State.seq_setCluster (s : State) (c : Nat) (x : Cluster) (r : Nat) : (s.setCluster c x).seq r = s.seq r := rfl
@[simp] theorem State.core_setCluster (s : State) (c : Nat) (x : Cluster) (r : Nat) : (s.setCluster c x).core r = s.core r := rfl
@[simp] theorem State.die_setCluster (s : State) (c : Nat) (x : Cluster) (r : Nat) : (s.setCluster c x).die r = s.die r := rfl
@[simp] theorem State.stack_setCluster (s : State) (c : Nat) (x : Cluster) (r : Nat) : (s.setCluster c x).stack r = s.stack r := rfl
@[simp] theorem State.part_setCluster (s : State) (c : Nat) (x : Cluster) (r : Nat) : (s.setCluster c x).part r = s.part r := rfl
@[simp] theorem State.port_setCluster (s : State) (c : Nat) (x : Cluster) (r : Nat) : (s.setCluster c x).port r = s.port r := rfl
@[simp] theorem State.launch?_setCluster (s : State) (c : Nat) (x : Cluster) (y z : Nat) : (s.setCluster c x).launch? y z = s.launch? y z := rfl
@[simp] theorem State.readPhys_setCluster (s : State) (c : Nat) (x : Cluster) (y z : Nat) : (s.setCluster c x).readPhys y z = s.readPhys y z := rfl
@[simp] theorem State.cluster_modCluster_same (s : State) (c : Nat) (f : Cluster → Cluster) : (s.modCluster c f).cluster c = f (s.cluster c) := by simp [State.modCluster, State.setCluster, State.cluster]
theorem State.cluster_modCluster_ne (s : State) (c : Nat) (f : Cluster → Cluster) {r : Nat} (h : r ≠ c) : (s.modCluster c f).cluster r = s.cluster r := by
  simp [State.modCluster, State.setCluster, State.cluster, FMap.get_put_ne _ _ _ h]
@[simp] theorem State.seq_modCluster (s : State) (c : Nat) (f : Cluster → Cluster) (r : Nat) : (s.modCluster c f).seq r = s.seq r := rfl
@[simp] theorem State.core_modCluster (s : State) (c : Nat) (f : Cluster → Cluster) (r : Nat) : (s.modCluster c f).core r = s.core r := rfl
@[simp] theorem State.die_modCluster (s : State) (c : Nat) (f : Cluster → Cluster) (r : Nat) : (s.modCluster c f).die r = s.die r := rfl
@[simp] theorem State.stack_modCluster (s : State) (c : Nat) (f : Cluster → Cluster) (r : Nat) : (s.modCluster c f).stack r = s.stack r := rfl
@[simp] theorem State.part_modCluster (s : State) (c : Nat) (f : Cluster → Cluster) (r : Nat) : (s.modCluster c f).part r = s.part r := rfl
@[simp] theorem State.port_modCluster (s : State) (c : Nat) (f : Cluster → Cluster) (r : Nat) : (s.modCluster c f).port r = s.port r := rfl
@[simp] theorem State.launch?_modCluster (s : State) (c : Nat) (f : Cluster → Cluster) (y z : Nat) : (s.modCluster c f).launch? y z = s.launch? y z := rfl
@[simp] theorem State.readPhys_modCluster (s : State) (c : Nat) (f : Cluster → Cluster) (y z : Nat) : (s.modCluster c f).readPhys y z = s.readPhys y z := rfl
@[simp] theorem State.pad_modPad_same (s : State) (c : Nat) (f : Pad → Pad) : (s.modPad c f).pad c = f (s.pad c) := by
  simp [State.modPad, State.modCluster, State.setCluster, State.pad, State.cluster]
theorem State.pad_modPad_ne (s : State) (c : Nat) (f : Pad → Pad) {d : Nat} (h : d ≠ c) : (s.modPad c f).pad d = s.pad d := by
  simp [State.modPad, State.modCluster, State.setCluster, State.pad, State.cluster, FMap.get_put_ne _ _ _ h]
@[simp] theorem State.seq_modPad (s : State) (c : Nat) (f : Pad → Pad) (r : Nat) : (s.modPad c f).seq r = s.seq r := rfl
@[simp] theorem State.core_modPad (s : State) (c : Nat) (f : Pad → Pad) (r : Nat) : (s.modPad c f).core r = s.core r := rfl
@[simp] theorem State.die_modPad (s : State) (c : Nat) (f : Pad → Pad) (r : Nat) : (s.modPad c f).die r = s.die r := rfl
@[simp] theorem State.stack_modPad (s : State) (c : Nat) (f : Pad → Pad) (r : Nat) : (s.modPad c f).stack r = s.stack r := rfl
@[simp] theorem State.part_modPad (s : State) (c : Nat) (f : Pad → Pad) (r : Nat) : (s.modPad c f).part r = s.part r := rfl
@[simp] theorem State.port_modPad (s : State) (c : Nat) (f : Pad → Pad) (r : Nat) : (s.modPad c f).port r = s.port r := rfl
@[simp] theorem State.die_modDie_same (s : State) (d : Nat) (f : Die → Die) : (s.modDie d f).die d = f (s.die d) := by simp [State.modDie, State.die]
theorem State.die_modDie_ne (s : State) (d : Nat) (f : Die → Die) {r : Nat} (h : r ≠ d) : (s.modDie d f).die r = s.die r := by
  simp [State.modDie, State.die, FMap.get_put_ne _ _ _ h]
@[simp] theorem State.seq_modDie (s : State) (d : Nat) (f : Die → Die) (r : Nat) : (s.modDie d f).seq r = s.seq r := rfl
@[simp] theorem State.core_modDie (s : State) (d : Nat) (f : Die → Die) (r : Nat) : (s.modDie d f).core r = s.core r := rfl
@[simp] theorem State.cluster_modDie (s : State) (d : Nat) (f : Die → Die) (r : Nat) : (s.modDie d f).cluster r = s.cluster r := rfl
@[simp] theorem State.stack_modDie (s : State) (d : Nat) (f : Die → Die) (r : Nat) : (s.modDie d f).stack r = s.stack r := rfl
@[simp] theorem State.part_modDie (s : State) (d : Nat) (f : Die → Die) (r : Nat) : (s.modDie d f).part r = s.part r := rfl
@[simp] theorem State.port_modDie (s : State) (d : Nat) (f : Die → Die) (r : Nat) : (s.modDie d f).port r = s.port r := rfl
@[simp] theorem State.pad_modDie (s : State) (d : Nat) (f : Die → Die) (r : Nat) : (s.modDie d f).pad r = s.pad r := rfl
@[simp] theorem State.launch?_modDie (s : State) (d : Nat) (f : Die → Die) (y z : Nat) : (s.modDie d f).launch? y z = s.launch? y z := rfl
@[simp] theorem State.readPhys_modDie (s : State) (d : Nat) (f : Die → Die) (y z : Nat) : (s.modDie d f).readPhys y z = s.readPhys y z := rfl
@[simp] theorem State.stack_modStack_same (s : State) (k : Nat) (f : Stack → Stack) : (s.modStack k f).stack k = f (s.stack k) := by simp [State.modStack, State.stack]
theorem State.stack_modStack_ne (s : State) (k : Nat) (f : Stack → Stack) {r : Nat} (h : r ≠ k) : (s.modStack k f).stack r = s.stack r := by
  simp [State.modStack, State.stack, FMap.get_put_ne _ _ _ h]
@[simp] theorem State.seq_modStack (s : State) (k : Nat) (f : Stack → Stack) (r : Nat) : (s.modStack k f).seq r = s.seq r := rfl
@[simp] theorem State.core_modStack (s : State) (k : Nat) (f : Stack → Stack) (r : Nat) : (s.modStack k f).core r = s.core r := rfl
@[simp] theorem State.cluster_modStack (s : State) (k : Nat) (f : Stack → Stack) (r : Nat) : (s.modStack k f).cluster r = s.cluster r := rfl
@[simp] theorem State.die_modStack (s : State) (k : Nat) (f : Stack → Stack) (r : Nat) : (s.modStack k f).die r = s.die r := rfl
@[simp] theorem State.part_modStack (s : State) (k : Nat) (f : Stack → Stack) (r : Nat) : (s.modStack k f).part r = s.part r := rfl
@[simp] theorem State.port_modStack (s : State) (k : Nat) (f : Stack → Stack) (r : Nat) : (s.modStack k f).port r = s.port r := rfl
@[simp] theorem State.pad_modStack (s : State) (k : Nat) (f : Stack → Stack) (r : Nat) : (s.modStack k f).pad r = s.pad r := rfl
@[simp] theorem State.launch?_modStack (s : State) (k : Nat) (f : Stack → Stack) (y z : Nat) : (s.modStack k f).launch? y z = s.launch? y z := rfl
@[simp] theorem State.readPhys_modStack (s : State) (k : Nat) (f : Stack → Stack) (y z : Nat) : (s.modStack k f).readPhys y z = s.readPhys y z := rfl
@[simp] theorem State.part_modPart_same (s : State) (p : Nat) (f : Part → Part) : (s.modPart p f).part p = f (s.part p) := by simp [State.modPart, State.part]
theorem State.part_modPart_ne (s : State) (p : Nat) (f : Part → Part) {r : Nat} (h : r ≠ p) : (s.modPart p f).part r = s.part r := by
  simp [State.modPart, State.part, FMap.get_put_ne _ _ _ h]
@[simp] theorem State.seq_modPart (s : State) (p : Nat) (f : Part → Part) (r : Nat) : (s.modPart p f).seq r = s.seq r := rfl
@[simp] theorem State.core_modPart (s : State) (p : Nat) (f : Part → Part) (r : Nat) : (s.modPart p f).core r = s.core r := rfl
@[simp] theorem State.cluster_modPart (s : State) (p : Nat) (f : Part → Part) (r : Nat) : (s.modPart p f).cluster r = s.cluster r := rfl
@[simp] theorem State.die_modPart (s : State) (p : Nat) (f : Part → Part) (r : Nat) : (s.modPart p f).die r = s.die r := rfl
@[simp] theorem State.stack_modPart (s : State) (p : Nat) (f : Part → Part) (r : Nat) : (s.modPart p f).stack r = s.stack r := rfl
@[simp] theorem State.port_modPart (s : State) (p : Nat) (f : Part → Part) (r : Nat) : (s.modPart p f).port r = s.port r := rfl
@[simp] theorem State.pad_modPart (s : State) (p : Nat) (f : Part → Part) (r : Nat) : (s.modPart p f).pad r = s.pad r := rfl
@[simp] theorem State.launch?_modPart (s : State) (p : Nat) (f : Part → Part) (y z : Nat) : (s.modPart p f).launch? y z = s.launch? y z := rfl
@[simp] theorem State.readPhys_modPart (s : State) (p : Nat) (f : Part → Part) (y z : Nat) : (s.modPart p f).readPhys y z = s.readPhys y z := rfl
@[simp] theorem State.port_modPort_same (s : State) (k : Nat) (f : Port → Port) : (s.modPort k f).port k = f (s.port k) := by simp [State.modPort, State.port]
theorem State.port_modPort_ne (s : State) (k : Nat) (f : Port → Port) {r : Nat} (h : r ≠ k) : (s.modPort k f).port r = s.port r := by
  simp [State.modPort, State.port, FMap.get_put_ne _ _ _ h]
@[simp] theorem State.seq_modPort (s : State) (k : Nat) (f : Port → Port) (r : Nat) : (s.modPort k f).seq r = s.seq r := rfl
@[simp] theorem State.core_modPort (s : State) (k : Nat) (f : Port → Port) (r : Nat) : (s.modPort k f).core r = s.core r := rfl
@[simp] theorem State.cluster_modPort (s : State) (k : Nat) (f : Port → Port) (r : Nat) : (s.modPort k f).cluster r = s.cluster r := rfl
@[simp] theorem State.die_modPort (s : State) (k : Nat) (f : Port → Port) (r : Nat) : (s.modPort k f).die r = s.die r := rfl
@[simp] theorem State.stack_modPort (s : State) (k : Nat) (f : Port → Port) (r : Nat) : (s.modPort k f).stack r = s.stack r := rfl
@[simp] theorem State.part_modPort (s : State) (k : Nat) (f : Port → Port) (r : Nat) : (s.modPort k f).part r = s.part r := rfl
@[simp] theorem State.pad_modPort (s : State) (k : Nat) (f : Port → Port) (r : Nat) : (s.modPort k f).pad r = s.pad r := rfl
@[simp] theorem State.launch?_modPort (s : State) (k : Nat) (f : Port → Port) (y z : Nat) : (s.modPort k f).launch? y z = s.launch? y z := rfl
@[simp] theorem State.readPhys_modPort (s : State) (k : Nat) (f : Port → Port) (y z : Nat) : (s.modPort k f).readPhys y z = s.readPhys y z := rfl

@[simp] theorem State.seq_modLaunch (s : State) (p n : Nat) (g : Launch → Launch) (r : Nat) : (s.modLaunch p n g).seq r = s.seq r := by
  simp [State.seq]
@[simp] theorem State.seq_endStep (s : State) (r : Nat) : s.endStep.seq r = s.seq r := rfl
@[simp] theorem State.seq_dropReads (s : State) (o : Owner) (r : Nat) : (s.dropReads o).seq r = s.seq r := by
  simp [State.seq]
@[simp] theorem State.core_modLaunch (s : State) (p n : Nat) (g : Launch → Launch) (r : Nat) : (s.modLaunch p n g).core r = s.core r := by
  simp [State.core]
@[simp] theorem State.core_endStep (s : State) (r : Nat) : s.endStep.core r = s.core r := rfl
@[simp] theorem State.core_dropReads (s : State) (o : Owner) (r : Nat) : (s.dropReads o).core r = s.core r := by
  simp [State.core]
@[simp] theorem State.cluster_modLaunch (s : State) (p n : Nat) (g : Launch → Launch) (r : Nat) : (s.modLaunch p n g).cluster r = s.cluster r := by
  simp [State.cluster]
@[simp] theorem State.cluster_endStep (s : State) (r : Nat) : s.endStep.cluster r = s.cluster r := rfl
@[simp] theorem State.cluster_dropReads (s : State) (o : Owner) (r : Nat) : (s.dropReads o).cluster r = s.cluster r := by
  simp [State.cluster]
@[simp] theorem State.die_modLaunch (s : State) (p n : Nat) (g : Launch → Launch) (r : Nat) : (s.modLaunch p n g).die r = s.die r := by
  simp [State.die]
@[simp] theorem State.die_endStep (s : State) (r : Nat) : s.endStep.die r = s.die r := rfl
@[simp] theorem State.die_dropReads (s : State) (o : Owner) (r : Nat) : (s.dropReads o).die r = s.die r := by
  simp [State.die]
@[simp] theorem State.stack_modLaunch (s : State) (p n : Nat) (g : Launch → Launch) (r : Nat) : (s.modLaunch p n g).stack r = s.stack r := by
  simp [State.stack]
@[simp] theorem State.stack_endStep (s : State) (r : Nat) : s.endStep.stack r = s.stack r := rfl
@[simp] theorem State.stack_dropReads (s : State) (o : Owner) (r : Nat) : (s.dropReads o).stack r = s.stack r := by
  simp [State.stack]
@[simp] theorem State.part_modLaunch (s : State) (p n : Nat) (g : Launch → Launch) (r : Nat) : (s.modLaunch p n g).part r = s.part r := by
  simp [State.part]
@[simp] theorem State.part_endStep (s : State) (r : Nat) : s.endStep.part r = s.part r := rfl
@[simp] theorem State.part_dropReads (s : State) (o : Owner) (r : Nat) : (s.dropReads o).part r = s.part r := by
  simp [State.part]
@[simp] theorem State.port_modLaunch (s : State) (p n : Nat) (g : Launch → Launch) (r : Nat) : (s.modLaunch p n g).port r = s.port r := by
  simp [State.port]
@[simp] theorem State.port_endStep (s : State) (r : Nat) : s.endStep.port r = s.port r := rfl
@[simp] theorem State.port_dropReads (s : State) (o : Owner) (r : Nat) : (s.dropReads o).port r = s.port r := by
  simp [State.port]

theorem State.readPhys_congr {s t : State} (h : t.mem = s.mem) (g : t.moved = s.moved) : s.SameMemory t := by
  intro a n
  simp [State.readPhys, State.redirect, h, g]

@[simp] theorem State.endStep_tick (s : State) : s.endStep.tick = s.tick + 1 := rfl
@[simp] theorem State.endStep_turn (s : State) : s.endStep.turn = s.nextTurn := rfl

end Sys2Proof.Machine
end

