-- ==== Sys2Proof/Laws/Fetch.lean ====
section
/-!
SUPPORT. Sys2Proof/Laws/Fetch.lean: translation and fetching read only memory, the tables and the mapping of a sequencer; what
a unit does to sequencers, cores and requests leaves them alone.
-/

namespace Sys2Proof.Machine

open Sys2Proof

/-- The fields that translation and fetching read agree. -/
structure State.SameMap (s t : State) : Prop where
  mem : t.mem = s.mem
  memPoison : t.memPoison = s.memPoison
  dramBad : t.dramBad = s.dramBad
  parityBad : t.parityBad = s.parityBad
  lines : t.lines = s.lines
  baseDies : t.baseDies = s.baseDies
  dies : t.dies = s.dies
  moved : t.moved = s.moved
  parts : t.parts = s.parts
  stored : t.stored = s.stored
  peerTable : t.peerTable = s.peerTable
  asidTable : t.asidTable = s.asidTable
  tlb : t.tlb = s.tlb
  tick : t.tick = s.tick

theorem State.SameMap.refl (s : State) : s.SameMap s := ⟨rfl, rfl, rfl, rfl, rfl, rfl, rfl, rfl, rfl, rfl, rfl, rfl, rfl, rfl⟩

theorem State.SameMap.trans {s t u : State} (h : s.SameMap t) (k : t.SameMap u) : s.SameMap u :=
  ⟨k.mem.trans h.mem, k.memPoison.trans h.memPoison, k.dramBad.trans h.dramBad,
    k.parityBad.trans h.parityBad, k.lines.trans h.lines, k.baseDies.trans h.baseDies, k.dies.trans h.dies, k.moved.trans h.moved,
    k.parts.trans h.parts, k.stored.trans h.stored, k.peerTable.trans h.peerTable, k.asidTable.trans h.asidTable, k.tlb.trans h.tlb, k.tick.trans h.tick⟩

variable {s t : State}

theorem State.SameMap.readPhys (h : s.SameMap t) (a n : Nat) : t.readPhys a n = s.readPhys a n := State.readPhys_congr h.mem h.moved a n

theorem State.SameMap.badSector (h : s.SameMap t) (d pa n : Nat) : t.badSector d pa n = s.badSector d pa n := by
  have hr : t.readFails = s.readFails := by
    funext k
    simp only [State.readFails, State.onFailed, State.rebuildable, State.stack, h.dramBad, h.parityBad, h.baseDies]
  have hc : t.inCache = s.inCache := by funext k; simp only [State.inCache, h.lines]
  simp only [State.badSector, State.sectorBad, State.d2dLost, State.die, h.memPoison, h.dies, h.stored, hr, hc]

theorem State.SameMap.readEntry (h : s.SameMap t) (d pa : Nat) : t.readEntry d pa = s.readEntry d pa := by
  simp [State.readEntry, h.badSector, State.readPhysNat, h.readPhys]

theorem State.SameMap.findRange (h : s.SameMap t) (d : Nat) (e : AsidEntry) (va r n : Nat) :
    t.findRange d e va r n = s.findRange d e va r n := by
  induction n generalizing r with
  | zero => rfl
  | succ n ih => simp only [State.findRange, h.readEntry, ih]

theorem State.SameMap.leaf (h : s.SameMap t) (p : Word) (a level va : Nat) : t.leaf p a level va = s.leaf p a level va := by
  have hm : t.mixedPage = s.mixedPage := by funext b v; simp only [State.mixedPage, State.readPhysNat, h.readPhys]
  have hf : t.freeBytes = s.freeBytes := by funext b n; simp only [State.freeBytes, h.tick]
  unfold State.leaf
  rw [hm, hf]

theorem State.SameMap.walk (h : s.SameMap t) (d va level a : Nat) : t.walk d va level a = s.walk d va level a := by
  induction level generalizing a with
  | zero => unfold State.walk; simp only [h.readEntry, h.leaf]
  | succ n ih => unfold State.walk; simp only [h.readEntry, h.leaf, ih]

theorem State.SameMap.checkXlat (h : s.SameMap t) (b : Bool) (p n : Nat) (k : Acc) (x : Xlat) :
    t.checkXlat b p n k x = s.checkXlat b p n k x := by
  have hp : t.peerEntry = s.peerEntry := by funext p; simp only [State.peerEntry, h.mem, h.peerTable]
  have hi : t.inRanges = s.inRanges := by
    have hq : t.part = s.part := by funext p; simp only [State.part, h.parts]
    unfold State.inRanges
    rw [hq]
  unfold State.checkXlat
  rw [hp, hi]

theorem State.SameMap.asidEntry (h : s.SameMap t) (a : Nat) : t.asidEntry a = s.asidEntry a := by
  simp [State.asidEntry, State.readPhysNat, h.readPhys, h.asidTable]

theorem State.SameMap.translateFresh (h : s.SameMap t) (d asid p va n : Nat) (k : Acc) :
    t.translateFresh d asid p va n k = s.translateFresh d asid p va n k := by
  simp only [State.translateFresh, h.badSector, h.asidEntry, h.asidTable, h.findRange, h.walk, h.checkXlat]

theorem State.SameMap.translate (h : s.SameMap t) (c asid p va n : Nat) (k : Acc) :
    t.translate c asid p va n k = s.translate c asid p va n k := by
  have hc : t.cached c asid va = s.cached c asid va := by simp only [State.cached, h.tlb]
  have hm : t.isMoved = s.isMoved := by funext a; simp only [State.isMoved, h.moved]
  have hd : t.d2dLost = s.d2dLost := by simp only [State.d2dLost, State.die, h.dies]
  have hl : ∀ d x, t.linkCut d k x = s.linkCut d k x := by intro d x; unfold State.linkCut; rw [hd]
  unfold State.translate
  simp only [hc, hl, h.checkXlat, h.translateFresh]
  rw [hm]

theorem State.SameMap.fetchWord (h : s.SameMap t) {q : Nat} (k : (t.seq q).cur = (s.seq q).cur) (va : Word) :
    t.fetchWord q va = s.fetchWord q va := by
  simp only [State.fetchWord, k, h.translate, h.badSector, State.readPhysNat, h.readPhys]

theorem State.SameMap.fetchWords (h : s.SameMap t) {q : Nat} (k : (t.seq q).cur = (s.seq q).cur) (va : Word) (n : Nat) :
    t.fetchWords q va n = s.fetchWords q va n := by
  induction n generalizing va with
  | zero => rfl
  | succ n ih => unfold State.fetchWords; simp only [h.fetchWord k, ih]

theorem State.SameMap.fetchUnit (h : s.SameMap t) {q : Nat} (k : (t.seq q).cur = (s.seq q).cur) (va : Word) :
    t.fetchUnit q va = s.fetchUnit q va := h.fetchWords k va 4

theorem State.SameMap.succ (h : s.SameMap t) {q : Nat} (k : (t.seq q).cur = (s.seq q).cur) (va : Word) (b : Bool) :
    t.succ q va b = s.succ q va b := by
  simp only [State.succ, h.fetchUnit k]

theorem State.SameMap.queueAt (h : s.SameMap t) {q : Nat} (k : (t.seq q).cur = (s.seq q).cur) (va : Word) :
    t.queueAt q va = s.queueAt q va := by
  simp only [State.queueAt, h.succ k]

theorem State.SameMap.locate (h : s.SameMap t) {q : Nat} (k : (t.seq q).cur = (s.seq q).cur) (ea n : Nat) (a : Acc) :
    t.locate q ea n a = s.locate q ea n a := by
  simp only [State.locate, k, h.translate]

theorem State.SameMap.tvalWord (h : s.SameMap t) {q : Nat} (k : (t.seq q).cur = (s.seq q).cur) (p : (t.seq q).pc = (s.seq q).pc)
    (n : Nat) : t.tvalWord q n = s.tvalWord q n := by
  simp only [State.tvalWord, State.wordAt, p, h.fetchUnit k]

theorem State.SameMap.modSeq (h : s.SameMap t) (q : Nat) (f : Seq → Seq) : s.SameMap (t.modSeq q f) := ⟨h.1, h.2, h.3, h.4, h.5, h.6, h.7, h.8, h.9, h.10, h.11, h.12, h.13, h.14⟩
theorem State.SameMap.modCore (h : s.SameMap t) (c : Nat) (f : Core → Core) : s.SameMap (t.modCore c f) := ⟨h.1, h.2, h.3, h.4, h.5, h.6, h.7, h.8, h.9, h.10, h.11, h.12, h.13, h.14⟩

theorem State.SameMap.dropReads (h : s.SameMap t) (o : Owner) : s.SameMap (t.dropReads o) := by
  unfold State.dropReads
  split <;> exact ⟨h.1, h.2, h.3, h.4, h.5, h.6, h.7, h.8, h.9, h.10, h.11, h.12, h.13, h.14⟩

theorem State.issue_sameMap (s : State) (q : Nat) : s.SameMap (s.issue q) := by
  unfold State.issue
  dsimp only
  repeat' split
  all_goals exact ⟨rfl, rfl, rfl, rfl, rfl, rfl, rfl, rfl, rfl, rfl, rfl, rfl, rfl, rfl⟩

end Sys2Proof.Machine
end

