-- ==== Sys2Proof/Laws/PerInstr.lean ====
section
/-!
SUPPORT. Sys2Proof/Laws/PerInstr.lean: one lemma per instruction: its fields fit the 32 bits of a word, so that the
encoder drops no bit of any operand (R24, R29).
-/

namespace Sys2Proof.Laws

open Sys2Proof

/-- The number that the fields of a word make fits 32 bits. -/
def Fields.Statement (i : Instr) : Prop := i.isWord = true → i.encodeNat < 4294967296

theorem Fields.fits {i : Instr} {n : Nat} (h : i.encodeNat = n) (k : n < 4294967296) : Fields.Statement i := fun _ => h ▸ k

theorem Bool.toNat_lt (b : Bool) : b.toNat < 2 := by cases b <;> decide
theorem Width.code_lt (n : Width) : n.code < 8 := by cases n <;> decide
theorem MemOrd.code_lt (o : MemOrd) : o.code < 4 := by cases o <;> decide
theorem Nul.code_lt (n : Nul) : n.code < 4 := by cases n <;> decide
theorem FpFmt.code_lt (t : FpFmt) : t.code < 4 := by cases t <;> decide
theorem ExtW.code_lt (w : ExtW) : w.code < 4 := by cases w <;> decide
theorem VMode.code_lt (e : VMode) : e.code < 4 := by cases e <;> decide
theorem VOrd.code_lt (o : VOrd) : o.code < 4 := by cases o <;> decide

theorem Fields.kNop : Fields.Statement .kNop := Fields.fits (n := 1) rfl (by decide)
theorem Fields.kTrap (c : Reg) : Fields.Statement (.kTrap c) :=
  Fields.fits (n := 2 + c.toNat * 65536) rfl (by omega)
theorem Fields.kBrk : Fields.Statement .kBrk := Fields.fits (n := 3) rfl (by decide)
theorem Fields.kEret : Fields.Statement .kEret := Fields.fits (n := 4) rfl (by decide)
theorem Fields.kWfi : Fields.Statement .kWfi := Fields.fits (n := 5) rfl (by decide)
theorem Fields.kEnd : Fields.Statement .kEnd := Fields.fits (n := 6) rfl (by decide)
theorem Fields.kClaim : Fields.Statement .kClaim := Fields.fits (n := 7) rfl (by decide)
theorem Fields.kFence (s : Reg) (t : Reg) : Fields.Statement (.kFence s t) :=
  Fields.fits (n := 8 + s.toNat * 2097152 + t.toNat * 65536) rfl (by omega)
theorem Fields.kLaunch (d : Reg) (a : Reg) : Fields.Statement (.kLaunch d a) :=
  Fields.fits (n := 9 + d.toNat * 2097152 + a.toNat * 65536) rfl (by omega)
theorem Fields.kEgress (d : Reg) (a : Reg) : Fields.Statement (.kEgress d a) :=
  Fields.fits (n := 10 + d.toNat * 2097152 + a.toNat * 65536) rfl (by omega)
theorem Fields.kYield (a : Reg) : Fields.Statement (.kYield a) :=
  Fields.fits (n := 11 + a.toNat * 65536) rfl (by omega)
theorem Fields.kcRw (d : Reg) (a : Reg) (c : BitVec 14) : Fields.Statement (.kcRw d a c) :=
  Fields.fits (n := 67108864 + d.toNat * 2097152 + a.toNat * 65536 + c.toNat) rfl (by omega)
theorem Fields.kcRs (d : Reg) (a : Reg) (c : BitVec 14) : Fields.Statement (.kcRs d a c) :=
  Fields.fits (n := 67125248 + d.toNat * 2097152 + a.toNat * 65536 + c.toNat) rfl (by omega)
theorem Fields.kcRc (d : Reg) (a : Reg) (c : BitVec 14) : Fields.Statement (.kcRc d a c) :=
  Fields.fits (n := 67141632 + d.toNat * 2097152 + a.toNat * 65536 + c.toNat) rfl (by omega)
theorem Fields.kcR (d : Reg) (c : BitVec 14) : Fields.Statement (.kcR d c) :=
  Fields.fits (n := 67158016 + d.toNat * 2097152 + c.toNat) rfl (by omega)
theorem Fields.aAdd (d : Reg) (a : Reg) (b : Reg) : Fields.Statement (.aAdd d a b) :=
  Fields.fits (n := 134217728 + d.toNat * 2097152 + a.toNat * 65536 + b.toNat * 2048) rfl (by omega)
theorem Fields.aSub (d : Reg) (a : Reg) (b : Reg) : Fields.Statement (.aSub d a b) :=
  Fields.fits (n := 134217729 + d.toNat * 2097152 + a.toNat * 65536 + b.toNat * 2048) rfl (by omega)
theorem Fields.aAnd (d : Reg) (a : Reg) (b : Reg) : Fields.Statement (.aAnd d a b) :=
  Fields.fits (n := 134217730 + d.toNat * 2097152 + a.toNat * 65536 + b.toNat * 2048) rfl (by omega)
theorem Fields.aOr (d : Reg) (a : Reg) (b : Reg) : Fields.Statement (.aOr d a b) :=
  Fields.fits (n := 134217731 + d.toNat * 2097152 + a.toNat * 65536 + b.toNat * 2048) rfl (by omega)
theorem Fields.aXor (d : Reg) (a : Reg) (b : Reg) : Fields.Statement (.aXor d a b) :=
  Fields.fits (n := 134217732 + d.toNat * 2097152 + a.toNat * 65536 + b.toNat * 2048) rfl (by omega)
theorem Fields.aShl (d : Reg) (a : Reg) (b : Reg) : Fields.Statement (.aShl d a b) :=
  Fields.fits (n := 134217733 + d.toNat * 2097152 + a.toNat * 65536 + b.toNat * 2048) rfl (by omega)
theorem Fields.aShr (d : Reg) (a : Reg) (b : Reg) : Fields.Statement (.aShr d a b) :=
  Fields.fits (n := 134217734 + d.toNat * 2097152 + a.toNat * 65536 + b.toNat * 2048) rfl (by omega)
theorem Fields.aSra (d : Reg) (a : Reg) (b : Reg) : Fields.Statement (.aSra d a b) :=
  Fields.fits (n := 134217735 + d.toNat * 2097152 + a.toNat * 65536 + b.toNat * 2048) rfl (by omega)
theorem Fields.aSlt (d : Reg) (a : Reg) (b : Reg) : Fields.Statement (.aSlt d a b) :=
  Fields.fits (n := 134217736 + d.toNat * 2097152 + a.toNat * 65536 + b.toNat * 2048) rfl (by omega)
theorem Fields.aSltz (d : Reg) (a : Reg) (b : Reg) : Fields.Statement (.aSltz d a b) :=
  Fields.fits (n := 134217737 + d.toNat * 2097152 + a.toNat * 65536 + b.toNat * 2048) rfl (by omega)
theorem Fields.aMin (d : Reg) (a : Reg) (b : Reg) : Fields.Statement (.aMin d a b) :=
  Fields.fits (n := 134217738 + d.toNat * 2097152 + a.toNat * 65536 + b.toNat * 2048) rfl (by omega)
theorem Fields.aMax (d : Reg) (a : Reg) (b : Reg) : Fields.Statement (.aMax d a b) :=
  Fields.fits (n := 134217739 + d.toNat * 2097152 + a.toNat * 65536 + b.toNat * 2048) rfl (by omega)
theorem Fields.aMinz (d : Reg) (a : Reg) (b : Reg) : Fields.Statement (.aMinz d a b) :=
  Fields.fits (n := 134217740 + d.toNat * 2097152 + a.toNat * 65536 + b.toNat * 2048) rfl (by omega)
theorem Fields.aMaxz (d : Reg) (a : Reg) (b : Reg) : Fields.Statement (.aMaxz d a b) :=
  Fields.fits (n := 134217741 + d.toNat * 2097152 + a.toNat * 65536 + b.toNat * 2048) rfl (by omega)
theorem Fields.aMul (d : Reg) (a : Reg) (b : Reg) : Fields.Statement (.aMul d a b) :=
  Fields.fits (n := 134217742 + d.toNat * 2097152 + a.toNat * 65536 + b.toNat * 2048) rfl (by omega)
theorem Fields.aMulh (d : Reg) (a : Reg) (b : Reg) : Fields.Statement (.aMulh d a b) :=
  Fields.fits (n := 134217743 + d.toNat * 2097152 + a.toNat * 65536 + b.toNat * 2048) rfl (by omega)
theorem Fields.aMulhz (d : Reg) (a : Reg) (b : Reg) : Fields.Statement (.aMulhz d a b) :=
  Fields.fits (n := 134217744 + d.toNat * 2097152 + a.toNat * 65536 + b.toNat * 2048) rfl (by omega)
theorem Fields.aDiv (d : Reg) (a : Reg) (b : Reg) : Fields.Statement (.aDiv d a b) :=
  Fields.fits (n := 134217745 + d.toNat * 2097152 + a.toNat * 65536 + b.toNat * 2048) rfl (by omega)
theorem Fields.aDivz (d : Reg) (a : Reg) (b : Reg) : Fields.Statement (.aDivz d a b) :=
  Fields.fits (n := 134217746 + d.toNat * 2097152 + a.toNat * 65536 + b.toNat * 2048) rfl (by omega)
theorem Fields.aRem (d : Reg) (a : Reg) (b : Reg) : Fields.Statement (.aRem d a b) :=
  Fields.fits (n := 134217747 + d.toNat * 2097152 + a.toNat * 65536 + b.toNat * 2048) rfl (by omega)
theorem Fields.aRemz (d : Reg) (a : Reg) (b : Reg) : Fields.Statement (.aRemz d a b) :=
  Fields.fits (n := 134217748 + d.toNat * 2097152 + a.toNat * 65536 + b.toNat * 2048) rfl (by omega)
theorem Fields.aClz (d : Reg) (a : Reg) : Fields.Statement (.aClz d a) :=
  Fields.fits (n := 134217749 + d.toNat * 2097152 + a.toNat * 65536) rfl (by omega)
theorem Fields.aCtz (d : Reg) (a : Reg) : Fields.Statement (.aCtz d a) :=
  Fields.fits (n := 134217750 + d.toNat * 2097152 + a.toNat * 65536) rfl (by omega)
theorem Fields.aPop (d : Reg) (a : Reg) : Fields.Statement (.aPop d a) :=
  Fields.fits (n := 134217751 + d.toNat * 2097152 + a.toNat * 65536) rfl (by omega)
theorem Fields.aAddw (d : Reg) (a : Reg) (b : Reg) : Fields.Statement (.aAddw d a b) :=
  Fields.fits (n := 134217752 + d.toNat * 2097152 + a.toNat * 65536 + b.toNat * 2048) rfl (by omega)
theorem Fields.aSubw (d : Reg) (a : Reg) (b : Reg) : Fields.Statement (.aSubw d a b) :=
  Fields.fits (n := 134217753 + d.toNat * 2097152 + a.toNat * 65536 + b.toNat * 2048) rfl (by omega)
theorem Fields.aSext (d : Reg) (a : Reg) (w : ExtW) : Fields.Statement (.aSext d a w) :=
  Fields.fits (n := 134217754 + d.toNat * 2097152 + a.toNat * 65536 + w.code * 2048) rfl (by have := ExtW.code_lt w; omega)
theorem Fields.aZext (d : Reg) (a : Reg) (w : ExtW) : Fields.Statement (.aZext d a w) :=
  Fields.fits (n := 134217755 + d.toNat * 2097152 + a.toNat * 65536 + w.code * 2048) rfl (by have := ExtW.code_lt w; omega)
theorem Fields.sAdd (d : Reg) (a : Reg) (b : Reg) : Fields.Statement (.sAdd d a b) :=
  Fields.fits (n := 268435456 + d.toNat * 2097152 + a.toNat * 65536 + b.toNat * 2048) rfl (by omega)
theorem Fields.sSub (d : Reg) (a : Reg) (b : Reg) : Fields.Statement (.sSub d a b) :=
  Fields.fits (n := 268435457 + d.toNat * 2097152 + a.toNat * 65536 + b.toNat * 2048) rfl (by omega)
theorem Fields.sAnd (d : Reg) (a : Reg) (b : Reg) : Fields.Statement (.sAnd d a b) :=
  Fields.fits (n := 268435458 + d.toNat * 2097152 + a.toNat * 65536 + b.toNat * 2048) rfl (by omega)
theorem Fields.sOr (d : Reg) (a : Reg) (b : Reg) : Fields.Statement (.sOr d a b) :=
  Fields.fits (n := 268435459 + d.toNat * 2097152 + a.toNat * 65536 + b.toNat * 2048) rfl (by omega)
theorem Fields.sXor (d : Reg) (a : Reg) (b : Reg) : Fields.Statement (.sXor d a b) :=
  Fields.fits (n := 268435460 + d.toNat * 2097152 + a.toNat * 65536 + b.toNat * 2048) rfl (by omega)
theorem Fields.sShl (d : Reg) (a : Reg) (b : Reg) : Fields.Statement (.sShl d a b) :=
  Fields.fits (n := 268435461 + d.toNat * 2097152 + a.toNat * 65536 + b.toNat * 2048) rfl (by omega)
theorem Fields.sShr (d : Reg) (a : Reg) (b : Reg) : Fields.Statement (.sShr d a b) :=
  Fields.fits (n := 268435462 + d.toNat * 2097152 + a.toNat * 65536 + b.toNat * 2048) rfl (by omega)
theorem Fields.sSra (d : Reg) (a : Reg) (b : Reg) : Fields.Statement (.sSra d a b) :=
  Fields.fits (n := 268435463 + d.toNat * 2097152 + a.toNat * 65536 + b.toNat * 2048) rfl (by omega)
theorem Fields.sSlt (d : Reg) (a : Reg) (b : Reg) : Fields.Statement (.sSlt d a b) :=
  Fields.fits (n := 268435464 + d.toNat * 2097152 + a.toNat * 65536 + b.toNat * 2048) rfl (by omega)
theorem Fields.sSltz (d : Reg) (a : Reg) (b : Reg) : Fields.Statement (.sSltz d a b) :=
  Fields.fits (n := 268435465 + d.toNat * 2097152 + a.toNat * 65536 + b.toNat * 2048) rfl (by omega)
theorem Fields.sMin (d : Reg) (a : Reg) (b : Reg) : Fields.Statement (.sMin d a b) :=
  Fields.fits (n := 268435466 + d.toNat * 2097152 + a.toNat * 65536 + b.toNat * 2048) rfl (by omega)
theorem Fields.sMax (d : Reg) (a : Reg) (b : Reg) : Fields.Statement (.sMax d a b) :=
  Fields.fits (n := 268435467 + d.toNat * 2097152 + a.toNat * 65536 + b.toNat * 2048) rfl (by omega)
theorem Fields.sMinz (d : Reg) (a : Reg) (b : Reg) : Fields.Statement (.sMinz d a b) :=
  Fields.fits (n := 268435468 + d.toNat * 2097152 + a.toNat * 65536 + b.toNat * 2048) rfl (by omega)
theorem Fields.sMaxz (d : Reg) (a : Reg) (b : Reg) : Fields.Statement (.sMaxz d a b) :=
  Fields.fits (n := 268435469 + d.toNat * 2097152 + a.toNat * 65536 + b.toNat * 2048) rfl (by omega)
theorem Fields.sMul (d : Reg) (a : Reg) (b : Reg) : Fields.Statement (.sMul d a b) :=
  Fields.fits (n := 268435470 + d.toNat * 2097152 + a.toNat * 65536 + b.toNat * 2048) rfl (by omega)
theorem Fields.sMulh (d : Reg) (a : Reg) (b : Reg) : Fields.Statement (.sMulh d a b) :=
  Fields.fits (n := 268435471 + d.toNat * 2097152 + a.toNat * 65536 + b.toNat * 2048) rfl (by omega)
theorem Fields.sMulhz (d : Reg) (a : Reg) (b : Reg) : Fields.Statement (.sMulhz d a b) :=
  Fields.fits (n := 268435472 + d.toNat * 2097152 + a.toNat * 65536 + b.toNat * 2048) rfl (by omega)
theorem Fields.sDiv (d : Reg) (a : Reg) (b : Reg) : Fields.Statement (.sDiv d a b) :=
  Fields.fits (n := 268435473 + d.toNat * 2097152 + a.toNat * 65536 + b.toNat * 2048) rfl (by omega)
theorem Fields.sDivz (d : Reg) (a : Reg) (b : Reg) : Fields.Statement (.sDivz d a b) :=
  Fields.fits (n := 268435474 + d.toNat * 2097152 + a.toNat * 65536 + b.toNat * 2048) rfl (by omega)
theorem Fields.sRem (d : Reg) (a : Reg) (b : Reg) : Fields.Statement (.sRem d a b) :=
  Fields.fits (n := 268435475 + d.toNat * 2097152 + a.toNat * 65536 + b.toNat * 2048) rfl (by omega)
theorem Fields.sRemz (d : Reg) (a : Reg) (b : Reg) : Fields.Statement (.sRemz d a b) :=
  Fields.fits (n := 268435476 + d.toNat * 2097152 + a.toNat * 65536 + b.toNat * 2048) rfl (by omega)
theorem Fields.sClz (d : Reg) (a : Reg) : Fields.Statement (.sClz d a) :=
  Fields.fits (n := 268435477 + d.toNat * 2097152 + a.toNat * 65536) rfl (by omega)
theorem Fields.sCtz (d : Reg) (a : Reg) : Fields.Statement (.sCtz d a) :=
  Fields.fits (n := 268435478 + d.toNat * 2097152 + a.toNat * 65536) rfl (by omega)
theorem Fields.sPop (d : Reg) (a : Reg) : Fields.Statement (.sPop d a) :=
  Fields.fits (n := 268435479 + d.toNat * 2097152 + a.toNat * 65536) rfl (by omega)
theorem Fields.sAddw (d : Reg) (a : Reg) (b : Reg) : Fields.Statement (.sAddw d a b) :=
  Fields.fits (n := 268435480 + d.toNat * 2097152 + a.toNat * 65536 + b.toNat * 2048) rfl (by omega)
theorem Fields.sSubw (d : Reg) (a : Reg) (b : Reg) : Fields.Statement (.sSubw d a b) :=
  Fields.fits (n := 268435481 + d.toNat * 2097152 + a.toNat * 65536 + b.toNat * 2048) rfl (by omega)
theorem Fields.sSext (d : Reg) (a : Reg) (w : ExtW) : Fields.Statement (.sSext d a w) :=
  Fields.fits (n := 268435482 + d.toNat * 2097152 + a.toNat * 65536 + w.code * 2048) rfl (by have := ExtW.code_lt w; omega)
theorem Fields.sZext (d : Reg) (a : Reg) (w : ExtW) : Fields.Statement (.sZext d a w) :=
  Fields.fits (n := 268435483 + d.toNat * 2097152 + a.toNat * 65536 + w.code * 2048) rfl (by have := ExtW.code_lt w; omega)
theorem Fields.sBqeq (a : Reg) (b : Reg) : Fields.Statement (.sBqeq a b) :=
  Fields.fits (n := 268435488 + a.toNat * 65536 + b.toNat * 2048) rfl (by omega)
theorem Fields.sBqne (a : Reg) (b : Reg) : Fields.Statement (.sBqne a b) :=
  Fields.fits (n := 268435489 + a.toNat * 65536 + b.toNat * 2048) rfl (by omega)
theorem Fields.sBqlt (a : Reg) (b : Reg) : Fields.Statement (.sBqlt a b) :=
  Fields.fits (n := 268435490 + a.toNat * 65536 + b.toNat * 2048) rfl (by omega)
theorem Fields.sBqge (a : Reg) (b : Reg) : Fields.Statement (.sBqge a b) :=
  Fields.fits (n := 268435491 + a.toNat * 65536 + b.toNat * 2048) rfl (by omega)
theorem Fields.sBqltz (a : Reg) (b : Reg) : Fields.Statement (.sBqltz a b) :=
  Fields.fits (n := 268435492 + a.toNat * 65536 + b.toNat * 2048) rfl (by omega)
theorem Fields.sBqgez (a : Reg) (b : Reg) : Fields.Statement (.sBqgez a b) :=
  Fields.fits (n := 268435493 + a.toNat * 65536 + b.toNat * 2048) rfl (by omega)
theorem Fields.aiAdd (d : Reg) (a : Reg) (i : BitVec 12) : Fields.Statement (.aiAdd d a i) :=
  Fields.fits (n := 201326592 + d.toNat * 2097152 + a.toNat * 65536 + i.toNat) rfl (by omega)
theorem Fields.aiAnd (d : Reg) (a : Reg) (i : BitVec 12) : Fields.Statement (.aiAnd d a i) :=
  Fields.fits (n := 201330688 + d.toNat * 2097152 + a.toNat * 65536 + i.toNat) rfl (by omega)
theorem Fields.aiOr (d : Reg) (a : Reg) (i : BitVec 12) : Fields.Statement (.aiOr d a i) :=
  Fields.fits (n := 201334784 + d.toNat * 2097152 + a.toNat * 65536 + i.toNat) rfl (by omega)
theorem Fields.aiXor (d : Reg) (a : Reg) (i : BitVec 12) : Fields.Statement (.aiXor d a i) :=
  Fields.fits (n := 201338880 + d.toNat * 2097152 + a.toNat * 65536 + i.toNat) rfl (by omega)
theorem Fields.aiShl (d : Reg) (a : Reg) (c : BitVec 6) : Fields.Statement (.aiShl d a c) :=
  Fields.fits (n := 201342976 + d.toNat * 2097152 + a.toNat * 65536 + c.toNat) rfl (by omega)
theorem Fields.aiShr (d : Reg) (a : Reg) (c : BitVec 6) : Fields.Statement (.aiShr d a c) :=
  Fields.fits (n := 201347072 + d.toNat * 2097152 + a.toNat * 65536 + c.toNat) rfl (by omega)
theorem Fields.aiSra (d : Reg) (a : Reg) (c : BitVec 6) : Fields.Statement (.aiSra d a c) :=
  Fields.fits (n := 201351168 + d.toNat * 2097152 + a.toNat * 65536 + c.toNat) rfl (by omega)
theorem Fields.aiSlt (d : Reg) (a : Reg) (i : BitVec 12) : Fields.Statement (.aiSlt d a i) :=
  Fields.fits (n := 201355264 + d.toNat * 2097152 + a.toNat * 65536 + i.toNat) rfl (by omega)
theorem Fields.aiSltz (d : Reg) (a : Reg) (i : BitVec 12) : Fields.Statement (.aiSltz d a i) :=
  Fields.fits (n := 201359360 + d.toNat * 2097152 + a.toNat * 65536 + i.toNat) rfl (by omega)
theorem Fields.aiMul (d : Reg) (a : Reg) (i : BitVec 12) : Fields.Statement (.aiMul d a i) :=
  Fields.fits (n := 201363456 + d.toNat * 2097152 + a.toNat * 65536 + i.toNat) rfl (by omega)
theorem Fields.siAdd (d : Reg) (a : Reg) (i : BitVec 12) : Fields.Statement (.siAdd d a i) :=
  Fields.fits (n := 335544320 + d.toNat * 2097152 + a.toNat * 65536 + i.toNat) rfl (by omega)
theorem Fields.siAnd (d : Reg) (a : Reg) (i : BitVec 12) : Fields.Statement (.siAnd d a i) :=
  Fields.fits (n := 335548416 + d.toNat * 2097152 + a.toNat * 65536 + i.toNat) rfl (by omega)
theorem Fields.siOr (d : Reg) (a : Reg) (i : BitVec 12) : Fields.Statement (.siOr d a i) :=
  Fields.fits (n := 335552512 + d.toNat * 2097152 + a.toNat * 65536 + i.toNat) rfl (by omega)
theorem Fields.siXor (d : Reg) (a : Reg) (i : BitVec 12) : Fields.Statement (.siXor d a i) :=
  Fields.fits (n := 335556608 + d.toNat * 2097152 + a.toNat * 65536 + i.toNat) rfl (by omega)
theorem Fields.siShl (d : Reg) (a : Reg) (c : BitVec 6) : Fields.Statement (.siShl d a c) :=
  Fields.fits (n := 335560704 + d.toNat * 2097152 + a.toNat * 65536 + c.toNat) rfl (by omega)
theorem Fields.siShr (d : Reg) (a : Reg) (c : BitVec 6) : Fields.Statement (.siShr d a c) :=
  Fields.fits (n := 335564800 + d.toNat * 2097152 + a.toNat * 65536 + c.toNat) rfl (by omega)
theorem Fields.siSra (d : Reg) (a : Reg) (c : BitVec 6) : Fields.Statement (.siSra d a c) :=
  Fields.fits (n := 335568896 + d.toNat * 2097152 + a.toNat * 65536 + c.toNat) rfl (by omega)
theorem Fields.siSlt (d : Reg) (a : Reg) (i : BitVec 12) : Fields.Statement (.siSlt d a i) :=
  Fields.fits (n := 335572992 + d.toNat * 2097152 + a.toNat * 65536 + i.toNat) rfl (by omega)
theorem Fields.siSltz (d : Reg) (a : Reg) (i : BitVec 12) : Fields.Statement (.siSltz d a i) :=
  Fields.fits (n := 335577088 + d.toNat * 2097152 + a.toNat * 65536 + i.toNat) rfl (by omega)
theorem Fields.siMul (d : Reg) (a : Reg) (i : BitVec 12) : Fields.Statement (.siMul d a i) :=
  Fields.fits (n := 335581184 + d.toNat * 2097152 + a.toNat * 65536 + i.toNat) rfl (by omega)
theorem Fields.ins (d : Reg) (s : Bool) (q : BitVec 2) (i : BitVec 16) : Fields.Statement (.ins d s q i) :=
  Fields.fits (n := 402653184 + d.toNat * 2097152 + s.toNat * 1048576 + q.toNat * 262144 + i.toNat) rfl (by have := Bool.toNat_lt s; omega)
theorem Fields.ld (d : Reg) (a : Reg) (w : Width) (q : Bool) (o : MemOrd) (i : BitVec 10) : Fields.Statement (.ld d a w q o i) :=
  Fields.fits (n := 469762048 + d.toNat * 2097152 + a.toNat * 65536 + w.code * 8192 + q.toNat * 4096 + o.code * 1024 + i.toNat) rfl (by have := Width.code_lt w; have := Bool.toNat_lt q; have := MemOrd.code_lt o; omega)
theorem Fields.st (d : Reg) (a : Reg) (w : Width) (q : Bool) (o : MemOrd) (i : BitVec 10) : Fields.Statement (.st d a w q o i) :=
  Fields.fits (n := 536870912 + d.toNat * 2097152 + a.toNat * 65536 + w.code * 8192 + q.toNat * 4096 + o.code * 1024 + i.toNat) rfl (by have := Width.code_lt w; have := Bool.toNat_lt q; have := MemOrd.code_lt o; omega)
theorem Fields.lkLl (d : Reg) (a : Reg) : Fields.Statement (.lkLl d a) :=
  Fields.fits (n := 603979776 + d.toNat * 2097152 + a.toNat * 65536) rfl (by omega)
theorem Fields.lkSc (d : Reg) (a : Reg) (b : Reg) : Fields.Statement (.lkSc d a b) :=
  Fields.fits (n := 603979777 + d.toNat * 2097152 + a.toNat * 65536 + b.toNat * 2048) rfl (by omega)
theorem Fields.lkLl32 (d : Reg) (a : Reg) : Fields.Statement (.lkLl32 d a) :=
  Fields.fits (n := 603979778 + d.toNat * 2097152 + a.toNat * 65536) rfl (by omega)
theorem Fields.lkSc32 (d : Reg) (a : Reg) (b : Reg) : Fields.Statement (.lkSc32 d a b) :=
  Fields.fits (n := 603979779 + d.toNat * 2097152 + a.toNat * 65536 + b.toNat * 2048) rfl (by omega)
theorem Fields.bEq (a : Reg) (b : Reg) (n : Nul) (d : BitVec 11) : Fields.Statement (.bEq a b n d) :=
  Fields.fits (n := 671088640 + a.toNat * 2097152 + b.toNat * 65536 + n.code * 2048 + d.toNat) rfl (by have := Nul.code_lt n; omega)
theorem Fields.bNe (a : Reg) (b : Reg) (n : Nul) (d : BitVec 11) : Fields.Statement (.bNe a b n d) :=
  Fields.fits (n := 671096832 + a.toNat * 2097152 + b.toNat * 65536 + n.code * 2048 + d.toNat) rfl (by have := Nul.code_lt n; omega)
theorem Fields.bLt (a : Reg) (b : Reg) (n : Nul) (d : BitVec 11) : Fields.Statement (.bLt a b n d) :=
  Fields.fits (n := 671105024 + a.toNat * 2097152 + b.toNat * 65536 + n.code * 2048 + d.toNat) rfl (by have := Nul.code_lt n; omega)
theorem Fields.bGe (a : Reg) (b : Reg) (n : Nul) (d : BitVec 11) : Fields.Statement (.bGe a b n d) :=
  Fields.fits (n := 671113216 + a.toNat * 2097152 + b.toNat * 65536 + n.code * 2048 + d.toNat) rfl (by have := Nul.code_lt n; omega)
theorem Fields.bLtz (a : Reg) (b : Reg) (n : Nul) (d : BitVec 11) : Fields.Statement (.bLtz a b n d) :=
  Fields.fits (n := 671121408 + a.toNat * 2097152 + b.toNat * 65536 + n.code * 2048 + d.toNat) rfl (by have := Nul.code_lt n; omega)
theorem Fields.bGez (a : Reg) (b : Reg) (n : Nul) (d : BitVec 11) : Fields.Statement (.bGez a b n d) :=
  Fields.fits (n := 671129600 + a.toNat * 2097152 + b.toNat * 65536 + n.code * 2048 + d.toNat) rfl (by have := Nul.code_lt n; omega)
theorem Fields.bqT (n : Nul) (d : BitVec 11) : Fields.Statement (.bqT n d) :=
  Fields.fits (n := 738197504 + n.code * 2048 + d.toNat) rfl (by have := Nul.code_lt n; omega)
theorem Fields.bqF (n : Nul) (d : BitVec 11) : Fields.Statement (.bqF n d) :=
  Fields.fits (n := 738205696 + n.code * 2048 + d.toNat) rfl (by have := Nul.code_lt n; omega)
theorem Fields.j (n : Nul) (d : BitVec 24) : Fields.Statement (.j n d) :=
  Fields.fits (n := 805306368 + n.code * 16777216 + d.toNat) rfl (by have := Nul.code_lt n; omega)
theorem Fields.jal (n : Nul) (d : BitVec 24) : Fields.Statement (.jal n d) :=
  Fields.fits (n := 872415232 + n.code * 16777216 + d.toNat) rfl (by have := Nul.code_lt n; omega)
theorem Fields.jr (d : Reg) (a : Reg) : Fields.Statement (.jr d a) :=
  Fields.fits (n := 939524096 + d.toNat * 2097152 + a.toNat * 65536) rfl (by omega)
theorem Fields.xStoa (a : Reg) : Fields.Statement (.xStoa a) :=
  Fields.fits (n := 1006632960 + a.toNat * 65536) rfl (by omega)
theorem Fields.xAfroms (d : Reg) : Fields.Statement (.xAfroms d) :=
  Fields.fits (n := 1006632961 + d.toNat * 2097152) rfl (by omega)
theorem Fields.xAtoe (a : Reg) : Fields.Statement (.xAtoe a) :=
  Fields.fits (n := 1006632962 + a.toNat * 65536) rfl (by omega)
theorem Fields.xSfrome (d : Reg) : Fields.Statement (.xSfrome d) :=
  Fields.fits (n := 1006632963 + d.toNat * 2097152) rfl (by omega)
theorem Fields.xSpush (a : Reg) : Fields.Statement (.xSpush a) :=
  Fields.fits (n := 1006632964 + a.toNat * 65536) rfl (by omega)
theorem Fields.xDrain (m : BitVec 8) : Fields.Statement (.xDrain m) :=
  Fields.fits (n := 1006632965 + m.toNat * 2048) rfl (by omega)
theorem Fields.sfAdd (d : Reg) (a : Reg) (b : Reg) (t : FpFmt) : Fields.Statement (.sfAdd d a b t) :=
  Fields.fits (n := 1073741824 + d.toNat * 2097152 + a.toNat * 65536 + b.toNat * 2048 + t.code * 256) rfl (by have := FpFmt.code_lt t; omega)
theorem Fields.sfSub (d : Reg) (a : Reg) (b : Reg) (t : FpFmt) : Fields.Statement (.sfSub d a b t) :=
  Fields.fits (n := 1073741825 + d.toNat * 2097152 + a.toNat * 65536 + b.toNat * 2048 + t.code * 256) rfl (by have := FpFmt.code_lt t; omega)
theorem Fields.sfMul (d : Reg) (a : Reg) (b : Reg) (t : FpFmt) : Fields.Statement (.sfMul d a b t) :=
  Fields.fits (n := 1073741826 + d.toNat * 2097152 + a.toNat * 65536 + b.toNat * 2048 + t.code * 256) rfl (by have := FpFmt.code_lt t; omega)
theorem Fields.sfDiv (d : Reg) (a : Reg) (b : Reg) (t : FpFmt) : Fields.Statement (.sfDiv d a b t) :=
  Fields.fits (n := 1073741827 + d.toNat * 2097152 + a.toNat * 65536 + b.toNat * 2048 + t.code * 256) rfl (by have := FpFmt.code_lt t; omega)
theorem Fields.sfSqrt (d : Reg) (a : Reg) (t : FpFmt) : Fields.Statement (.sfSqrt d a t) :=
  Fields.fits (n := 1073741828 + d.toNat * 2097152 + a.toNat * 65536 + t.code * 256) rfl (by have := FpFmt.code_lt t; omega)
theorem Fields.sfMin (d : Reg) (a : Reg) (b : Reg) (t : FpFmt) : Fields.Statement (.sfMin d a b t) :=
  Fields.fits (n := 1073741829 + d.toNat * 2097152 + a.toNat * 65536 + b.toNat * 2048 + t.code * 256) rfl (by have := FpFmt.code_lt t; omega)
theorem Fields.sfMax (d : Reg) (a : Reg) (b : Reg) (t : FpFmt) : Fields.Statement (.sfMax d a b t) :=
  Fields.fits (n := 1073741830 + d.toNat * 2097152 + a.toNat * 65536 + b.toNat * 2048 + t.code * 256) rfl (by have := FpFmt.code_lt t; omega)
theorem Fields.sfFma (d : Reg) (a : Reg) (b : Reg) (t : FpFmt) : Fields.Statement (.sfFma d a b t) :=
  Fields.fits (n := 1073741831 + d.toNat * 2097152 + a.toNat * 65536 + b.toNat * 2048 + t.code * 256) rfl (by have := FpFmt.code_lt t; omega)
theorem Fields.sfCvfi (d : Reg) (a : Reg) (t : FpFmt) : Fields.Statement (.sfCvfi d a t) :=
  Fields.fits (n := 1073741832 + d.toNat * 2097152 + a.toNat * 65536 + t.code * 256) rfl (by have := FpFmt.code_lt t; omega)
theorem Fields.sfCvif (d : Reg) (a : Reg) (t : FpFmt) : Fields.Statement (.sfCvif d a t) :=
  Fields.fits (n := 1073741833 + d.toNat * 2097152 + a.toNat * 65536 + t.code * 256) rfl (by have := FpFmt.code_lt t; omega)
theorem Fields.sfCvff (d : Reg) (a : Reg) (t : FpFmt) : Fields.Statement (.sfCvff d a t) :=
  Fields.fits (n := 1073741834 + d.toNat * 2097152 + a.toNat * 65536 + t.code * 256) rfl (by have := FpFmt.code_lt t; omega)
theorem Fields.sfLt (d : Reg) (a : Reg) (b : Reg) (t : FpFmt) : Fields.Statement (.sfLt d a b t) :=
  Fields.fits (n := 1073741835 + d.toNat * 2097152 + a.toNat * 65536 + b.toNat * 2048 + t.code * 256) rfl (by have := FpFmt.code_lt t; omega)
theorem Fields.sfEq (d : Reg) (a : Reg) (b : Reg) (t : FpFmt) : Fields.Statement (.sfEq d a b t) :=
  Fields.fits (n := 1073741836 + d.toNat * 2097152 + a.toNat * 65536 + b.toNat * 2048 + t.code * 256) rfl (by have := FpFmt.code_lt t; omega)
theorem Fields.sfLe (d : Reg) (a : Reg) (b : Reg) (t : FpFmt) : Fields.Statement (.sfLe d a b t) :=
  Fields.fits (n := 1073741837 + d.toNat * 2097152 + a.toNat * 65536 + b.toNat * 2048 + t.code * 256) rfl (by have := FpFmt.code_lt t; omega)
theorem Fields.vcSetvl (d : Reg) (a : Reg) (b : Reg) : Fields.Statement (.vcSetvl d a b) :=
  Fields.fits (n := 1610612736 + d.toNat * 1048576 + a.toNat * 32768 + b.toNat * 1024) rfl (by omega)
theorem Fields.vcSetvlmax (d : Reg) (b : Reg) : Fields.Statement (.vcSetvlmax d b) :=
  Fields.fits (n := 1610612737 + d.toNat * 1048576 + b.toNat * 1024) rfl (by omega)
theorem Fields.vAdd (l : Bool) (d : Reg) (a : Reg) (b : Reg) (m : BitVec 3) : Fields.Statement (.vAdd l d a b m) :=
  Fields.fits (n := 1677721600 + l.toNat * 33554432 + d.toNat * 1048576 + a.toNat * 32768 + b.toNat * 1024 + m.toNat * 128) rfl (by have := Bool.toNat_lt l; omega)
theorem Fields.vSub (l : Bool) (d : Reg) (a : Reg) (b : Reg) (m : BitVec 3) : Fields.Statement (.vSub l d a b m) :=
  Fields.fits (n := 1677721601 + l.toNat * 33554432 + d.toNat * 1048576 + a.toNat * 32768 + b.toNat * 1024 + m.toNat * 128) rfl (by have := Bool.toNat_lt l; omega)
theorem Fields.vRsub (l : Bool) (d : Reg) (a : Reg) (b : Reg) (m : BitVec 3) : Fields.Statement (.vRsub l d a b m) :=
  Fields.fits (n := 1677721602 + l.toNat * 33554432 + d.toNat * 1048576 + a.toNat * 32768 + b.toNat * 1024 + m.toNat * 128) rfl (by have := Bool.toNat_lt l; omega)
theorem Fields.vMul (l : Bool) (d : Reg) (a : Reg) (b : Reg) (m : BitVec 3) : Fields.Statement (.vMul l d a b m) :=
  Fields.fits (n := 1677721603 + l.toNat * 33554432 + d.toNat * 1048576 + a.toNat * 32768 + b.toNat * 1024 + m.toNat * 128) rfl (by have := Bool.toNat_lt l; omega)
theorem Fields.vMulh (l : Bool) (d : Reg) (a : Reg) (b : Reg) (m : BitVec 3) : Fields.Statement (.vMulh l d a b m) :=
  Fields.fits (n := 1677721604 + l.toNat * 33554432 + d.toNat * 1048576 + a.toNat * 32768 + b.toNat * 1024 + m.toNat * 128) rfl (by have := Bool.toNat_lt l; omega)
theorem Fields.vMulhz (l : Bool) (d : Reg) (a : Reg) (b : Reg) (m : BitVec 3) : Fields.Statement (.vMulhz l d a b m) :=
  Fields.fits (n := 1677721605 + l.toNat * 33554432 + d.toNat * 1048576 + a.toNat * 32768 + b.toNat * 1024 + m.toNat * 128) rfl (by have := Bool.toNat_lt l; omega)
theorem Fields.vMac (l : Bool) (d : Reg) (a : Reg) (b : Reg) (m : BitVec 3) : Fields.Statement (.vMac l d a b m) :=
  Fields.fits (n := 1677721606 + l.toNat * 33554432 + d.toNat * 1048576 + a.toNat * 32768 + b.toNat * 1024 + m.toNat * 128) rfl (by have := Bool.toNat_lt l; omega)
theorem Fields.vNmac (l : Bool) (d : Reg) (a : Reg) (b : Reg) (m : BitVec 3) : Fields.Statement (.vNmac l d a b m) :=
  Fields.fits (n := 1677721607 + l.toNat * 33554432 + d.toNat * 1048576 + a.toNat * 32768 + b.toNat * 1024 + m.toNat * 128) rfl (by have := Bool.toNat_lt l; omega)
theorem Fields.vAnd (l : Bool) (d : Reg) (a : Reg) (b : Reg) (m : BitVec 3) : Fields.Statement (.vAnd l d a b m) :=
  Fields.fits (n := 1677721608 + l.toNat * 33554432 + d.toNat * 1048576 + a.toNat * 32768 + b.toNat * 1024 + m.toNat * 128) rfl (by have := Bool.toNat_lt l; omega)
theorem Fields.vOr (l : Bool) (d : Reg) (a : Reg) (b : Reg) (m : BitVec 3) : Fields.Statement (.vOr l d a b m) :=
  Fields.fits (n := 1677721609 + l.toNat * 33554432 + d.toNat * 1048576 + a.toNat * 32768 + b.toNat * 1024 + m.toNat * 128) rfl (by have := Bool.toNat_lt l; omega)
theorem Fields.vXor (l : Bool) (d : Reg) (a : Reg) (b : Reg) (m : BitVec 3) : Fields.Statement (.vXor l d a b m) :=
  Fields.fits (n := 1677721610 + l.toNat * 33554432 + d.toNat * 1048576 + a.toNat * 32768 + b.toNat * 1024 + m.toNat * 128) rfl (by have := Bool.toNat_lt l; omega)
theorem Fields.vShl (l : Bool) (d : Reg) (a : Reg) (b : Reg) (m : BitVec 3) : Fields.Statement (.vShl l d a b m) :=
  Fields.fits (n := 1677721611 + l.toNat * 33554432 + d.toNat * 1048576 + a.toNat * 32768 + b.toNat * 1024 + m.toNat * 128) rfl (by have := Bool.toNat_lt l; omega)
theorem Fields.vShr (l : Bool) (d : Reg) (a : Reg) (b : Reg) (m : BitVec 3) : Fields.Statement (.vShr l d a b m) :=
  Fields.fits (n := 1677721612 + l.toNat * 33554432 + d.toNat * 1048576 + a.toNat * 32768 + b.toNat * 1024 + m.toNat * 128) rfl (by have := Bool.toNat_lt l; omega)
theorem Fields.vSra (l : Bool) (d : Reg) (a : Reg) (b : Reg) (m : BitVec 3) : Fields.Statement (.vSra l d a b m) :=
  Fields.fits (n := 1677721613 + l.toNat * 33554432 + d.toNat * 1048576 + a.toNat * 32768 + b.toNat * 1024 + m.toNat * 128) rfl (by have := Bool.toNat_lt l; omega)
theorem Fields.vRshr (l : Bool) (d : Reg) (a : Reg) (b : Reg) (m : BitVec 3) : Fields.Statement (.vRshr l d a b m) :=
  Fields.fits (n := 1677721614 + l.toNat * 33554432 + d.toNat * 1048576 + a.toNat * 32768 + b.toNat * 1024 + m.toNat * 128) rfl (by have := Bool.toNat_lt l; omega)
theorem Fields.vRshre (l : Bool) (d : Reg) (a : Reg) (b : Reg) (m : BitVec 3) : Fields.Statement (.vRshre l d a b m) :=
  Fields.fits (n := 1677721615 + l.toNat * 33554432 + d.toNat * 1048576 + a.toNat * 32768 + b.toNat * 1024 + m.toNat * 128) rfl (by have := Bool.toNat_lt l; omega)
theorem Fields.vMin (l : Bool) (d : Reg) (a : Reg) (b : Reg) (m : BitVec 3) : Fields.Statement (.vMin l d a b m) :=
  Fields.fits (n := 1677721616 + l.toNat * 33554432 + d.toNat * 1048576 + a.toNat * 32768 + b.toNat * 1024 + m.toNat * 128) rfl (by have := Bool.toNat_lt l; omega)
theorem Fields.vMax (l : Bool) (d : Reg) (a : Reg) (b : Reg) (m : BitVec 3) : Fields.Statement (.vMax l d a b m) :=
  Fields.fits (n := 1677721617 + l.toNat * 33554432 + d.toNat * 1048576 + a.toNat * 32768 + b.toNat * 1024 + m.toNat * 128) rfl (by have := Bool.toNat_lt l; omega)
theorem Fields.vMinz (l : Bool) (d : Reg) (a : Reg) (b : Reg) (m : BitVec 3) : Fields.Statement (.vMinz l d a b m) :=
  Fields.fits (n := 1677721618 + l.toNat * 33554432 + d.toNat * 1048576 + a.toNat * 32768 + b.toNat * 1024 + m.toNat * 128) rfl (by have := Bool.toNat_lt l; omega)
theorem Fields.vMaxz (l : Bool) (d : Reg) (a : Reg) (b : Reg) (m : BitVec 3) : Fields.Statement (.vMaxz l d a b m) :=
  Fields.fits (n := 1677721619 + l.toNat * 33554432 + d.toNat * 1048576 + a.toNat * 32768 + b.toNat * 1024 + m.toNat * 128) rfl (by have := Bool.toNat_lt l; omega)
theorem Fields.vAbs (l : Bool) (d : Reg) (a : Reg) (m : BitVec 3) : Fields.Statement (.vAbs l d a m) :=
  Fields.fits (n := 1677721620 + l.toNat * 33554432 + d.toNat * 1048576 + a.toNat * 32768 + m.toNat * 128) rfl (by have := Bool.toNat_lt l; omega)
theorem Fields.vAvg (l : Bool) (d : Reg) (a : Reg) (b : Reg) (m : BitVec 3) : Fields.Statement (.vAvg l d a b m) :=
  Fields.fits (n := 1677721621 + l.toNat * 33554432 + d.toNat * 1048576 + a.toNat * 32768 + b.toNat * 1024 + m.toNat * 128) rfl (by have := Bool.toNat_lt l; omega)
theorem Fields.vDiv (l : Bool) (d : Reg) (a : Reg) (b : Reg) (m : BitVec 3) : Fields.Statement (.vDiv l d a b m) :=
  Fields.fits (n := 1677721622 + l.toNat * 33554432 + d.toNat * 1048576 + a.toNat * 32768 + b.toNat * 1024 + m.toNat * 128) rfl (by have := Bool.toNat_lt l; omega)
theorem Fields.vDivz (l : Bool) (d : Reg) (a : Reg) (b : Reg) (m : BitVec 3) : Fields.Statement (.vDivz l d a b m) :=
  Fields.fits (n := 1677721623 + l.toNat * 33554432 + d.toNat * 1048576 + a.toNat * 32768 + b.toNat * 1024 + m.toNat * 128) rfl (by have := Bool.toNat_lt l; omega)
theorem Fields.vRem (l : Bool) (d : Reg) (a : Reg) (b : Reg) (m : BitVec 3) : Fields.Statement (.vRem l d a b m) :=
  Fields.fits (n := 1677721624 + l.toNat * 33554432 + d.toNat * 1048576 + a.toNat * 32768 + b.toNat * 1024 + m.toNat * 128) rfl (by have := Bool.toNat_lt l; omega)
theorem Fields.vRemz (l : Bool) (d : Reg) (a : Reg) (b : Reg) (m : BitVec 3) : Fields.Statement (.vRemz l d a b m) :=
  Fields.fits (n := 1677721625 + l.toNat * 33554432 + d.toNat * 1048576 + a.toNat * 32768 + b.toNat * 1024 + m.toNat * 128) rfl (by have := Bool.toNat_lt l; omega)
theorem Fields.vCmpeq (l : Bool) (d : Reg) (a : Reg) (b : Reg) (m : BitVec 3) : Fields.Statement (.vCmpeq l d a b m) :=
  Fields.fits (n := 1677721626 + l.toNat * 33554432 + d.toNat * 1048576 + a.toNat * 32768 + b.toNat * 1024 + m.toNat * 128) rfl (by have := Bool.toNat_lt l; omega)
theorem Fields.vCmpne (l : Bool) (d : Reg) (a : Reg) (b : Reg) (m : BitVec 3) : Fields.Statement (.vCmpne l d a b m) :=
  Fields.fits (n := 1677721627 + l.toNat * 33554432 + d.toNat * 1048576 + a.toNat * 32768 + b.toNat * 1024 + m.toNat * 128) rfl (by have := Bool.toNat_lt l; omega)
theorem Fields.vCmplt (l : Bool) (d : Reg) (a : Reg) (b : Reg) (m : BitVec 3) : Fields.Statement (.vCmplt l d a b m) :=
  Fields.fits (n := 1677721628 + l.toNat * 33554432 + d.toNat * 1048576 + a.toNat * 32768 + b.toNat * 1024 + m.toNat * 128) rfl (by have := Bool.toNat_lt l; omega)
theorem Fields.vCmple (l : Bool) (d : Reg) (a : Reg) (b : Reg) (m : BitVec 3) : Fields.Statement (.vCmple l d a b m) :=
  Fields.fits (n := 1677721629 + l.toNat * 33554432 + d.toNat * 1048576 + a.toNat * 32768 + b.toNat * 1024 + m.toNat * 128) rfl (by have := Bool.toNat_lt l; omega)
theorem Fields.vCmpltz (l : Bool) (d : Reg) (a : Reg) (b : Reg) (m : BitVec 3) : Fields.Statement (.vCmpltz l d a b m) :=
  Fields.fits (n := 1677721630 + l.toNat * 33554432 + d.toNat * 1048576 + a.toNat * 32768 + b.toNat * 1024 + m.toNat * 128) rfl (by have := Bool.toNat_lt l; omega)
theorem Fields.vCmplez (l : Bool) (d : Reg) (a : Reg) (b : Reg) (m : BitVec 3) : Fields.Statement (.vCmplez l d a b m) :=
  Fields.fits (n := 1677721631 + l.toNat * 33554432 + d.toNat * 1048576 + a.toNat * 32768 + b.toNat * 1024 + m.toNat * 128) rfl (by have := Bool.toNat_lt l; omega)
theorem Fields.vSel (l : Bool) (d : Reg) (a : Reg) (b : Reg) (m : BitVec 3) : Fields.Statement (.vSel l d a b m) :=
  Fields.fits (n := 1677721632 + l.toNat * 33554432 + d.toNat * 1048576 + a.toNat * 32768 + b.toNat * 1024 + m.toNat * 128) rfl (by have := Bool.toNat_lt l; omega)
theorem Fields.vMv (l : Bool) (d : Reg) (a : Reg) (m : BitVec 3) : Fields.Statement (.vMv l d a m) :=
  Fields.fits (n := 1677721633 + l.toNat * 33554432 + d.toNat * 1048576 + a.toNat * 32768 + m.toNat * 128) rfl (by have := Bool.toNat_lt l; omega)
theorem Fields.vClz (l : Bool) (d : Reg) (a : Reg) (m : BitVec 3) : Fields.Statement (.vClz l d a m) :=
  Fields.fits (n := 1677721634 + l.toNat * 33554432 + d.toNat * 1048576 + a.toNat * 32768 + m.toNat * 128) rfl (by have := Bool.toNat_lt l; omega)
theorem Fields.vPop (l : Bool) (d : Reg) (a : Reg) (m : BitVec 3) : Fields.Statement (.vPop l d a m) :=
  Fields.fits (n := 1677721635 + l.toNat * 33554432 + d.toNat * 1048576 + a.toNat * 32768 + m.toNat * 128) rfl (by have := Bool.toNat_lt l; omega)
theorem Fields.vsAdd (l : Bool) (d : Reg) (a : Reg) (b : Reg) (m : BitVec 3) : Fields.Statement (.vsAdd l d a b m) :=
  Fields.fits (n := 1744830464 + l.toNat * 33554432 + d.toNat * 1048576 + a.toNat * 32768 + b.toNat * 1024 + m.toNat * 128) rfl (by have := Bool.toNat_lt l; omega)
theorem Fields.vsSub (l : Bool) (d : Reg) (a : Reg) (b : Reg) (m : BitVec 3) : Fields.Statement (.vsSub l d a b m) :=
  Fields.fits (n := 1744830465 + l.toNat * 33554432 + d.toNat * 1048576 + a.toNat * 32768 + b.toNat * 1024 + m.toNat * 128) rfl (by have := Bool.toNat_lt l; omega)
theorem Fields.vsRsub (l : Bool) (d : Reg) (a : Reg) (b : Reg) (m : BitVec 3) : Fields.Statement (.vsRsub l d a b m) :=
  Fields.fits (n := 1744830466 + l.toNat * 33554432 + d.toNat * 1048576 + a.toNat * 32768 + b.toNat * 1024 + m.toNat * 128) rfl (by have := Bool.toNat_lt l; omega)
theorem Fields.vsMul (l : Bool) (d : Reg) (a : Reg) (b : Reg) (m : BitVec 3) : Fields.Statement (.vsMul l d a b m) :=
  Fields.fits (n := 1744830467 + l.toNat * 33554432 + d.toNat * 1048576 + a.toNat * 32768 + b.toNat * 1024 + m.toNat * 128) rfl (by have := Bool.toNat_lt l; omega)
theorem Fields.vsMulh (l : Bool) (d : Reg) (a : Reg) (b : Reg) (m : BitVec 3) : Fields.Statement (.vsMulh l d a b m) :=
  Fields.fits (n := 1744830468 + l.toNat * 33554432 + d.toNat * 1048576 + a.toNat * 32768 + b.toNat * 1024 + m.toNat * 128) rfl (by have := Bool.toNat_lt l; omega)
theorem Fields.vsMulhz (l : Bool) (d : Reg) (a : Reg) (b : Reg) (m : BitVec 3) : Fields.Statement (.vsMulhz l d a b m) :=
  Fields.fits (n := 1744830469 + l.toNat * 33554432 + d.toNat * 1048576 + a.toNat * 32768 + b.toNat * 1024 + m.toNat * 128) rfl (by have := Bool.toNat_lt l; omega)
theorem Fields.vsMac (l : Bool) (d : Reg) (a : Reg) (b : Reg) (m : BitVec 3) : Fields.Statement (.vsMac l d a b m) :=
  Fields.fits (n := 1744830470 + l.toNat * 33554432 + d.toNat * 1048576 + a.toNat * 32768 + b.toNat * 1024 + m.toNat * 128) rfl (by have := Bool.toNat_lt l; omega)
theorem Fields.vsNmac (l : Bool) (d : Reg) (a : Reg) (b : Reg) (m : BitVec 3) : Fields.Statement (.vsNmac l d a b m) :=
  Fields.fits (n := 1744830471 + l.toNat * 33554432 + d.toNat * 1048576 + a.toNat * 32768 + b.toNat * 1024 + m.toNat * 128) rfl (by have := Bool.toNat_lt l; omega)
theorem Fields.vsAnd (l : Bool) (d : Reg) (a : Reg) (b : Reg) (m : BitVec 3) : Fields.Statement (.vsAnd l d a b m) :=
  Fields.fits (n := 1744830472 + l.toNat * 33554432 + d.toNat * 1048576 + a.toNat * 32768 + b.toNat * 1024 + m.toNat * 128) rfl (by have := Bool.toNat_lt l; omega)
theorem Fields.vsOr (l : Bool) (d : Reg) (a : Reg) (b : Reg) (m : BitVec 3) : Fields.Statement (.vsOr l d a b m) :=
  Fields.fits (n := 1744830473 + l.toNat * 33554432 + d.toNat * 1048576 + a.toNat * 32768 + b.toNat * 1024 + m.toNat * 128) rfl (by have := Bool.toNat_lt l; omega)
theorem Fields.vsXor (l : Bool) (d : Reg) (a : Reg) (b : Reg) (m : BitVec 3) : Fields.Statement (.vsXor l d a b m) :=
  Fields.fits (n := 1744830474 + l.toNat * 33554432 + d.toNat * 1048576 + a.toNat * 32768 + b.toNat * 1024 + m.toNat * 128) rfl (by have := Bool.toNat_lt l; omega)
theorem Fields.vsShl (l : Bool) (d : Reg) (a : Reg) (b : Reg) (m : BitVec 3) : Fields.Statement (.vsShl l d a b m) :=
  Fields.fits (n := 1744830475 + l.toNat * 33554432 + d.toNat * 1048576 + a.toNat * 32768 + b.toNat * 1024 + m.toNat * 128) rfl (by have := Bool.toNat_lt l; omega)
theorem Fields.vsShr (l : Bool) (d : Reg) (a : Reg) (b : Reg) (m : BitVec 3) : Fields.Statement (.vsShr l d a b m) :=
  Fields.fits (n := 1744830476 + l.toNat * 33554432 + d.toNat * 1048576 + a.toNat * 32768 + b.toNat * 1024 + m.toNat * 128) rfl (by have := Bool.toNat_lt l; omega)
theorem Fields.vsSra (l : Bool) (d : Reg) (a : Reg) (b : Reg) (m : BitVec 3) : Fields.Statement (.vsSra l d a b m) :=
  Fields.fits (n := 1744830477 + l.toNat * 33554432 + d.toNat * 1048576 + a.toNat * 32768 + b.toNat * 1024 + m.toNat * 128) rfl (by have := Bool.toNat_lt l; omega)
theorem Fields.vsRshr (l : Bool) (d : Reg) (a : Reg) (b : Reg) (m : BitVec 3) : Fields.Statement (.vsRshr l d a b m) :=
  Fields.fits (n := 1744830478 + l.toNat * 33554432 + d.toNat * 1048576 + a.toNat * 32768 + b.toNat * 1024 + m.toNat * 128) rfl (by have := Bool.toNat_lt l; omega)
theorem Fields.vsRshre (l : Bool) (d : Reg) (a : Reg) (b : Reg) (m : BitVec 3) : Fields.Statement (.vsRshre l d a b m) :=
  Fields.fits (n := 1744830479 + l.toNat * 33554432 + d.toNat * 1048576 + a.toNat * 32768 + b.toNat * 1024 + m.toNat * 128) rfl (by have := Bool.toNat_lt l; omega)
theorem Fields.vsMin (l : Bool) (d : Reg) (a : Reg) (b : Reg) (m : BitVec 3) : Fields.Statement (.vsMin l d a b m) :=
  Fields.fits (n := 1744830480 + l.toNat * 33554432 + d.toNat * 1048576 + a.toNat * 32768 + b.toNat * 1024 + m.toNat * 128) rfl (by have := Bool.toNat_lt l; omega)
theorem Fields.vsMax (l : Bool) (d : Reg) (a : Reg) (b : Reg) (m : BitVec 3) : Fields.Statement (.vsMax l d a b m) :=
  Fields.fits (n := 1744830481 + l.toNat * 33554432 + d.toNat * 1048576 + a.toNat * 32768 + b.toNat * 1024 + m.toNat * 128) rfl (by have := Bool.toNat_lt l; omega)
theorem Fields.vsMinz (l : Bool) (d : Reg) (a : Reg) (b : Reg) (m : BitVec 3) : Fields.Statement (.vsMinz l d a b m) :=
  Fields.fits (n := 1744830482 + l.toNat * 33554432 + d.toNat * 1048576 + a.toNat * 32768 + b.toNat * 1024 + m.toNat * 128) rfl (by have := Bool.toNat_lt l; omega)
theorem Fields.vsMaxz (l : Bool) (d : Reg) (a : Reg) (b : Reg) (m : BitVec 3) : Fields.Statement (.vsMaxz l d a b m) :=
  Fields.fits (n := 1744830483 + l.toNat * 33554432 + d.toNat * 1048576 + a.toNat * 32768 + b.toNat * 1024 + m.toNat * 128) rfl (by have := Bool.toNat_lt l; omega)
theorem Fields.vsAvg (l : Bool) (d : Reg) (a : Reg) (b : Reg) (m : BitVec 3) : Fields.Statement (.vsAvg l d a b m) :=
  Fields.fits (n := 1744830485 + l.toNat * 33554432 + d.toNat * 1048576 + a.toNat * 32768 + b.toNat * 1024 + m.toNat * 128) rfl (by have := Bool.toNat_lt l; omega)
theorem Fields.vsDiv (l : Bool) (d : Reg) (a : Reg) (b : Reg) (m : BitVec 3) : Fields.Statement (.vsDiv l d a b m) :=
  Fields.fits (n := 1744830486 + l.toNat * 33554432 + d.toNat * 1048576 + a.toNat * 32768 + b.toNat * 1024 + m.toNat * 128) rfl (by have := Bool.toNat_lt l; omega)
theorem Fields.vsDivz (l : Bool) (d : Reg) (a : Reg) (b : Reg) (m : BitVec 3) : Fields.Statement (.vsDivz l d a b m) :=
  Fields.fits (n := 1744830487 + l.toNat * 33554432 + d.toNat * 1048576 + a.toNat * 32768 + b.toNat * 1024 + m.toNat * 128) rfl (by have := Bool.toNat_lt l; omega)
theorem Fields.vsRem (l : Bool) (d : Reg) (a : Reg) (b : Reg) (m : BitVec 3) : Fields.Statement (.vsRem l d a b m) :=
  Fields.fits (n := 1744830488 + l.toNat * 33554432 + d.toNat * 1048576 + a.toNat * 32768 + b.toNat * 1024 + m.toNat * 128) rfl (by have := Bool.toNat_lt l; omega)
theorem Fields.vsRemz (l : Bool) (d : Reg) (a : Reg) (b : Reg) (m : BitVec 3) : Fields.Statement (.vsRemz l d a b m) :=
  Fields.fits (n := 1744830489 + l.toNat * 33554432 + d.toNat * 1048576 + a.toNat * 32768 + b.toNat * 1024 + m.toNat * 128) rfl (by have := Bool.toNat_lt l; omega)
theorem Fields.vsCmpeq (l : Bool) (d : Reg) (a : Reg) (b : Reg) (m : BitVec 3) : Fields.Statement (.vsCmpeq l d a b m) :=
  Fields.fits (n := 1744830490 + l.toNat * 33554432 + d.toNat * 1048576 + a.toNat * 32768 + b.toNat * 1024 + m.toNat * 128) rfl (by have := Bool.toNat_lt l; omega)
theorem Fields.vsCmpne (l : Bool) (d : Reg) (a : Reg) (b : Reg) (m : BitVec 3) : Fields.Statement (.vsCmpne l d a b m) :=
  Fields.fits (n := 1744830491 + l.toNat * 33554432 + d.toNat * 1048576 + a.toNat * 32768 + b.toNat * 1024 + m.toNat * 128) rfl (by have := Bool.toNat_lt l; omega)
theorem Fields.vsCmplt (l : Bool) (d : Reg) (a : Reg) (b : Reg) (m : BitVec 3) : Fields.Statement (.vsCmplt l d a b m) :=
  Fields.fits (n := 1744830492 + l.toNat * 33554432 + d.toNat * 1048576 + a.toNat * 32768 + b.toNat * 1024 + m.toNat * 128) rfl (by have := Bool.toNat_lt l; omega)
theorem Fields.vsCmple (l : Bool) (d : Reg) (a : Reg) (b : Reg) (m : BitVec 3) : Fields.Statement (.vsCmple l d a b m) :=
  Fields.fits (n := 1744830493 + l.toNat * 33554432 + d.toNat * 1048576 + a.toNat * 32768 + b.toNat * 1024 + m.toNat * 128) rfl (by have := Bool.toNat_lt l; omega)
theorem Fields.vsCmpltz (l : Bool) (d : Reg) (a : Reg) (b : Reg) (m : BitVec 3) : Fields.Statement (.vsCmpltz l d a b m) :=
  Fields.fits (n := 1744830494 + l.toNat * 33554432 + d.toNat * 1048576 + a.toNat * 32768 + b.toNat * 1024 + m.toNat * 128) rfl (by have := Bool.toNat_lt l; omega)
theorem Fields.vsCmplez (l : Bool) (d : Reg) (a : Reg) (b : Reg) (m : BitVec 3) : Fields.Statement (.vsCmplez l d a b m) :=
  Fields.fits (n := 1744830495 + l.toNat * 33554432 + d.toNat * 1048576 + a.toNat * 32768 + b.toNat * 1024 + m.toNat * 128) rfl (by have := Bool.toNat_lt l; omega)
theorem Fields.vsSel (l : Bool) (d : Reg) (a : Reg) (b : Reg) (m : BitVec 3) : Fields.Statement (.vsSel l d a b m) :=
  Fields.fits (n := 1744830496 + l.toNat * 33554432 + d.toNat * 1048576 + a.toNat * 32768 + b.toNat * 1024 + m.toNat * 128) rfl (by have := Bool.toNat_lt l; omega)
theorem Fields.vsMv (l : Bool) (d : Reg) (b : Reg) (m : BitVec 3) : Fields.Statement (.vsMv l d b m) :=
  Fields.fits (n := 1744830497 + l.toNat * 33554432 + d.toNat * 1048576 + b.toNat * 1024 + m.toNat * 128) rfl (by have := Bool.toNat_lt l; omega)
theorem Fields.viAdd (l : Bool) (d : Reg) (a : Reg) (i : Reg) (m : BitVec 3) : Fields.Statement (.viAdd l d a i m) :=
  Fields.fits (n := 1811939328 + l.toNat * 33554432 + d.toNat * 1048576 + a.toNat * 32768 + i.toNat * 1024 + m.toNat * 128) rfl (by have := Bool.toNat_lt l; omega)
theorem Fields.viSub (l : Bool) (d : Reg) (a : Reg) (i : Reg) (m : BitVec 3) : Fields.Statement (.viSub l d a i m) :=
  Fields.fits (n := 1811939329 + l.toNat * 33554432 + d.toNat * 1048576 + a.toNat * 32768 + i.toNat * 1024 + m.toNat * 128) rfl (by have := Bool.toNat_lt l; omega)
theorem Fields.viRsub (l : Bool) (d : Reg) (a : Reg) (i : Reg) (m : BitVec 3) : Fields.Statement (.viRsub l d a i m) :=
  Fields.fits (n := 1811939330 + l.toNat * 33554432 + d.toNat * 1048576 + a.toNat * 32768 + i.toNat * 1024 + m.toNat * 128) rfl (by have := Bool.toNat_lt l; omega)
theorem Fields.viMul (l : Bool) (d : Reg) (a : Reg) (i : Reg) (m : BitVec 3) : Fields.Statement (.viMul l d a i m) :=
  Fields.fits (n := 1811939331 + l.toNat * 33554432 + d.toNat * 1048576 + a.toNat * 32768 + i.toNat * 1024 + m.toNat * 128) rfl (by have := Bool.toNat_lt l; omega)
theorem Fields.viMulh (l : Bool) (d : Reg) (a : Reg) (i : Reg) (m : BitVec 3) : Fields.Statement (.viMulh l d a i m) :=
  Fields.fits (n := 1811939332 + l.toNat * 33554432 + d.toNat * 1048576 + a.toNat * 32768 + i.toNat * 1024 + m.toNat * 128) rfl (by have := Bool.toNat_lt l; omega)
theorem Fields.viMulhz (l : Bool) (d : Reg) (a : Reg) (i : Reg) (m : BitVec 3) : Fields.Statement (.viMulhz l d a i m) :=
  Fields.fits (n := 1811939333 + l.toNat * 33554432 + d.toNat * 1048576 + a.toNat * 32768 + i.toNat * 1024 + m.toNat * 128) rfl (by have := Bool.toNat_lt l; omega)
theorem Fields.viMac (l : Bool) (d : Reg) (a : Reg) (i : Reg) (m : BitVec 3) : Fields.Statement (.viMac l d a i m) :=
  Fields.fits (n := 1811939334 + l.toNat * 33554432 + d.toNat * 1048576 + a.toNat * 32768 + i.toNat * 1024 + m.toNat * 128) rfl (by have := Bool.toNat_lt l; omega)
theorem Fields.viNmac (l : Bool) (d : Reg) (a : Reg) (i : Reg) (m : BitVec 3) : Fields.Statement (.viNmac l d a i m) :=
  Fields.fits (n := 1811939335 + l.toNat * 33554432 + d.toNat * 1048576 + a.toNat * 32768 + i.toNat * 1024 + m.toNat * 128) rfl (by have := Bool.toNat_lt l; omega)
theorem Fields.viAnd (l : Bool) (d : Reg) (a : Reg) (i : Reg) (m : BitVec 3) : Fields.Statement (.viAnd l d a i m) :=
  Fields.fits (n := 1811939336 + l.toNat * 33554432 + d.toNat * 1048576 + a.toNat * 32768 + i.toNat * 1024 + m.toNat * 128) rfl (by have := Bool.toNat_lt l; omega)
theorem Fields.viOr (l : Bool) (d : Reg) (a : Reg) (i : Reg) (m : BitVec 3) : Fields.Statement (.viOr l d a i m) :=
  Fields.fits (n := 1811939337 + l.toNat * 33554432 + d.toNat * 1048576 + a.toNat * 32768 + i.toNat * 1024 + m.toNat * 128) rfl (by have := Bool.toNat_lt l; omega)
theorem Fields.viXor (l : Bool) (d : Reg) (a : Reg) (i : Reg) (m : BitVec 3) : Fields.Statement (.viXor l d a i m) :=
  Fields.fits (n := 1811939338 + l.toNat * 33554432 + d.toNat * 1048576 + a.toNat * 32768 + i.toNat * 1024 + m.toNat * 128) rfl (by have := Bool.toNat_lt l; omega)
theorem Fields.viShl (l : Bool) (d : Reg) (a : Reg) (i : Reg) (m : BitVec 3) : Fields.Statement (.viShl l d a i m) :=
  Fields.fits (n := 1811939339 + l.toNat * 33554432 + d.toNat * 1048576 + a.toNat * 32768 + i.toNat * 1024 + m.toNat * 128) rfl (by have := Bool.toNat_lt l; omega)
theorem Fields.viShr (l : Bool) (d : Reg) (a : Reg) (i : Reg) (m : BitVec 3) : Fields.Statement (.viShr l d a i m) :=
  Fields.fits (n := 1811939340 + l.toNat * 33554432 + d.toNat * 1048576 + a.toNat * 32768 + i.toNat * 1024 + m.toNat * 128) rfl (by have := Bool.toNat_lt l; omega)
theorem Fields.viSra (l : Bool) (d : Reg) (a : Reg) (i : Reg) (m : BitVec 3) : Fields.Statement (.viSra l d a i m) :=
  Fields.fits (n := 1811939341 + l.toNat * 33554432 + d.toNat * 1048576 + a.toNat * 32768 + i.toNat * 1024 + m.toNat * 128) rfl (by have := Bool.toNat_lt l; omega)
theorem Fields.viRshr (l : Bool) (d : Reg) (a : Reg) (i : Reg) (m : BitVec 3) : Fields.Statement (.viRshr l d a i m) :=
  Fields.fits (n := 1811939342 + l.toNat * 33554432 + d.toNat * 1048576 + a.toNat * 32768 + i.toNat * 1024 + m.toNat * 128) rfl (by have := Bool.toNat_lt l; omega)
theorem Fields.viRshre (l : Bool) (d : Reg) (a : Reg) (i : Reg) (m : BitVec 3) : Fields.Statement (.viRshre l d a i m) :=
  Fields.fits (n := 1811939343 + l.toNat * 33554432 + d.toNat * 1048576 + a.toNat * 32768 + i.toNat * 1024 + m.toNat * 128) rfl (by have := Bool.toNat_lt l; omega)
theorem Fields.viMin (l : Bool) (d : Reg) (a : Reg) (i : Reg) (m : BitVec 3) : Fields.Statement (.viMin l d a i m) :=
  Fields.fits (n := 1811939344 + l.toNat * 33554432 + d.toNat * 1048576 + a.toNat * 32768 + i.toNat * 1024 + m.toNat * 128) rfl (by have := Bool.toNat_lt l; omega)
theorem Fields.viMax (l : Bool) (d : Reg) (a : Reg) (i : Reg) (m : BitVec 3) : Fields.Statement (.viMax l d a i m) :=
  Fields.fits (n := 1811939345 + l.toNat * 33554432 + d.toNat * 1048576 + a.toNat * 32768 + i.toNat * 1024 + m.toNat * 128) rfl (by have := Bool.toNat_lt l; omega)
theorem Fields.viMinz (l : Bool) (d : Reg) (a : Reg) (i : Reg) (m : BitVec 3) : Fields.Statement (.viMinz l d a i m) :=
  Fields.fits (n := 1811939346 + l.toNat * 33554432 + d.toNat * 1048576 + a.toNat * 32768 + i.toNat * 1024 + m.toNat * 128) rfl (by have := Bool.toNat_lt l; omega)
theorem Fields.viMaxz (l : Bool) (d : Reg) (a : Reg) (i : Reg) (m : BitVec 3) : Fields.Statement (.viMaxz l d a i m) :=
  Fields.fits (n := 1811939347 + l.toNat * 33554432 + d.toNat * 1048576 + a.toNat * 32768 + i.toNat * 1024 + m.toNat * 128) rfl (by have := Bool.toNat_lt l; omega)
theorem Fields.viAvg (l : Bool) (d : Reg) (a : Reg) (i : Reg) (m : BitVec 3) : Fields.Statement (.viAvg l d a i m) :=
  Fields.fits (n := 1811939349 + l.toNat * 33554432 + d.toNat * 1048576 + a.toNat * 32768 + i.toNat * 1024 + m.toNat * 128) rfl (by have := Bool.toNat_lt l; omega)
theorem Fields.viDiv (l : Bool) (d : Reg) (a : Reg) (i : Reg) (m : BitVec 3) : Fields.Statement (.viDiv l d a i m) :=
  Fields.fits (n := 1811939350 + l.toNat * 33554432 + d.toNat * 1048576 + a.toNat * 32768 + i.toNat * 1024 + m.toNat * 128) rfl (by have := Bool.toNat_lt l; omega)
theorem Fields.viDivz (l : Bool) (d : Reg) (a : Reg) (i : Reg) (m : BitVec 3) : Fields.Statement (.viDivz l d a i m) :=
  Fields.fits (n := 1811939351 + l.toNat * 33554432 + d.toNat * 1048576 + a.toNat * 32768 + i.toNat * 1024 + m.toNat * 128) rfl (by have := Bool.toNat_lt l; omega)
theorem Fields.viRem (l : Bool) (d : Reg) (a : Reg) (i : Reg) (m : BitVec 3) : Fields.Statement (.viRem l d a i m) :=
  Fields.fits (n := 1811939352 + l.toNat * 33554432 + d.toNat * 1048576 + a.toNat * 32768 + i.toNat * 1024 + m.toNat * 128) rfl (by have := Bool.toNat_lt l; omega)
theorem Fields.viRemz (l : Bool) (d : Reg) (a : Reg) (i : Reg) (m : BitVec 3) : Fields.Statement (.viRemz l d a i m) :=
  Fields.fits (n := 1811939353 + l.toNat * 33554432 + d.toNat * 1048576 + a.toNat * 32768 + i.toNat * 1024 + m.toNat * 128) rfl (by have := Bool.toNat_lt l; omega)
theorem Fields.viCmpeq (l : Bool) (d : Reg) (a : Reg) (i : Reg) (m : BitVec 3) : Fields.Statement (.viCmpeq l d a i m) :=
  Fields.fits (n := 1811939354 + l.toNat * 33554432 + d.toNat * 1048576 + a.toNat * 32768 + i.toNat * 1024 + m.toNat * 128) rfl (by have := Bool.toNat_lt l; omega)
theorem Fields.viCmpne (l : Bool) (d : Reg) (a : Reg) (i : Reg) (m : BitVec 3) : Fields.Statement (.viCmpne l d a i m) :=
  Fields.fits (n := 1811939355 + l.toNat * 33554432 + d.toNat * 1048576 + a.toNat * 32768 + i.toNat * 1024 + m.toNat * 128) rfl (by have := Bool.toNat_lt l; omega)
theorem Fields.viCmplt (l : Bool) (d : Reg) (a : Reg) (i : Reg) (m : BitVec 3) : Fields.Statement (.viCmplt l d a i m) :=
  Fields.fits (n := 1811939356 + l.toNat * 33554432 + d.toNat * 1048576 + a.toNat * 32768 + i.toNat * 1024 + m.toNat * 128) rfl (by have := Bool.toNat_lt l; omega)
theorem Fields.viCmple (l : Bool) (d : Reg) (a : Reg) (i : Reg) (m : BitVec 3) : Fields.Statement (.viCmple l d a i m) :=
  Fields.fits (n := 1811939357 + l.toNat * 33554432 + d.toNat * 1048576 + a.toNat * 32768 + i.toNat * 1024 + m.toNat * 128) rfl (by have := Bool.toNat_lt l; omega)
theorem Fields.viCmpltz (l : Bool) (d : Reg) (a : Reg) (i : Reg) (m : BitVec 3) : Fields.Statement (.viCmpltz l d a i m) :=
  Fields.fits (n := 1811939358 + l.toNat * 33554432 + d.toNat * 1048576 + a.toNat * 32768 + i.toNat * 1024 + m.toNat * 128) rfl (by have := Bool.toNat_lt l; omega)
theorem Fields.viCmplez (l : Bool) (d : Reg) (a : Reg) (i : Reg) (m : BitVec 3) : Fields.Statement (.viCmplez l d a i m) :=
  Fields.fits (n := 1811939359 + l.toNat * 33554432 + d.toNat * 1048576 + a.toNat * 32768 + i.toNat * 1024 + m.toNat * 128) rfl (by have := Bool.toNat_lt l; omega)
theorem Fields.viSel (l : Bool) (d : Reg) (a : Reg) (i : Reg) (m : BitVec 3) : Fields.Statement (.viSel l d a i m) :=
  Fields.fits (n := 1811939360 + l.toNat * 33554432 + d.toNat * 1048576 + a.toNat * 32768 + i.toNat * 1024 + m.toNat * 128) rfl (by have := Bool.toNat_lt l; omega)
theorem Fields.viMv (l : Bool) (d : Reg) (i : Reg) (m : BitVec 3) : Fields.Statement (.viMv l d i m) :=
  Fields.fits (n := 1811939361 + l.toNat * 33554432 + d.toNat * 1048576 + i.toNat * 1024 + m.toNat * 128) rfl (by have := Bool.toNat_lt l; omega)
theorem Fields.vfAdd (l : Bool) (d : Reg) (a : Reg) (b : Reg) (m : BitVec 3) : Fields.Statement (.vfAdd l d a b m) :=
  Fields.fits (n := 1879048192 + l.toNat * 33554432 + d.toNat * 1048576 + a.toNat * 32768 + b.toNat * 1024 + m.toNat * 128) rfl (by have := Bool.toNat_lt l; omega)
theorem Fields.vfSub (l : Bool) (d : Reg) (a : Reg) (b : Reg) (m : BitVec 3) : Fields.Statement (.vfSub l d a b m) :=
  Fields.fits (n := 1879048193 + l.toNat * 33554432 + d.toNat * 1048576 + a.toNat * 32768 + b.toNat * 1024 + m.toNat * 128) rfl (by have := Bool.toNat_lt l; omega)
theorem Fields.vfMul (l : Bool) (d : Reg) (a : Reg) (b : Reg) (m : BitVec 3) : Fields.Statement (.vfMul l d a b m) :=
  Fields.fits (n := 1879048194 + l.toNat * 33554432 + d.toNat * 1048576 + a.toNat * 32768 + b.toNat * 1024 + m.toNat * 128) rfl (by have := Bool.toNat_lt l; omega)
theorem Fields.vfDiv (l : Bool) (d : Reg) (a : Reg) (b : Reg) (m : BitVec 3) : Fields.Statement (.vfDiv l d a b m) :=
  Fields.fits (n := 1879048195 + l.toNat * 33554432 + d.toNat * 1048576 + a.toNat * 32768 + b.toNat * 1024 + m.toNat * 128) rfl (by have := Bool.toNat_lt l; omega)
theorem Fields.vfFma (l : Bool) (d : Reg) (a : Reg) (b : Reg) (m : BitVec 3) : Fields.Statement (.vfFma l d a b m) :=
  Fields.fits (n := 1879048196 + l.toNat * 33554432 + d.toNat * 1048576 + a.toNat * 32768 + b.toNat * 1024 + m.toNat * 128) rfl (by have := Bool.toNat_lt l; omega)
theorem Fields.vfFms (l : Bool) (d : Reg) (a : Reg) (b : Reg) (m : BitVec 3) : Fields.Statement (.vfFms l d a b m) :=
  Fields.fits (n := 1879048197 + l.toNat * 33554432 + d.toNat * 1048576 + a.toNat * 32768 + b.toNat * 1024 + m.toNat * 128) rfl (by have := Bool.toNat_lt l; omega)
theorem Fields.vfFnma (l : Bool) (d : Reg) (a : Reg) (b : Reg) (m : BitVec 3) : Fields.Statement (.vfFnma l d a b m) :=
  Fields.fits (n := 1879048198 + l.toNat * 33554432 + d.toNat * 1048576 + a.toNat * 32768 + b.toNat * 1024 + m.toNat * 128) rfl (by have := Bool.toNat_lt l; omega)
theorem Fields.vfMin (l : Bool) (d : Reg) (a : Reg) (b : Reg) (m : BitVec 3) : Fields.Statement (.vfMin l d a b m) :=
  Fields.fits (n := 1879048199 + l.toNat * 33554432 + d.toNat * 1048576 + a.toNat * 32768 + b.toNat * 1024 + m.toNat * 128) rfl (by have := Bool.toNat_lt l; omega)
theorem Fields.vfMax (l : Bool) (d : Reg) (a : Reg) (b : Reg) (m : BitVec 3) : Fields.Statement (.vfMax l d a b m) :=
  Fields.fits (n := 1879048200 + l.toNat * 33554432 + d.toNat * 1048576 + a.toNat * 32768 + b.toNat * 1024 + m.toNat * 128) rfl (by have := Bool.toNat_lt l; omega)
theorem Fields.vfAbs (l : Bool) (d : Reg) (a : Reg) (m : BitVec 3) : Fields.Statement (.vfAbs l d a m) :=
  Fields.fits (n := 1879048201 + l.toNat * 33554432 + d.toNat * 1048576 + a.toNat * 32768 + m.toNat * 128) rfl (by have := Bool.toNat_lt l; omega)
theorem Fields.vfNeg (l : Bool) (d : Reg) (a : Reg) (m : BitVec 3) : Fields.Statement (.vfNeg l d a m) :=
  Fields.fits (n := 1879048202 + l.toNat * 33554432 + d.toNat * 1048576 + a.toNat * 32768 + m.toNat * 128) rfl (by have := Bool.toNat_lt l; omega)
theorem Fields.vfSqrt (l : Bool) (d : Reg) (a : Reg) (m : BitVec 3) : Fields.Statement (.vfSqrt l d a m) :=
  Fields.fits (n := 1879048203 + l.toNat * 33554432 + d.toNat * 1048576 + a.toNat * 32768 + m.toNat * 128) rfl (by have := Bool.toNat_lt l; omega)
theorem Fields.vfRcpe (l : Bool) (d : Reg) (a : Reg) (m : BitVec 3) : Fields.Statement (.vfRcpe l d a m) :=
  Fields.fits (n := 1879048204 + l.toNat * 33554432 + d.toNat * 1048576 + a.toNat * 32768 + m.toNat * 128) rfl (by have := Bool.toNat_lt l; omega)
theorem Fields.vfRsqe (l : Bool) (d : Reg) (a : Reg) (m : BitVec 3) : Fields.Statement (.vfRsqe l d a m) :=
  Fields.fits (n := 1879048205 + l.toNat * 33554432 + d.toNat * 1048576 + a.toNat * 32768 + m.toNat * 128) rfl (by have := Bool.toNat_lt l; omega)
theorem Fields.vfExp2 (l : Bool) (d : Reg) (a : Reg) (m : BitVec 3) : Fields.Statement (.vfExp2 l d a m) :=
  Fields.fits (n := 1879048206 + l.toNat * 33554432 + d.toNat * 1048576 + a.toNat * 32768 + m.toNat * 128) rfl (by have := Bool.toNat_lt l; omega)
theorem Fields.vfCmpeq (l : Bool) (d : Reg) (a : Reg) (b : Reg) (m : BitVec 3) : Fields.Statement (.vfCmpeq l d a b m) :=
  Fields.fits (n := 1879048207 + l.toNat * 33554432 + d.toNat * 1048576 + a.toNat * 32768 + b.toNat * 1024 + m.toNat * 128) rfl (by have := Bool.toNat_lt l; omega)
theorem Fields.vfCmplt (l : Bool) (d : Reg) (a : Reg) (b : Reg) (m : BitVec 3) : Fields.Statement (.vfCmplt l d a b m) :=
  Fields.fits (n := 1879048208 + l.toNat * 33554432 + d.toNat * 1048576 + a.toNat * 32768 + b.toNat * 1024 + m.toNat * 128) rfl (by have := Bool.toNat_lt l; omega)
theorem Fields.vfCmple (l : Bool) (d : Reg) (a : Reg) (b : Reg) (m : BitVec 3) : Fields.Statement (.vfCmple l d a b m) :=
  Fields.fits (n := 1879048209 + l.toNat * 33554432 + d.toNat * 1048576 + a.toNat * 32768 + b.toNat * 1024 + m.toNat * 128) rfl (by have := Bool.toNat_lt l; omega)
theorem Fields.vfClass (l : Bool) (d : Reg) (a : Reg) (m : BitVec 3) : Fields.Statement (.vfClass l d a m) :=
  Fields.fits (n := 1879048210 + l.toNat * 33554432 + d.toNat * 1048576 + a.toNat * 32768 + m.toNat * 128) rfl (by have := Bool.toNat_lt l; omega)
theorem Fields.vfSgnj (l : Bool) (d : Reg) (a : Reg) (b : Reg) (m : BitVec 3) : Fields.Statement (.vfSgnj l d a b m) :=
  Fields.fits (n := 1879048211 + l.toNat * 33554432 + d.toNat * 1048576 + a.toNat * 32768 + b.toNat * 1024 + m.toNat * 128) rfl (by have := Bool.toNat_lt l; omega)
theorem Fields.vfMaxm (l : Bool) (d : Reg) (a : Reg) (b : Reg) (m : BitVec 3) : Fields.Statement (.vfMaxm l d a b m) :=
  Fields.fits (n := 1879048212 + l.toNat * 33554432 + d.toNat * 1048576 + a.toNat * 32768 + b.toNat * 1024 + m.toNat * 128) rfl (by have := Bool.toNat_lt l; omega)
theorem Fields.vfsAdd (l : Bool) (d : Reg) (a : Reg) (b : Reg) (m : BitVec 3) : Fields.Statement (.vfsAdd l d a b m) :=
  Fields.fits (n := 1946157056 + l.toNat * 33554432 + d.toNat * 1048576 + a.toNat * 32768 + b.toNat * 1024 + m.toNat * 128) rfl (by have := Bool.toNat_lt l; omega)
theorem Fields.vfsSub (l : Bool) (d : Reg) (a : Reg) (b : Reg) (m : BitVec 3) : Fields.Statement (.vfsSub l d a b m) :=
  Fields.fits (n := 1946157057 + l.toNat * 33554432 + d.toNat * 1048576 + a.toNat * 32768 + b.toNat * 1024 + m.toNat * 128) rfl (by have := Bool.toNat_lt l; omega)
theorem Fields.vfsMul (l : Bool) (d : Reg) (a : Reg) (b : Reg) (m : BitVec 3) : Fields.Statement (.vfsMul l d a b m) :=
  Fields.fits (n := 1946157058 + l.toNat * 33554432 + d.toNat * 1048576 + a.toNat * 32768 + b.toNat * 1024 + m.toNat * 128) rfl (by have := Bool.toNat_lt l; omega)
theorem Fields.vfsDiv (l : Bool) (d : Reg) (a : Reg) (b : Reg) (m : BitVec 3) : Fields.Statement (.vfsDiv l d a b m) :=
  Fields.fits (n := 1946157059 + l.toNat * 33554432 + d.toNat * 1048576 + a.toNat * 32768 + b.toNat * 1024 + m.toNat * 128) rfl (by have := Bool.toNat_lt l; omega)
theorem Fields.vfsFma (l : Bool) (d : Reg) (a : Reg) (b : Reg) (m : BitVec 3) : Fields.Statement (.vfsFma l d a b m) :=
  Fields.fits (n := 1946157060 + l.toNat * 33554432 + d.toNat * 1048576 + a.toNat * 32768 + b.toNat * 1024 + m.toNat * 128) rfl (by have := Bool.toNat_lt l; omega)
theorem Fields.vfsFms (l : Bool) (d : Reg) (a : Reg) (b : Reg) (m : BitVec 3) : Fields.Statement (.vfsFms l d a b m) :=
  Fields.fits (n := 1946157061 + l.toNat * 33554432 + d.toNat * 1048576 + a.toNat * 32768 + b.toNat * 1024 + m.toNat * 128) rfl (by have := Bool.toNat_lt l; omega)
theorem Fields.vfsFnma (l : Bool) (d : Reg) (a : Reg) (b : Reg) (m : BitVec 3) : Fields.Statement (.vfsFnma l d a b m) :=
  Fields.fits (n := 1946157062 + l.toNat * 33554432 + d.toNat * 1048576 + a.toNat * 32768 + b.toNat * 1024 + m.toNat * 128) rfl (by have := Bool.toNat_lt l; omega)
theorem Fields.vfsMin (l : Bool) (d : Reg) (a : Reg) (b : Reg) (m : BitVec 3) : Fields.Statement (.vfsMin l d a b m) :=
  Fields.fits (n := 1946157063 + l.toNat * 33554432 + d.toNat * 1048576 + a.toNat * 32768 + b.toNat * 1024 + m.toNat * 128) rfl (by have := Bool.toNat_lt l; omega)
theorem Fields.vfsMax (l : Bool) (d : Reg) (a : Reg) (b : Reg) (m : BitVec 3) : Fields.Statement (.vfsMax l d a b m) :=
  Fields.fits (n := 1946157064 + l.toNat * 33554432 + d.toNat * 1048576 + a.toNat * 32768 + b.toNat * 1024 + m.toNat * 128) rfl (by have := Bool.toNat_lt l; omega)
theorem Fields.vfsCmpeq (l : Bool) (d : Reg) (a : Reg) (b : Reg) (m : BitVec 3) : Fields.Statement (.vfsCmpeq l d a b m) :=
  Fields.fits (n := 1946157071 + l.toNat * 33554432 + d.toNat * 1048576 + a.toNat * 32768 + b.toNat * 1024 + m.toNat * 128) rfl (by have := Bool.toNat_lt l; omega)
theorem Fields.vfsCmplt (l : Bool) (d : Reg) (a : Reg) (b : Reg) (m : BitVec 3) : Fields.Statement (.vfsCmplt l d a b m) :=
  Fields.fits (n := 1946157072 + l.toNat * 33554432 + d.toNat * 1048576 + a.toNat * 32768 + b.toNat * 1024 + m.toNat * 128) rfl (by have := Bool.toNat_lt l; omega)
theorem Fields.vfsCmple (l : Bool) (d : Reg) (a : Reg) (b : Reg) (m : BitVec 3) : Fields.Statement (.vfsCmple l d a b m) :=
  Fields.fits (n := 1946157073 + l.toNat * 33554432 + d.toNat * 1048576 + a.toNat * 32768 + b.toNat * 1024 + m.toNat * 128) rfl (by have := Bool.toNat_lt l; omega)
theorem Fields.vfsSgnj (l : Bool) (d : Reg) (a : Reg) (b : Reg) (m : BitVec 3) : Fields.Statement (.vfsSgnj l d a b m) :=
  Fields.fits (n := 1946157075 + l.toNat * 33554432 + d.toNat * 1048576 + a.toNat * 32768 + b.toNat * 1024 + m.toNat * 128) rfl (by have := Bool.toNat_lt l; omega)
theorem Fields.vfsMaxm (l : Bool) (d : Reg) (a : Reg) (b : Reg) (m : BitVec 3) : Fields.Statement (.vfsMaxm l d a b m) :=
  Fields.fits (n := 1946157076 + l.toNat * 33554432 + d.toNat * 1048576 + a.toNat * 32768 + b.toNat * 1024 + m.toNat * 128) rfl (by have := Bool.toNat_lt l; omega)
theorem Fields.vcvCvt (l : Bool) (d : Reg) (a : Reg) (m : BitVec 3) : Fields.Statement (.vcvCvt l d a m) :=
  Fields.fits (n := 2013265920 + l.toNat * 33554432 + d.toNat * 1048576 + a.toNat * 32768 + m.toNat * 128) rfl (by have := Bool.toNat_lt l; omega)
theorem Fields.vcvCvts (l : Bool) (d : Reg) (a : Reg) (m : BitVec 3) : Fields.Statement (.vcvCvts l d a m) :=
  Fields.fits (n := 2013265921 + l.toNat * 33554432 + d.toNat * 1048576 + a.toNat * 32768 + m.toNat * 128) rfl (by have := Bool.toNat_lt l; omega)
theorem Fields.vcvQnt (l : Bool) (d : Reg) (a : Reg) (b : Reg) (m : BitVec 3) : Fields.Statement (.vcvQnt l d a b m) :=
  Fields.fits (n := 2013265922 + l.toNat * 33554432 + d.toNat * 1048576 + a.toNat * 32768 + b.toNat * 1024 + m.toNat * 128) rfl (by have := Bool.toNat_lt l; omega)
theorem Fields.vcvHad (l : Bool) (d : Reg) (a : Reg) (i : Reg) (m : BitVec 3) : Fields.Statement (.vcvHad l d a i m) :=
  Fields.fits (n := 2013265923 + l.toNat * 33554432 + d.toNat * 1048576 + a.toNat * 32768 + i.toNat * 1024 + m.toNat * 128) rfl (by have := Bool.toNat_lt l; omega)
theorem Fields.vcvHash (l : Bool) (d : Reg) (a : Reg) (b : Reg) (m : BitVec 3) : Fields.Statement (.vcvHash l d a b m) :=
  Fields.fits (n := 2013265924 + l.toNat * 33554432 + d.toNat * 1048576 + a.toNat * 32768 + b.toNat * 1024 + m.toNat * 128) rfl (by have := Bool.toNat_lt l; omega)
theorem Fields.vcvIota (l : Bool) (d : Reg) (b : Reg) (m : BitVec 3) : Fields.Statement (.vcvIota l d b m) :=
  Fields.fits (n := 2013265925 + l.toNat * 33554432 + d.toNat * 1048576 + b.toNat * 1024 + m.toNat * 128) rfl (by have := Bool.toNat_lt l; omega)
theorem Fields.vpSlup (l : Bool) (d : Reg) (a : Reg) (b : Reg) (m : BitVec 3) : Fields.Statement (.vpSlup l d a b m) :=
  Fields.fits (n := 2080374784 + l.toNat * 33554432 + d.toNat * 1048576 + a.toNat * 32768 + b.toNat * 1024 + m.toNat * 128) rfl (by have := Bool.toNat_lt l; omega)
theorem Fields.vpSldn (l : Bool) (d : Reg) (a : Reg) (b : Reg) (m : BitVec 3) : Fields.Statement (.vpSldn l d a b m) :=
  Fields.fits (n := 2080374785 + l.toNat * 33554432 + d.toNat * 1048576 + a.toNat * 32768 + b.toNat * 1024 + m.toNat * 128) rfl (by have := Bool.toNat_lt l; omega)
theorem Fields.vpRgat (l : Bool) (d : Reg) (a : Reg) (b : Reg) (m : BitVec 3) : Fields.Statement (.vpRgat l d a b m) :=
  Fields.fits (n := 2080374786 + l.toNat * 33554432 + d.toNat * 1048576 + a.toNat * 32768 + b.toNat * 1024 + m.toNat * 128) rfl (by have := Bool.toNat_lt l; omega)
theorem Fields.vpCmpr (l : Bool) (d : Reg) (a : Reg) (m : BitVec 3) : Fields.Statement (.vpCmpr l d a m) :=
  Fields.fits (n := 2080374787 + l.toNat * 33554432 + d.toNat * 1048576 + a.toNat * 32768 + m.toNat * 128) rfl (by have := Bool.toNat_lt l; omega)
theorem Fields.vpExpd (l : Bool) (d : Reg) (a : Reg) (m : BitVec 3) : Fields.Statement (.vpExpd l d a m) :=
  Fields.fits (n := 2080374788 + l.toNat * 33554432 + d.toNat * 1048576 + a.toNat * 32768 + m.toNat * 128) rfl (by have := Bool.toNat_lt l; omega)
theorem Fields.vpXchg (l : Bool) (d : Reg) (a : Reg) (i : Reg) (m : BitVec 3) : Fields.Statement (.vpXchg l d a i m) :=
  Fields.fits (n := 2080374789 + l.toNat * 33554432 + d.toNat * 1048576 + a.toNat * 32768 + i.toNat * 1024 + m.toNat * 128) rfl (by have := Bool.toNat_lt l; omega)
theorem Fields.vpSort (l : Bool) (d : Reg) (a : Reg) (m : BitVec 3) : Fields.Statement (.vpSort l d a m) :=
  Fields.fits (n := 2080374790 + l.toNat * 33554432 + d.toNat * 1048576 + a.toNat * 32768 + m.toNat * 128) rfl (by have := Bool.toNat_lt l; omega)
theorem Fields.vpMerge (l : Bool) (d : Reg) (a : Reg) (b : Reg) (m : BitVec 3) : Fields.Statement (.vpMerge l d a b m) :=
  Fields.fits (n := 2080374791 + l.toNat * 33554432 + d.toNat * 1048576 + a.toNat * 32768 + b.toNat * 1024 + m.toNat * 128) rfl (by have := Bool.toNat_lt l; omega)
theorem Fields.vpRsum (l : Bool) (d : Reg) (a : Reg) (b : Reg) (m : BitVec 3) : Fields.Statement (.vpRsum l d a b m) :=
  Fields.fits (n := 2080374792 + l.toNat * 33554432 + d.toNat * 1048576 + a.toNat * 32768 + b.toNat * 1024 + m.toNat * 128) rfl (by have := Bool.toNat_lt l; omega)
theorem Fields.vpRmax (l : Bool) (d : Reg) (a : Reg) (b : Reg) (m : BitVec 3) : Fields.Statement (.vpRmax l d a b m) :=
  Fields.fits (n := 2080374793 + l.toNat * 33554432 + d.toNat * 1048576 + a.toNat * 32768 + b.toNat * 1024 + m.toNat * 128) rfl (by have := Bool.toNat_lt l; omega)
theorem Fields.vpRmin (l : Bool) (d : Reg) (a : Reg) (b : Reg) (m : BitVec 3) : Fields.Statement (.vpRmin l d a b m) :=
  Fields.fits (n := 2080374794 + l.toNat * 33554432 + d.toNat * 1048576 + a.toNat * 32768 + b.toNat * 1024 + m.toNat * 128) rfl (by have := Bool.toNat_lt l; omega)
theorem Fields.vpRand (l : Bool) (d : Reg) (a : Reg) (b : Reg) (m : BitVec 3) : Fields.Statement (.vpRand l d a b m) :=
  Fields.fits (n := 2080374795 + l.toNat * 33554432 + d.toNat * 1048576 + a.toNat * 32768 + b.toNat * 1024 + m.toNat * 128) rfl (by have := Bool.toNat_lt l; omega)
theorem Fields.vpRor (l : Bool) (d : Reg) (a : Reg) (b : Reg) (m : BitVec 3) : Fields.Statement (.vpRor l d a b m) :=
  Fields.fits (n := 2080374796 + l.toNat * 33554432 + d.toNat * 1048576 + a.toNat * 32768 + b.toNat * 1024 + m.toNat * 128) rfl (by have := Bool.toNat_lt l; omega)
theorem Fields.vpFrsum (l : Bool) (d : Reg) (a : Reg) (b : Reg) (m : BitVec 3) : Fields.Statement (.vpFrsum l d a b m) :=
  Fields.fits (n := 2080374797 + l.toNat * 33554432 + d.toNat * 1048576 + a.toNat * 32768 + b.toNat * 1024 + m.toNat * 128) rfl (by have := Bool.toNat_lt l; omega)
theorem Fields.vpFrmax (l : Bool) (d : Reg) (a : Reg) (b : Reg) (m : BitVec 3) : Fields.Statement (.vpFrmax l d a b m) :=
  Fields.fits (n := 2080374798 + l.toNat * 33554432 + d.toNat * 1048576 + a.toNat * 32768 + b.toNat * 1024 + m.toNat * 128) rfl (by have := Bool.toNat_lt l; omega)
theorem Fields.vpFrmin (l : Bool) (d : Reg) (a : Reg) (b : Reg) (m : BitVec 3) : Fields.Statement (.vpFrmin l d a b m) :=
  Fields.fits (n := 2080374799 + l.toNat * 33554432 + d.toNat * 1048576 + a.toNat * 32768 + b.toNat * 1024 + m.toNat * 128) rfl (by have := Bool.toNat_lt l; omega)
theorem Fields.vpScan (l : Bool) (d : Reg) (a : Reg) (b : Reg) (m : BitVec 3) : Fields.Statement (.vpScan l d a b m) :=
  Fields.fits (n := 2080374800 + l.toNat * 33554432 + d.toNat * 1048576 + a.toNat * 32768 + b.toNat * 1024 + m.toNat * 128) rfl (by have := Bool.toNat_lt l; omega)
theorem Fields.vpFscan (l : Bool) (d : Reg) (a : Reg) (b : Reg) (m : BitVec 3) : Fields.Statement (.vpFscan l d a b m) :=
  Fields.fits (n := 2080374801 + l.toNat * 33554432 + d.toNat * 1048576 + a.toNat * 32768 + b.toNat * 1024 + m.toNat * 128) rfl (by have := Bool.toNat_lt l; omega)
theorem Fields.vpMand (l : Bool) (d : Reg) (a : Reg) (b : Reg) : Fields.Statement (.vpMand l d a b) :=
  Fields.fits (n := 2080374802 + l.toNat * 33554432 + d.toNat * 1048576 + a.toNat * 32768 + b.toNat * 1024) rfl (by have := Bool.toNat_lt l; omega)
theorem Fields.vpMor (l : Bool) (d : Reg) (a : Reg) (b : Reg) : Fields.Statement (.vpMor l d a b) :=
  Fields.fits (n := 2080374803 + l.toNat * 33554432 + d.toNat * 1048576 + a.toNat * 32768 + b.toNat * 1024) rfl (by have := Bool.toNat_lt l; omega)
theorem Fields.vpMxor (l : Bool) (d : Reg) (a : Reg) (b : Reg) : Fields.Statement (.vpMxor l d a b) :=
  Fields.fits (n := 2080374804 + l.toNat * 33554432 + d.toNat * 1048576 + a.toNat * 32768 + b.toNat * 1024) rfl (by have := Bool.toNat_lt l; omega)
theorem Fields.vpMnot (l : Bool) (d : Reg) (a : Reg) : Fields.Statement (.vpMnot l d a) :=
  Fields.fits (n := 2080374805 + l.toNat * 33554432 + d.toNat * 1048576 + a.toNat * 32768) rfl (by have := Bool.toNat_lt l; omega)
theorem Fields.vpMpop (l : Bool) (d : Reg) (a : Reg) : Fields.Statement (.vpMpop l d a) :=
  Fields.fits (n := 2080374806 + l.toNat * 33554432 + d.toNat * 1048576 + a.toNat * 32768) rfl (by have := Bool.toNat_lt l; omega)
theorem Fields.vpMffs (l : Bool) (d : Reg) (a : Reg) : Fields.Statement (.vpMffs l d a) :=
  Fields.fits (n := 2080374807 + l.toNat * 33554432 + d.toNat * 1048576 + a.toNat * 32768) rfl (by have := Bool.toNat_lt l; omega)
theorem Fields.vpMfirst (l : Bool) (d : Reg) (a : Reg) : Fields.Statement (.vpMfirst l d a) :=
  Fields.fits (n := 2080374808 + l.toNat * 33554432 + d.toNat * 1048576 + a.toNat * 32768) rfl (by have := Bool.toNat_lt l; omega)
theorem Fields.vpBcast (l : Bool) (d : Reg) (a : Reg) (b : Reg) (m : BitVec 3) : Fields.Statement (.vpBcast l d a b m) :=
  Fields.fits (n := 2080374809 + l.toNat * 33554432 + d.toNat * 1048576 + a.toNat * 32768 + b.toNat * 1024 + m.toNat * 128) rfl (by have := Bool.toNat_lt l; omega)
theorem Fields.vpExt (l : Bool) (d : Reg) (a : Reg) (b : Reg) : Fields.Statement (.vpExt l d a b) :=
  Fields.fits (n := 2080374810 + l.toNat * 33554432 + d.toNat * 1048576 + a.toNat * 32768 + b.toNat * 1024) rfl (by have := Bool.toNat_lt l; omega)
theorem Fields.vpInsrt (l : Bool) (d : Reg) (a : Reg) (b : Reg) : Fields.Statement (.vpInsrt l d a b) :=
  Fields.fits (n := 2080374811 + l.toNat * 33554432 + d.toNat * 1048576 + a.toNat * 32768 + b.toNat * 1024) rfl (by have := Bool.toNat_lt l; omega)
theorem Fields.vwWmac (l : Bool) (d : Reg) (a : Reg) (b : Reg) (m : BitVec 3) : Fields.Statement (.vwWmac l d a b m) :=
  Fields.fits (n := 2348810240 + l.toNat * 33554432 + d.toNat * 1048576 + a.toNat * 32768 + b.toNat * 1024 + m.toNat * 128) rfl (by have := Bool.toNat_lt l; omega)
theorem Fields.vwWmacz (l : Bool) (d : Reg) (a : Reg) (b : Reg) (m : BitVec 3) : Fields.Statement (.vwWmacz l d a b m) :=
  Fields.fits (n := 2348810241 + l.toNat * 33554432 + d.toNat * 1048576 + a.toNat * 32768 + b.toNat * 1024 + m.toNat * 128) rfl (by have := Bool.toNat_lt l; omega)
theorem Fields.vwWmacsz (l : Bool) (d : Reg) (a : Reg) (b : Reg) (m : BitVec 3) : Fields.Statement (.vwWmacsz l d a b m) :=
  Fields.fits (n := 2348810242 + l.toNat * 33554432 + d.toNat * 1048576 + a.toNat * 32768 + b.toNat * 1024 + m.toNat * 128) rfl (by have := Bool.toNat_lt l; omega)
theorem Fields.vwWadd (l : Bool) (d : Reg) (a : Reg) (b : Reg) (m : BitVec 3) : Fields.Statement (.vwWadd l d a b m) :=
  Fields.fits (n := 2348810243 + l.toNat * 33554432 + d.toNat * 1048576 + a.toNat * 32768 + b.toNat * 1024 + m.toNat * 128) rfl (by have := Bool.toNat_lt l; omega)
theorem Fields.vwWaddz (l : Bool) (d : Reg) (a : Reg) (b : Reg) (m : BitVec 3) : Fields.Statement (.vwWaddz l d a b m) :=
  Fields.fits (n := 2348810244 + l.toNat * 33554432 + d.toNat * 1048576 + a.toNat * 32768 + b.toNat * 1024 + m.toNat * 128) rfl (by have := Bool.toNat_lt l; omega)
theorem Fields.vwWmul (l : Bool) (d : Reg) (a : Reg) (b : Reg) (m : BitVec 3) : Fields.Statement (.vwWmul l d a b m) :=
  Fields.fits (n := 2348810245 + l.toNat * 33554432 + d.toNat * 1048576 + a.toNat * 32768 + b.toNat * 1024 + m.toNat * 128) rfl (by have := Bool.toNat_lt l; omega)
theorem Fields.vwNsat (l : Bool) (d : Reg) (a : Reg) (m : BitVec 3) : Fields.Statement (.vwNsat l d a m) :=
  Fields.fits (n := 2348810246 + l.toNat * 33554432 + d.toNat * 1048576 + a.toNat * 32768 + m.toNat * 128) rfl (by have := Bool.toNat_lt l; omega)
theorem Fields.vwNsatz (l : Bool) (d : Reg) (a : Reg) (m : BitVec 3) : Fields.Statement (.vwNsatz l d a m) :=
  Fields.fits (n := 2348810247 + l.toNat * 33554432 + d.toNat * 1048576 + a.toNat * 32768 + m.toNat * 128) rfl (by have := Bool.toNat_lt l; omega)
theorem Fields.vwNrshr (l : Bool) (d : Reg) (a : Reg) (i : Reg) (m : BitVec 3) : Fields.Statement (.vwNrshr l d a i m) :=
  Fields.fits (n := 2348810248 + l.toNat * 33554432 + d.toNat * 1048576 + a.toNat * 32768 + i.toNat * 1024 + m.toNat * 128) rfl (by have := Bool.toNat_lt l; omega)
theorem Fields.vld (l : Bool) (d : Reg) (a : Reg) (x : Reg) (m : BitVec 3) (e : VMode) (n : BitVec 3) (o : VOrd) : Fields.Statement (.vld l d a x m e n o) :=
  Fields.fits (n := 2147483648 + l.toNat * 33554432 + d.toNat * 1048576 + a.toNat * 32768 + x.toNat * 1024 + m.toNat * 128 + e.code * 32 + n.toNat * 4 + o.code) rfl (by have := Bool.toNat_lt l; have := VMode.code_lt e; have := VOrd.code_lt o; omega)
theorem Fields.vst (l : Bool) (d : Reg) (a : Reg) (x : Reg) (m : BitVec 3) (e : VMode) (n : BitVec 3) (o : VOrd) : Fields.Statement (.vst l d a x m e n o) :=
  Fields.fits (n := 2214592512 + l.toNat * 33554432 + d.toNat * 1048576 + a.toNat * 32768 + x.toNat * 1024 + m.toNat * 128 + e.code * 32 + n.toNat * 4 + o.code) rfl (by have := Bool.toNat_lt l; have := VMode.code_lt e; have := VOrd.code_lt o; omega)
theorem Fields.vlkGl (l : Bool) (d : Reg) (a : Reg) (x : Reg) (m : BitVec 3) : Fields.Statement (.vlkGl l d a x m) :=
  Fields.fits (n := 2281701440 + l.toNat * 33554432 + d.toNat * 1048576 + a.toNat * 32768 + x.toNat * 1024 + m.toNat * 128) rfl (by have := Bool.toNat_lt l; omega)
theorem Fields.vlkSc (l : Bool) (d : Reg) (a : Reg) (x : Reg) (m : BitVec 3) : Fields.Statement (.vlkSc l d a x m) :=
  Fields.fits (n := 2281701441 + l.toNat * 33554432 + d.toNat * 1048576 + a.toNat * 32768 + x.toNat * 1024 + m.toNat * 128) rfl (by have := Bool.toNat_lt l; omega)
theorem Fields.mOn (s : Reg) : Fields.Statement (.mOn s) :=
  Fields.fits (n := 2684354560 + s.toNat * 256) rfl (by omega)
theorem Fields.mOff : Fields.Statement .mOff := Fields.fits (n := 2684354561) rfl (by decide)
theorem Fields.mZero (c : Bool) : Fields.Statement (.mZero c) :=
  Fields.fits (n := 2684354562 + c.toNat * 8388608) rfl (by have := Bool.toNat_lt c; omega)
theorem Fields.mOpa (c : Bool) (a : Reg) (b : Reg) : Fields.Statement (.mOpa c a b) :=
  Fields.fits (n := 2684354563 + c.toNat * 8388608 + a.toNat * 262144 + b.toNat * 8192) rfl (by have := Bool.toNat_lt c; omega)
theorem Fields.mOps (c : Bool) (a : Reg) (b : Reg) : Fields.Statement (.mOps c a b) :=
  Fields.fits (n := 2684354564 + c.toNat * 8388608 + a.toNat * 262144 + b.toNat * 8192) rfl (by have := Bool.toNat_lt c; omega)
theorem Fields.mRdrow (c : Bool) (a : Reg) (s : Reg) : Fields.Statement (.mRdrow c a s) :=
  Fields.fits (n := 2684354565 + c.toNat * 8388608 + a.toNat * 262144 + s.toNat * 256) rfl (by have := Bool.toNat_lt c; omega)
theorem Fields.mWrrow (c : Bool) (a : Reg) (s : Reg) : Fields.Statement (.mWrrow c a s) :=
  Fields.fits (n := 2684354566 + c.toNat * 8388608 + a.toNat * 262144 + s.toNat * 256) rfl (by have := Bool.toNat_lt c; omega)
theorem Fields.mRdcol (c : Bool) (a : Reg) (s : Reg) : Fields.Statement (.mRdcol c a s) :=
  Fields.fits (n := 2684354567 + c.toNat * 8388608 + a.toNat * 262144 + s.toNat * 256) rfl (by have := Bool.toNat_lt c; omega)
theorem Fields.mSt (c : Bool) (s : Reg) : Fields.Statement (.mSt c s) :=
  Fields.fits (n := 2684354568 + c.toNat * 8388608 + s.toNat * 256) rfl (by have := Bool.toNat_lt c; omega)
theorem Fields.mLd (c : Bool) (s : Reg) : Fields.Statement (.mLd c s) :=
  Fields.fits (n := 2684354569 + c.toNat * 8388608 + s.toNat * 256) rfl (by have := Bool.toNat_lt c; omega)
theorem Fields.mLdtab (t : BitVec 2) (s : Reg) : Fields.Statement (.mLdtab t s) :=
  Fields.fits (n := 2684354570 + t.toNat * 16777216 + s.toNat * 256) rfl (by omega)
theorem Fields.mtMul (t : BitVec 2) (c : Bool) (a : Reg) (b : Reg) (s : Reg) (q : BitVec 3) : Fields.Statement (.mtMul t c a b s q) :=
  Fields.fits (n := 2751463424 + t.toNat * 16777216 + c.toNat * 8388608 + a.toNat * 262144 + b.toNat * 8192 + s.toNat * 256 + q.toNat) rfl (by have := Bool.toNat_lt c; omega)
theorem Fields.cCopy (a : Reg) (b : Reg) (c : Reg) (t : BitVec 3) (p : BitVec 4) : Fields.Statement (.cCopy a b c t p) :=
  Fields.fits (n := 3221225472 + a.toNat * 131072 + b.toNat * 4096 + c.toNat * 128 + t.toNat * 16 + p.toNat) rfl (by omega)
theorem Fields.cGath (a : Reg) (b : Reg) (c : Reg) (t : BitVec 3) (p : BitVec 4) : Fields.Statement (.cGath a b c t p) :=
  Fields.fits (n := 3225419776 + a.toNat * 131072 + b.toNat * 4096 + c.toNat * 128 + t.toNat * 16 + p.toNat) rfl (by omega)
theorem Fields.cScat (a : Reg) (b : Reg) (c : Reg) (t : BitVec 3) (p : BitVec 4) : Fields.Statement (.cScat a b c t p) :=
  Fields.fits (n := 3229614080 + a.toNat * 131072 + b.toNat * 4096 + c.toNat * 128 + t.toNat * 16 + p.toNat) rfl (by omega)
theorem Fields.cXf (a : Reg) (b : Reg) (c : Reg) (t : BitVec 3) (p : BitVec 4) : Fields.Statement (.cXf a b c t p) :=
  Fields.fits (n := 3233808384 + a.toNat * 131072 + b.toNat * 4096 + c.toNat * 128 + t.toNat * 16 + p.toNat) rfl (by omega)
theorem Fields.cFill (a : Reg) (b : Reg) (t : BitVec 3) (p : BitVec 4) : Fields.Statement (.cFill a b t p) :=
  Fields.fits (n := 3238002688 + a.toNat * 131072 + b.toNat * 4096 + t.toNat * 16 + p.toNat) rfl (by omega)
theorem Fields.cWait (t : BitVec 3) : Fields.Statement (.cWait t) :=
  Fields.fits (n := 3242196992 + t.toNat * 16) rfl (by omega)
theorem Fields.cbSet (a : Reg) (b : Reg) : Fields.Statement (.cbSet a b) :=
  Fields.fits (n := 3288334336 + a.toNat * 65536 + b.toNat * 2048) rfl (by omega)
theorem Fields.cbArr (b : Reg) : Fields.Statement (.cbArr b) :=
  Fields.fits (n := 3288334337 + b.toNat * 2048) rfl (by omega)
theorem Fields.cbWt (b : Reg) : Fields.Statement (.cbWt b) :=
  Fields.fits (n := 3288334338 + b.toNat * 2048) rfl (by omega)
theorem Fields.cbArw (b : Reg) : Fields.Statement (.cbArw b) :=
  Fields.fits (n := 3288334339 + b.toNat * 2048) rfl (by omega)
theorem Fields.cbSt (d : Reg) (b : Reg) : Fields.Statement (.cbSt d b) :=
  Fields.fits (n := 3288334340 + d.toNat * 2097152 + b.toNat * 2048) rfl (by omega)
theorem Fields.pBind (d : Reg) (a : Reg) : Fields.Statement (.pBind d a) :=
  Fields.fits (n := 3489660928 + d.toNat * 1048576 + a.toNat * 32768) rfl (by omega)
theorem Fields.pApp (d : Reg) (a : Reg) (b : Reg) (m : BitVec 3) : Fields.Statement (.pApp d a b m) :=
  Fields.fits (n := 3489660944 + d.toNat * 1048576 + a.toNat * 32768 + b.toNat * 1024 + m.toNat * 128) rfl (by omega)
theorem Fields.pLd (d : Reg) (a : Reg) (b : Reg) (m : BitVec 3) (l : BitVec 4) : Fields.Statement (.pLd d a b m l) :=
  Fields.fits (n := 3489660960 + d.toNat * 1048576 + a.toNat * 32768 + b.toNat * 1024 + m.toNat * 128 + l.toNat) rfl (by omega)
theorem Fields.pLds (d : Reg) (a : Reg) (b : Reg) (l : BitVec 4) : Fields.Statement (.pLds d a b l) :=
  Fields.fits (n := 3489660976 + d.toNat * 1048576 + a.toNat * 32768 + b.toNat * 1024 + l.toNat) rfl (by omega)
theorem Fields.pInfo (d : Reg) (a : Reg) (s : BitVec 4) : Fields.Statement (.pInfo d a s) :=
  Fields.fits (n := 3489660992 + d.toNat * 1048576 + a.toNat * 32768 + s.toNat) rfl (by omega)
theorem Fields.pUnbind (a : Reg) : Fields.Statement (.pUnbind a) :=
  Fields.fits (n := 3489661008 + a.toNat * 32768) rfl (by omega)
theorem Fields.fColl (d : Reg) (a : Reg) : Fields.Statement (.fColl d a) :=
  Fields.fits (n := 3758096384 + d.toNat * 2097152 + a.toNat * 65536) rfl (by omega)
theorem Fields.fWait (a : Reg) : Fields.Statement (.fWait a) :=
  Fields.fits (n := 3758096385 + a.toNat * 65536) rfl (by omega)
theorem Fields.fTest (d : Reg) (a : Reg) : Fields.Statement (.fTest d a) :=
  Fields.fits (n := 3758096386 + d.toNat * 2097152 + a.toNat * 65536) rfl (by omega)
theorem Fields.wMark (a : Reg) (b : Reg) : Fields.Statement (.wMark a b) :=
  Fields.fits (n := 4026531840 + a.toNat * 65536 + b.toNat * 2048) rfl (by omega)
theorem Fields.wInfo (d : Reg) : Fields.Statement (.wInfo d) :=
  Fields.fits (n := 4026531841 + d.toNat * 2097152) rfl (by omega)
theorem Fields.hPf (d : Reg) (a : Reg) (b : Reg) : Fields.Statement (.hPf d a b) :=
  Fields.fits (n := 4160749568 + d.toNat * 2097152 + a.toNat * 65536 + b.toNat * 2048) rfl (by omega)
theorem Fields.hPfs (d : Reg) (a : Reg) (b : Reg) : Fields.Statement (.hPfs d a b) :=
  Fields.fits (n := 4160749569 + d.toNat * 2097152 + a.toNat * 65536 + b.toNat * 2048) rfl (by omega)
theorem Fields.hNop (d : Reg) (a : Reg) (b : Reg) (fn : BitVec 11) : Fields.Statement (.hNop d a b fn) :=
  Fields.fits (n := 4160749568 + d.toNat * 2097152 + a.toNat * 65536 + b.toNat * 2048 + fn.toNat) rfl (by omega)
theorem Fields.convoy (ws : List CWord) : Fields.Statement (.convoy ws) := nofun
theorem Fields.timerExpiry (q : Nat) : Fields.Statement (.timerExpiry q) := nofun
theorem Fields.interrupt (q : Nat) : Fields.Statement (.interrupt q) := nofun
theorem Fields.homeWriteAdmit (q : Nat) (k : Nat) : Fields.Statement (.homeWriteAdmit q k) := nofun
theorem Fields.ringSpaceFreed (p : Nat) (n : Nat) : Fields.Statement (.ringSpaceFreed p n) := nofun
theorem Fields.matrixGrant (c : Nat) : Fields.Statement (.matrixGrant c) := nofun
theorem Fields.engineRow (c : Nat) (k : Nat) : Fields.Statement (.engineRow c k) := nofun
theorem Fields.engineComplete (c : Nat) (k : Nat) : Fields.Statement (.engineComplete c k) := nofun
theorem Fields.engineFault (c : Nat) : Fields.Statement (.engineFault c) := nofun
theorem Fields.launchFail (p : Nat) (n : Nat) (cause : Nat) : Fields.Statement (.launchFail p n cause) := nofun
theorem Fields.launchBind (p : Nat) : Fields.Statement (.launchBind p) := nofun
theorem Fields.bindNextWrite (q : Nat) (w0 : Word) (w1 : Word) (w2 : Word) (w3 : Word) : Fields.Statement (.bindNextWrite q w0 w1 w2 w3) := nofun
theorem Fields.bindWithdraw (q : Nat) : Fields.Statement (.bindWithdraw q) := nofun
theorem Fields.bindAdvance (q : Nat) : Fields.Statement (.bindAdvance q) := nofun
theorem Fields.preloadCopyDone (q : Nat) : Fields.Statement (.preloadCopyDone q) := nofun
theorem Fields.budgetExpiry (q : Nat) : Fields.Statement (.budgetExpiry q) := nofun
theorem Fields.reclaimWaitExpiry (q : Nat) : Fields.Statement (.reclaimWaitExpiry q) := nofun
theorem Fields.markWaitExpiry (p : Nat) (n : Nat) : Fields.Statement (.markWaitExpiry p n) := nofun
theorem Fields.postReclaim (q : Nat) (c : Nat) : Fields.Statement (.postReclaim q c) := nofun
theorem Fields.markRequest (q : Nat) : Fields.Statement (.markRequest q) := nofun
theorem Fields.clusterHalt (c : Nat) : Fields.Statement (.clusterHalt c) := nofun
theorem Fields.clusterHalted (c : Nat) : Fields.Statement (.clusterHalted c) := nofun
theorem Fields.cellarExchange (c : Nat) : Fields.Statement (.cellarExchange c) := nofun
theorem Fields.exchangeDone (c : Nat) : Fields.Statement (.exchangeDone c) := nofun
theorem Fields.discardShadow (c : Nat) : Fields.Statement (.discardShadow c) := nofun
theorem Fields.clusterResume (c : Nat) : Fields.Statement (.clusterResume c) := nofun
theorem Fields.launchResume (p : Nat) (n : Nat) : Fields.Statement (.launchResume p n) := nofun
theorem Fields.rollback (p : Nat) (n : Nat) : Fields.Statement (.rollback p n) := nofun
theorem Fields.logEngineFault (d : Nat) : Fields.Statement (.logEngineFault d) := nofun
theorem Fields.debugStop (p : Nat) : Fields.Statement (.debugStop p) := nofun
theorem Fields.debugHalted (p : Nat) : Fields.Statement (.debugHalted p) := nofun
theorem Fields.debugResume (p : Nat) : Fields.Statement (.debugResume p) := nofun
theorem Fields.debugRewind (p : Nat) (force : Bool) : Fields.Statement (.debugRewind p force) := nofun
theorem Fields.debugReplay (p : Nat) : Fields.Statement (.debugReplay p) := nofun
theorem Fields.replayCountReached (p : Nat) : Fields.Statement (.replayCountReached p) := nofun
theorem Fields.debugStepback (p : Nat) (force : Bool) : Fields.Statement (.debugStepback p force) := nofun
theorem Fields.tlbInvalidate (d : Nat) : Fields.Statement (.tlbInvalidate d) := nofun
theorem Fields.invalidationDone (d : Nat) : Fields.Statement (.invalidationDone d) := nofun
theorem Fields.tableWalk (q : Nat) (va : Word) : Fields.Statement (.tableWalk q va) := nofun
theorem Fields.linkTagEvict (line : Nat) : Fields.Statement (.linkTagEvict line) := nofun
theorem Fields.lineFill (pa : Nat) : Fields.Statement (.lineFill pa) := nofun
theorem Fields.lineWriteback (pa : Nat) : Fields.Statement (.lineWriteback pa) := nofun
theorem Fields.broadcastPacket (bytes : List Byte) : Fields.Statement (.broadcastPacket bytes) := nofun
theorem Fields.d2dLinkLost : Fields.Statement (.d2dLinkLost) := nofun
theorem Fields.channelFailure (stack : Nat) (ch : Nat) : Fields.Statement (.channelFailure stack ch) := nofun
theorem Fields.declareChannelFailed (stack : Nat) (v : BitVec 32) : Fields.Statement (.declareChannelFailed stack v) := nofun
theorem Fields.refresh (stack : Nat) (bank : Nat) : Fields.Statement (.refresh stack bank) := nofun
theorem Fields.patrolScrub (pa : Nat) : Fields.Statement (.patrolScrub pa) := nofun
theorem Fields.rowRemap (stack : Nat) : Fields.Statement (.rowRemap stack) := nofun
theorem Fields.remapDone (stack : Nat) : Fields.Statement (.remapDone stack) := nofun
theorem Fields.migrationStart (stack : Nat) : Fields.Statement (.migrationStart stack) := nofun
theorem Fields.migrationPass (stack : Nat) : Fields.Statement (.migrationPass stack) := nofun
theorem Fields.migrationFreeze (stack : Nat) : Fields.Statement (.migrationFreeze stack) := nofun
theorem Fields.migrationMoved (stack : Nat) : Fields.Statement (.migrationMoved stack) := nofun
theorem Fields.migrationFree (stack : Nat) : Fields.Statement (.migrationFree stack) := nofun
theorem Fields.errorCounterClear (pa : Nat) : Fields.Statement (.errorCounterClear pa) := nofun
theorem Fields.pyramidAssign (q : Nat) : Fields.Statement (.pyramidAssign q) := nofun
theorem Fields.pyramidSpanWrite (desc : Nat) (lvl : Nat) (k : Nat) : Fields.Statement (.pyramidSpanWrite desc lvl k) := nofun
theorem Fields.launchWindowWrite (p : Nat) (off : Nat) (bytes : List Byte) : Fields.Statement (.launchWindowWrite p off bytes) := nofun
theorem Fields.lstatRead (p : Nat) (w : Nat) : Fields.Statement (.lstatRead p w) := nofun
theorem Fields.jtailWrite (p : Nat) (v : BitVec 32) : Fields.Statement (.jtailWrite p v) := nofun
theorem Fields.doorbellWrite (p : Nat) (v : BitVec 32) : Fields.Statement (.doorbellWrite p v) := nofun
theorem Fields.attestationRequest (p : Nat) (pa : Nat) : Fields.Statement (.attestationRequest p pa) := nofun
theorem Fields.attestationDone (p : Nat) : Fields.Statement (.attestationDone p) := nofun
theorem Fields.registerWrite (pa : Nat) (v : Word) (sys : Bool) : Fields.Statement (.registerWrite pa v sys) := nofun
theorem Fields.hostMemRead (pa : Nat) (n : Nat) : Fields.Statement (.hostMemRead pa n) := nofun
theorem Fields.hostMemWrite (pa : Nat) (bytes : List Byte) : Fields.Statement (.hostMemWrite pa bytes) := nofun
theorem Fields.inboundRequest (port : Nat) (flit : List Byte) : Fields.Statement (.inboundRequest port flit) := nofun
theorem Fields.peerReply (port : Nat) (flit : List Byte) : Fields.Statement (.peerReply port flit) := nofun
theorem Fields.collectiveData (port : Nat) (flit : List Byte) : Fields.Statement (.collectiveData port flit) := nofun
theorem Fields.flitAck (port : Nat) (flit : List Byte) : Fields.Statement (.flitAck port flit) := nofun
theorem Fields.portRetrain (port : Nat) (lanes : Nat) : Fields.Statement (.portRetrain port lanes) := nofun
theorem Fields.portDown (port : Nat) : Fields.Statement (.portDown port) := nofun
theorem Fields.linkUp (port : Nat) (flit : List Byte) : Fields.Statement (.linkUp port flit) := nofun
theorem Fields.retrainRequest (port : Nat) (flit : List Byte) : Fields.Statement (.retrainRequest port flit) := nofun
theorem Fields.collectiveFailedMsg (port : Nat) (flit : List Byte) : Fields.Statement (.collectiveFailedMsg port flit) := nofun
theorem Fields.peerLostMsg (port : Nat) (flit : List Byte) : Fields.Statement (.peerLostMsg port flit) := nofun
theorem Fields.peerTimeout (port : Nat) (tag : Nat) : Fields.Statement (.peerTimeout port tag) := nofun
theorem Fields.collectiveComplete (k : Nat) : Fields.Statement (.collectiveComplete k) := nofun
theorem Fields.collectiveFail (k : Nat) (reason : Nat) (port : Nat) : Fields.Statement (.collectiveFail k reason port) := nofun
theorem Fields.reset : Fields.Statement (.reset) := nofun
theorem Fields.lifecycleTransition (t : LifeState) : Fields.Statement (.lifecycleTransition t) := nofun
theorem Fields.thermalStep (island : Nat) : Fields.Statement (.thermalStep island) := nofun
theorem Fields.droopEvent (monitor : Nat) : Fields.Statement (.droopEvent monitor) := nofun
theorem Fields.powerLimitStep : Fields.Statement (.powerLimitStep) := nofun
theorem Fields.illegalInstruction (bad : Bool) (w : IWord) (pos : BitVec 2) : Fields.Statement (.illegalInstruction bad w pos) := nofun
theorem Fields.fetchFault (cause : BitVec 8) (va : Word) : Fields.Statement (.fetchFault cause va) := nofun
theorem Fields.partitionConfigWrite (p : Nat) (off : Nat) (v : Word) : Fields.Statement (.partitionConfigWrite p off v) := nofun
theorem Fields.interruptMaskWrite (p : Nat) (v : BitVec 4) : Fields.Statement (.interruptMaskWrite p v) := nofun
theorem Fields.cxlCacheResponse (tag : Nat) (bytes : List Byte) : Fields.Statement (.cxlCacheResponse tag bytes) := nofun
theorem Fields.cxlSnoop (hpa : Nat) : Fields.Statement (.cxlSnoop hpa) := nofun
theorem Fields.backInvalidateResponse (pa : Nat) : Fields.Statement (.backInvalidateResponse pa) := nofun

end Sys2Proof.Laws
end

