-- ==== Sys2Proof/Laws/Units.lean ====
section
/-!
SUPPORT. Sys2Proof/Laws/Units.lean: what issue and retirement do to the state, once for every unit.
-/

namespace Sys2Proof.Machine

/-! ### Issue -/

/-- Issue changes nothing but the progress record of the sequencer's core. -/
theorem State.issue_cases (s : State) (q : Nat) :
    ∃ f : Core → Core, (∀ k, f k = { k with progress := (f k).progress }) ∧ (s.issue q = s ∨ s.issue q = s.modCore (coreOf q) f) := by
  unfold State.issue
  dsimp only
  split
  · exact ⟨id, fun _ => rfl, .inl rfl⟩
  · split
    · exact ⟨_, fun _ => rfl, .inr rfl⟩
    · exact ⟨id, fun _ => rfl, .inl rfl⟩

@[simp] theorem State.seq_issue (s : State) (q r : Nat) : (s.issue q).seq r = s.seq r := by
  obtain ⟨f, -, h | h⟩ := s.issue_cases q <;> rw [h] <;> rfl

theorem State.core_issue (s : State) (q : Nat) :
    (s.issue q).core (coreOf q) = { s.core (coreOf q) with progress := ((s.issue q).core (coreOf q)).progress } := by
  obtain ⟨f, hf, h | h⟩ := s.issue_cases q <;> rw [h]
  simpa using hf _

theorem State.core_issue_ne (s : State) (q : Nat) {c : Nat} (hc : c ≠ coreOf q) : (s.issue q).core c = s.core c := by
  obtain ⟨f, -, h | h⟩ := s.issue_cases q <;> rw [h]
  exact State.core_modCore_ne s (coreOf q) _ hc

theorem State.issue_onlyCore (s : State) (q : Nat) : s.OnlyCore (s.issue q) q := by
  refine ⟨?_, fun r _ => by simp, fun c hc => s.core_issue_ne q hc, ?_⟩
  · obtain ⟨f, -, h | h⟩ := s.issue_cases q <;> rw [h] <;> rfl
  · obtain ⟨f, -, h | h⟩ := s.issue_cases q <;> rw [h] <;> exact State.readPhys_congr rfl rfl

/-! ### `OnlyCore` is kept by what a unit does to its sequencer and its core -/

theorem State.OnlyCore.refl (s : State) (q : Nat) : s.OnlyCore s q := ⟨rfl, fun _ _ => rfl, fun _ _ => rfl, fun _ _ => rfl⟩

theorem State.OnlyCore.mem {s t : State} {q : Nat} (h : s.OnlyCore t q) : t.mem = s.mem := by rw [h.1]
theorem State.OnlyCore.moved {s t : State} {q : Nat} (h : s.OnlyCore t q) : t.moved = s.moved := by rw [h.1]

theorem State.OnlyCore.modSeq {s t : State} {q : Nat} (h : s.OnlyCore t q) (f : Seq → Seq) : s.OnlyCore (t.modSeq q f) q := by
  obtain ⟨h1, h2, h3, h4⟩ := h
  refine ⟨?_, fun r hr => ?_, h3, fun a n => h4 a n⟩
  · exact congrArg (fun u : State => { u with seqs := (t.modSeq q f).seqs }) h1
  · rw [State.seq_modSeq_ne t q f hr, h2 r hr]

theorem State.OnlyCore.setSeq {s t : State} {q : Nat} (h : s.OnlyCore t q) (x : Seq) : s.OnlyCore (t.setSeq q x) q :=
  h.modSeq fun _ => x

theorem State.OnlyCore.modCore {s t : State} {q : Nat} (h : s.OnlyCore t q) (f : Core → Core) :
    s.OnlyCore (t.modCore (coreOf q) f) q := by
  obtain ⟨h1, h2, h3, h4⟩ := h
  refine ⟨?_, h2, fun c hc => ?_, fun a n => h4 a n⟩
  · exact congrArg (fun u : State => { u with cores := (t.modCore (coreOf q) f).cores }) h1
  · rw [State.core_modCore_ne t _ f hc, h3 c hc]

theorem State.OnlyCore.dropReads {s t : State} {q : Nat} (h : s.OnlyCore t q) (o : Owner) : s.OnlyCore (t.dropReads o) q := by
  obtain ⟨h1, h2, h3, h4⟩ := h
  unfold State.dropReads
  split
  · exact ⟨h1, h2, h3, h4⟩
  · refine ⟨?_, h2, h3, fun a n => h4 a n⟩
    exact congrArg (fun u : State => { u with requests := t.requests.filter fun r => !(r.owner == o && !r.write) }) h1

theorem State.OnlyCore.endStep {s t : State} {q : Nat} (h : s.OnlyCore t q) : s.OnlyCore t.endStep q := by
  obtain ⟨h1, h2, h3, h4⟩ := h
  exact ⟨congrArg (fun u : State => { u with tick := t.endStep.tick, now := t.endStep.now, turn := t.endStep.turn }) h1, h2, h3,
    fun a n => h4 a n⟩

theorem State.movePc_eq (s : State) (q : Nat) (m : Move) :
    s.movePc q m = s.modSeq q fun x => { x with pc := s.nextPc q m } := rfl

/-! ### Retirement -/

/-- The counters of a step change nothing else of a sequencer but the notes of the banks it has met. -/
theorem Seq.pass_kept (x : Seq) (t : Nat) (w : Machine.Waits) : x.Kept (x.pass t w) := rfl

@[simp] theorem Seq.pass_pc (x : Seq) (t : Nat) (w : Machine.Waits) : (x.pass t w).pc = x.pc := rfl
@[simp] theorem Seq.pass_cur (x : Seq) (t : Nat) (w : Machine.Waits) : (x.pass t w).cur = x.cur := rfl
@[simp] theorem Seq.pass_units (x : Seq) (t : Nat) (w : Machine.Waits) : (x.pass t w).csr.units = x.csr.units := rfl

/-- The sequencer after its unit has retired is as the unit left it, but for the housekeeping of every unit. -/
theorem Seq.retire_kept (x : Seq) (m : Move) : x.Kept (x.retire m) := by
  unfold Seq.retire Seq.Kept
  dsimp only
  split
  · rfl
  · split <;> rfl

theorem Seq.retire_pc (x : Seq) (m : Move) : (x.retire m).pc = x.pc := by
  unfold Seq.retire; dsimp only; split <;> rfl

theorem Seq.retire_units (x : Seq) (m : Move) : (x.retire m).csr.units = x.csr.units + 1 := by
  unfold Seq.retire; dsimp only; split
  · rfl
  · split <;> rfl

theorem Seq.Kept.trans {x y z : Seq} (h : x.Kept y) (k : y.Kept z) : x.Kept z := by
  unfold Seq.Kept at *
  rw [k, h]

theorem Seq.Kept.trans_pc {x y : Seq} {p : PcQueue} (h : Seq.Kept { x with pc := p } y) : x.Kept y := h

theorem State.passTime_eq (s : State) (q : Nat) :
    s.passTime q = s.modSeq q fun x => x.pass s.tick (s.waits q) := rfl

theorem State.passTime_sameMap (s : State) (q : Nat) : s.SameMap (s.passTime q) := (State.SameMap.refl s).modSeq q _

@[simp] theorem State.seq_passTime (s : State) (q : Nat) :
    (s.passTime q).seq q = (s.seq q).pass s.tick (s.waits q) := by simp [State.passTime_eq]

/-- The queue that a move leaves depends on the mapping, the record and the queue alone. -/
theorem State.SameMap.nextPc {s t : State} (h : s.SameMap t) {q : Nat} (k : (t.seq q).cur = (s.seq q).cur)
    (p : (t.seq q).pc = (s.seq q).pc) (m : Move) : t.nextPc q m = s.nextPc q m := by
  simp only [State.nextPc, p, h.succ k]

/-- The sequencer that a completed unit leaves. -/
theorem State.complete_seq (u : State) (q : Nat) (m : Move) :
    (u.complete q m).seq q
      = ({ (u.seq q).pass u.tick (u.waits q) with pc := (u.passTime q).nextPc q m } : Seq).retire m := by
  simp [State.complete, State.movePc_eq]

theorem State.finish_done_seq (u : State) (q : Nat) (m : Move) :
    (State.finish q (.done u m)).seq q
      = ({ (u.seq q).pass u.tick (u.waits q) with pc := (u.passTime q).nextPc q m } : Seq).retire m :=
  u.complete_seq q m

/-- A unit that leaves state `u` after issue and completes without a branch: what it leaves. -/
theorem State.finish_done_onlyCore {s u : State} {q : Nat} (m : Move) (h : s.OnlyCore u q) :
    s.OnlyCore (State.finish q (.done u m)) q := by
  simp only [State.finish, State.complete, State.movePc_eq, State.passTime_eq]
  exact ((((h.modSeq _).modSeq _).modSeq _).dropReads _).endStep

theorem State.finish_done_core (u : State) (q : Nat) (m : Move) (c : Nat) :
    (State.finish q (.done u m)).core c = u.core c := by
  simp [State.finish, State.complete, State.movePc_eq, State.passTime_eq]

/-- A unit that completes moves the queue as its branch says. -/
theorem State.finish_done_queue {s u : State} {q : Nat} (m : Move) (hp : (u.seq q).pc = (s.seq q).pc)
    (hu : (u.seq q).csr.units = (s.seq q).csr.units) (hs : s.SameMap u) (hc : (u.seq q).cur = (s.seq q).cur) :
    ((State.finish q (.done u m)).seq q).pc = s.nextPc q m
      ∧ ((State.finish q (.done u m)).seq q).csr.units = (s.seq q).csr.units + 1 := by
  rw [State.finish_done_seq u q m]
  refine ⟨?_, ?_⟩
  · rw [Seq.retire_pc]
    exact (hs.trans (u.passTime_sameMap q)).nextPc (by simpa using hc) (by simpa using hp) m
  · rw [Seq.retire_units]
    simp [hu]

theorem State.finish_done_movedOn {s u : State} {q : Nat} (hp : (u.seq q).pc = (s.seq q).pc)
    (hu : (u.seq q).csr.units = (s.seq q).csr.units) (hs : s.SameMap u) (hc : (u.seq q).cur = (s.seq q).cur) :
    s.MovedOn (State.finish q (.done u .on)) q := by
  obtain ⟨h, g⟩ := State.finish_done_queue (s := s) .on hp hu hs hc
  refine ⟨?_, ?_, ?_, ?_, ?_, g⟩ <;> rw [h] <;> rfl

theorem State.finish_done_kept (u : State) (q : Nat) (m : Move) : (u.seq q).Kept ((State.finish q (.done u m)).seq q) := by
  rw [State.finish_done_seq u q m]
  exact ((u.seq q).pass_kept _ _).trans (Seq.Kept.trans_pc (Seq.retire_kept _ _))

/-- A unit whose whole effect is `f` on its sequencer and a move of the queue completes and does that and no more. -/
theorem State.finish_didTo (s : State) (f : Seq → Seq) (m : Move) (hp : (f (s.seq s.turn)).pc = (s.seq s.turn).pc)
    (hu : (f (s.seq s.turn)).csr.units = (s.seq s.turn).csr.units) (hc : (f (s.seq s.turn)).cur = (s.seq s.turn).cur)
    {q2 : Word} {n0 n1 : Bool} (h0 : (s.nextPc s.turn m).q0 = (s.seq s.turn).pc.q1) (h1 : (s.nextPc s.turn m).q1 = (s.seq s.turn).pc.q2)
    (h2 : (s.nextPc s.turn m).q2 = q2) (h3 : (s.nextPc s.turn m).n0 = n0) (h4 : (s.nextPc s.turn m).n1 = n1) :
    s.DidTo (State.finish s.turn (.done ((s.issue s.turn).modSeq s.turn f) m)) f q2 n0 n1 := by
  obtain ⟨h, g⟩ := State.finish_done_queue (s := s) (u := (s.issue s.turn).modSeq s.turn f) (q := s.turn) m (by simpa using hp) (by simpa using hu)
    ((s.issue_sameMap s.turn).modSeq s.turn f) (by simpa using hc)
  refine ⟨⟨?_, ?_, ?_, ?_, ?_, g⟩, ⟨?_, ?_⟩, ?_⟩
  · rw [h, h0]
  · rw [h, h1]
  · rw [h, h2]
  · rw [h, h3]
  · rw [h, h4]
  · exact State.finish_done_onlyCore _ ((s.issue_onlyCore s.turn).modSeq f)
  · rw [State.finish_done_core]
    exact s.core_issue s.turn
  · simpa using State.finish_done_kept ((s.issue s.turn).modSeq s.turn f) s.turn m

/-- A unit that is no branch and whose whole effect is `f` on its sequencer completes and does that and no more. -/
theorem State.finish_did (s : State) (f : Seq → Seq) (hp : (f (s.seq s.turn)).pc = (s.seq s.turn).pc)
    (hu : (f (s.seq s.turn)).csr.units = (s.seq s.turn).csr.units) (hc : (f (s.seq s.turn)).cur = (s.seq s.turn).cur) :
    s.Did (State.finish s.turn (.done ((s.issue s.turn).modSeq s.turn f) .on)) f :=
  s.finish_didTo f .on hp hu hc rfl rfl rfl rfl rfl

/-- `seqUnit` completes. -/
theorem seqUnit_did (s : State) (f : Seq → Seq) (hp : (f (s.seq s.turn)).pc = (s.seq s.turn).pc)
    (hu : (f (s.seq s.turn)).csr.units = (s.seq s.turn).csr.units) (hc : (f (s.seq s.turn)).cur = (s.seq s.turn).cur) :
    ∃ t, seqUnit s f = .next t ∧ s.Did t f :=
  ⟨_, rfl, s.finish_did f hp hu hc⟩

theorem Seq.setA_pc (x : Seq) (d : Reg) (v : Word) : (x.setA d v).pc = x.pc := by unfold Seq.setA; split <;> rfl
theorem Seq.setS_pc (x : Seq) (d : Reg) (v : Word) : (x.setS d v).pc = x.pc := by unfold Seq.setS; split <;> rfl
theorem Seq.setA_cur (x : Seq) (d : Reg) (v : Word) : (x.setA d v).cur = x.cur := by unfold Seq.setA; split <;> rfl
theorem Seq.setS_cur (x : Seq) (d : Reg) (v : Word) : (x.setS d v).cur = x.cur := by unfold Seq.setS; split <;> rfl
theorem Seq.setA_csr (x : Seq) (d : Reg) (v : Word) : (x.setA d v).csr = x.csr := by unfold Seq.setA; split <;> rfl
theorem Seq.setS_csr (x : Seq) (d : Reg) (v : Word) : (x.setS d v).csr = x.csr := by unfold Seq.setS; split <;> rfl

/-! ### Trap entry -/

theorem Queues.holds_not (k : Queues) : k.holds = !(k.sq.isEmpty && k.xa.isEmpty && k.xe.isEmpty && k.bq.isEmpty) := rfl

/-- What trap entry does, once for every trap that enters the handler (R127). `u` is the state before it, `n` the units that have
retired since `s`. -/
theorem State.takeTrap_trapped {s u : State} {q : Nat} {n : Word} (e : Trap) (ho : s.OnlySeq u q) (hm : s.SameMap u)
    (hh : s.Handles q e.cause)
    (hx : u.seq q = { s.seq q with
      pc := (u.seq q).pc, resume := (u.seq q).resume, woken := (u.seq q).woken
      used := (u.seq q).used, wide := (u.seq q).wide, banks := (u.seq q).banks, bankAt := (u.seq q).bankAt, stepAt := (u.seq q).stepAt
      csr := { (s.seq q).csr with
        units := (s.seq q).csr.units + n, cycle := (u.seq q).csr.cycle, stallq := (u.seq q).csr.stallq
        stalls := (u.seq q).csr.stalls, stallb := (u.seq q).csr.stallb, stallm := (u.seq q).csr.stallm
        rstg0 := (u.seq q).csr.rstg0, rstg1 := (u.seq q).csr.rstg1, rstg2 := (u.seq q).csr.rstg2, rstg3 := (u.seq q).csr.rstg3 } }) :
    s.Trapped (u.takeTrap q e).endStep q (u.seq q).pc n e := by
  obtain ⟨hi, hv, hc, hl, hw⟩ := hh
  have hcur : (u.seq q).cur = (s.seq q).cur := by rw [hx]
  have htr : (u.seq q).tr = (s.seq q).tr := by rw [hx]
  have hpart : u.part = s.part := by funext p; simp only [State.part, hm.parts]
  have h1 : u.takeTrap q e
      = (u.setSeq q ((u.seq q).enter e)).modSeq q fun y => { y with pc := (u.setSeq q ((u.seq q).enter e)).queueAt q (s.seq q).tr.tvec } := by
    unfold State.takeTrap
    dsimp only
    rw [hcur, htr, hpart]
    have e1 : ¬ ((s.seq q).cur.log = 2 ∧ (e.cause = 19 ∨ e.cause = 9 ∧ e.sub = 19)) := by grind
    have e2 : ¬ (e.cause = 17 ∧ (s.part (s.seq q).cur.partition).watchstop = true) := by grind
    have e3 : ¬ (((s.seq q).tr.inTrap || e.cause == 24 || (s.seq q).tr.tvec == 0) = true) := by grind
    rw [if_neg e1, if_neg e2, if_neg e3]
  have hq : (u.setSeq q ((u.seq q).enter e)).queueAt q (s.seq q).tr.tvec = s.queueAt q (s.seq q).tr.tvec := by
    have hz : ((u.seq q).enter e).cur = (s.seq q).cur := hcur
    generalize (u.seq q).enter e = z at hz
    have hs : (u.setSeq q z).seq q = z := by simp
    exact State.SameMap.queueAt (t := u.setSeq q z) (hm.modSeq q fun _ => z) (by rw [hs]; exact hz) _
  rw [h1, hq]
  have hy : (((u.setSeq q ((u.seq q).enter e)).modSeq q fun y => { y with pc := s.queueAt q (s.seq q).tr.tvec }).endStep).seq q
      = { (u.seq q).enter e with pc := s.queueAt q (s.seq q).tr.tvec } := by
    simp
  have ho' := ((ho.1.setSeq ((u.seq q).enter e)).modSeq fun y => { y with pc := s.queueAt q (s.seq q).tr.tvec }).endStep
  have hcore : (((u.setSeq q ((u.seq q).enter e)).modSeq q fun y => { y with pc := s.queueAt q (s.seq q).tr.tvec }).endStep).core (coreOf q)
      = u.core (coreOf q) := rfl
  generalize ((u.setSeq q ((u.seq q).enter e)).modSeq q fun y => { y with pc := s.queueAt q (s.seq q).tr.tvec }).endStep = t at hy ho' hcore
  unfold State.Trapped
  dsimp only
  refine ⟨⟨ho', hcore ▸ ho.2⟩, ?_⟩
  rw [hy]
  generalize (u.seq q) = y at hx
  unfold Seq.enter State.queueAt
  dsimp only
  rw [hx]
  refine ⟨?_, rfl, rfl, rfl, rfl, rfl, ?_⟩
  · dsimp only
    have a1 : e.tcause (y.pc.d0) = BitVec.ofNat 64 (e.cause + 2 ^ 8 * e.sub + 2 ^ 16 * e.aside.toNat + 2 ^ 17 * y.pc.d0.toNat
        + 2 ^ 18 * e.pos) := by
      unfold Trap.tcause; cases e.aside <;> cases y.pc.d0 <;> rfl
    have a2 : y.pc.enul = BitVec.ofNat 4 ([y.pc.n0, y.pc.n1, y.pc.prov1, y.pc.prov2].foldr (fun b r => b.toNat + 2 * r) 0) := by
      unfold PcQueue.enul
      generalize y.pc.n0 = a, y.pc.n1 = b, y.pc.prov1 = c, y.pc.prov2 = d
      cases a <;> cases b <;> cases c <;> cases d <;> rfl
    have a3 : ((if (s.seq q).grant = 0 then 0 else 2) ||| (if (s.seq q).qs.holds = true then 1 else 0) : BitVec 2)
        = BitVec.ofNat 2 ([!((s.seq q).qs.sq.isEmpty && (s.seq q).qs.xa.isEmpty && (s.seq q).qs.xe.isEmpty
            && (s.seq q).qs.bq.isEmpty), (s.seq q).grant != 0].foldr (fun b r => b.toNat + 2 * r) 0) := by
      rw [← Queues.holds_not]
      generalize (s.seq q).grant = gr
      cases (s.seq q).qs.holds <;> revert gr <;> decide
    have a5 : (if e.cause = 18 ∧ e.sub = 2 then false else (s.seq q).tr.dbpend)
        = ((s.seq q).tr.dbpend && !(e.cause == 18 && e.sub == 2)) := by
      by_cases h1 : e.cause = 18 <;> by_cases h2 : e.sub = 2 <;> simp [h1, h2]
    rw [a1, a2, a3, a5]
    cases e.eapc <;> rfl
  · dsimp only
    generalize (s.seq q) = x
    rcases e.rstg with _ | ⟨a, b, c, d⟩
    · dsimp only
      by_cases hr : (y.resume && e.cause != 18) = true
      · rw [if_pos hr]
      · rw [if_neg hr]
    · rfl

/-- A fault of a unit that enters the handler (R126, R127). -/
theorem State.finish_trap_faulted (s : State) (e : Trap) (hh : s.Handles s.turn e.cause) :
    s.Faulted (State.finish s.turn (.trap (s.issue s.turn) e)) e := by
  have hx : (((s.issue s.turn).passTime s.turn).dropReads (.seq s.turn)).seq s.turn
      = (s.seq s.turn).pass (s.issue s.turn).tick ((s.issue s.turn).waits s.turn) := by
    simp [State.passTime_eq]
  have h := State.takeTrap_trapped (s := s) (n := 0) (u := ((s.issue s.turn).passTime s.turn).dropReads (.seq s.turn)) e
    ⟨((s.issue_onlyCore s.turn).modSeq _).dropReads _, by simpa [State.passTime_eq] using s.core_issue s.turn⟩
    (((s.issue_sameMap s.turn).modSeq _ _).dropReads _) hh (by rw [hx]; simp [Seq.pass, Csrs.pass])
  rw [hx] at h
  exact h

/-- A call (R126, R158): the unit retires, then its trap enters the handler. -/
theorem State.finish_call_trapped (s : State) (e : Trap) (hh : s.Handles s.turn e.cause) :
    s.Trapped (State.finish s.turn (.call (s.issue s.turn) .on e)) s.turn (s.nextPc s.turn .on) 1 e := by
  have hn := ((s.issue_sameMap s.turn).trans ((s.issue s.turn).passTime_sameMap s.turn)).nextPc (q := s.turn) (by simp) (by simp) .on
  have hx : ((s.issue s.turn).complete s.turn .on).seq s.turn
      = ({ (s.seq s.turn).pass (s.issue s.turn).tick ((s.issue s.turn).waits s.turn) with
          pc := s.nextPc s.turn .on } : Seq).retire .on := by
    rw [State.complete_seq, hn, State.seq_issue]
  have h := State.takeTrap_trapped (s := s) (n := 1) (u := (s.issue s.turn).complete s.turn .on) e
    ⟨((((s.issue_onlyCore s.turn).modSeq _).modSeq _).modSeq _).dropReads _,
      by simpa [State.complete, State.movePc_eq, State.passTime_eq] using s.core_issue s.turn⟩
    (((((s.issue_sameMap s.turn).modSeq _ _).modSeq _ _).modSeq _ _).dropReads _) hh
    (by rw [hx]; unfold Seq.retire Seq.pass Csrs.pass; dsimp only; rw [if_neg (by decide)]; split <;> rfl)
  rw [hx, Seq.retire_pc] at h
  exact h

end Sys2Proof.Machine
end

