-- ==== Sys2Proof/Laws/Sound.lean ====
section
/-!
SUPPORT. Sys2Proof/Laws/Sound.lean: what every operation of the model keeps: the canonical form of device memory and the
life-cycle state.
-/

namespace Sys2Proof.Machine

/-- An operation keeps the life-cycle state and the canonical form of device memory. -/
abbrev State.Sound (s t : State) : Prop := t.life = s.life ∧ (Memory.wf s.mem = true → Memory.wf t.mem = true)

theorem foldl_sound {β : Type} (f : State → β → State) (l : List β) (s : State) (h : ∀ t b, State.Sound t (f t b)) :
    State.Sound s (l.foldl f s) := by
  induction l generalizing s with
  | nil => exact ⟨rfl, id⟩
  | cons b l ih =>
    have h1 := h s b
    have h2 := ih (f s b)
    exact ⟨h2.1.trans h1.1, fun w => h2.2 (h1.2 w)⟩

/-- The state that a unit leaves before its retirement. -/
def UnitRes.state : UnitRes → State
  | .done s _ => s
  | .call s _ _ => s
  | .trap s _ => s
  | .wait s => s
  | .gone s => s

/-- The outcome of a unit keeps what `State.Sound` says. -/
abbrev UnitRes.Sound (s : State) (r : UnitRes) : Prop := State.Sound s r.state

/-- A vector word leaves the state at issue, and the state under way stays sound from it. -/
abbrev VWork.Sound (w v : VWork) : Prop := v.orig = w.orig ∧ (State.Sound w.orig w.s → State.Sound w.orig v.s)

/-- The work of a unit begins with the state at issue. -/
abbrev VWork.From (s : State) (v : VWork) : Prop := v.orig = s ∧ v.s = s

theorem State.Sound.trans {s t u : State} (h : State.Sound s t) (k : State.Sound t u) : State.Sound s u :=
  ⟨k.1.trans h.1, fun m => k.2 (h.2 m)⟩

theorem VWork.sound_refl (w : VWork) : VWork.Sound w w := ⟨rfl, id⟩

/-- What an operation on the state under way keeps, a word that performs it keeps. -/
theorem VWork.sound_of {w v : VWork} (h : v.orig = w.orig) (k : State.Sound w.s v.s) : VWork.Sound w v :=
  ⟨h, fun g => g.trans k⟩

theorem VWork.Sound.trans {w v u : VWork} (h : VWork.Sound w v) (k : VWork.Sound v u) : VWork.Sound w u :=
  ⟨k.1.trans h.1, fun g => h.1 ▸ k.2 (h.1.symm ▸ h.2 g)⟩

theorem foldl_work_sound {β : Type} (f : VWork → β → VWork) (l : List β) (w : VWork) (h : ∀ v b, VWork.Sound v (f v b)) :
    VWork.Sound w (l.foldl f w) := by
  induction l generalizing w with
  | nil => exact VWork.sound_refl w
  | cons b l ih => exact (h w b).trans (ih (f w b))

/-- A fold that begins at a sound work. -/
theorem fold_work {β : Type} {f : VWork → β → VWork} {l : List β} {w v : VWork} (h : VWork.Sound w v)
    (k : ∀ v b, VWork.Sound v (f v b)) : VWork.Sound w (l.foldl f v) :=
  h.trans (foldl_work_sound f l v k)


/-- A fold that begins at a sound state. -/
theorem fold_state {β : Type} {f : State → β → State} {l : List β} {s t : State} (h : State.Sound s t)
    (k : ∀ v b, State.Sound v (f v b)) : State.Sound s (l.foldl f t) :=
  h.trans (foldl_sound f l t k)

/-- A fold that carries a state and something beside it. -/
theorem fold_pair {β γ : Type} {f : State × γ → β → State × γ} {l : List β} {s : State} {t : State × γ}
    (h : State.Sound s t.1) (k : ∀ v b, State.Sound v.1 (f v b).1) : State.Sound s (l.foldl f t).1 := by
  induction l generalizing t with
  | nil => exact h
  | cons b l ih => exact ih (h.trans (k t b))

/-- A fold that carries the work of a word and something beside it. -/
theorem fold_work_pair {β γ : Type} {f : VWork × γ → β → VWork × γ} {l : List β} {w : VWork} {t : VWork × γ}
    (h : VWork.Sound w t.1) (k : ∀ v b, VWork.Sound v.1 (f v b).1) : VWork.Sound w (l.foldl f t).1 := by
  induction l generalizing t with
  | nil => exact h
  | cons b l ih => exact ih (h.trans (k t b))

/-- A fold over positions that gathers the parts of a store beside the work. -/
theorem gatherParts_sound {w v : VWork} (h : VWork.Sound w v) {f : VWork × List SPart → Pos → VWork × List SPart}
    (k : ∀ t p, VWork.Sound w t.1 → VWork.Sound w (f t p).1) (l : List Pos) (ps : List SPart) : VWork.Sound w (l.foldl f (v, ps)).1 := by
  suffices g : ∀ t : VWork × List SPart, VWork.Sound w t.1 → VWork.Sound w (l.foldl f t).1 from g (v, ps) h
  induction l with
  | nil => exact fun t h => h
  | cons p l ih => exact fun t h => ih _ (k t p h)

theorem Option.getD_sound {o : Option State} {s : State} (h : ∀ t, o = some t → State.Sound s t) :
    State.Sound s (o.getD s) := by
  cases o with
  | none => exact ⟨rfl, id⟩
  | some t => exact h t rfl

/-- A fold in which a step may find no room. -/
theorem fold_option {β : Type} {f : Option State → β → Option State} {l : List β} {s : State} {o : Option State}
    (h : ∀ t, o = some t → State.Sound s t) (k : ∀ v b t, f v b = some t → ∃ u, v = some u ∧ State.Sound u t) :
    ∀ t, l.foldl f o = some t → State.Sound s t := by
  induction l generalizing o with
  | nil => exact h
  | cons b l ih =>
    refine ih fun t ht => ?_
    obtain ⟨u, hu, g⟩ := k o b t ht
    exact (h u hu).trans g

/-! ### FMap -/

/-! ### Fp -/

/-! ### State -/

/-! ### Access -/

theorem State.setSeq_sound (s : State) (q : Nat) (x : Seq) :
    State.Sound s (State.setSeq s q x) := by
  unfold State.setSeq; grind
theorem State.modSeq_sound (s : State) (q : Nat) (f : Seq → Seq) :
    State.Sound s (State.modSeq s q f) := by
  unfold State.modSeq; grind [State.setSeq_sound]
theorem State.setCore_sound (s : State) (c : Nat) (x : Core) :
    State.Sound s (State.setCore s c x) := by
  unfold State.setCore; grind
theorem State.modCore_sound (s : State) (c : Nat) (f : Core → Core) :
    State.Sound s (State.modCore s c f) := by
  unfold State.modCore; grind [State.setCore_sound]
theorem State.setCluster_sound (s : State) (c : Nat) (x : Cluster) :
    State.Sound s (State.setCluster s c x) := by
  unfold State.setCluster; grind
theorem State.modCluster_sound (s : State) (c : Nat) (f : Cluster → Cluster) :
    State.Sound s (State.modCluster s c f) := by
  unfold State.modCluster; grind [State.setCluster_sound]
theorem State.modPad_sound (s : State) (c : Nat) (f : Pad → Pad) :
    State.Sound s (State.modPad s c f) := by
  unfold State.modPad; grind [State.modCluster_sound]
theorem State.modDie_sound (s : State) (d : Nat) (f : Die → Die) :
    State.Sound s (State.modDie s d f) := by
  unfold State.modDie; grind
theorem State.modStack_sound (s : State) (k : Nat) (f : Stack → Stack) :
    State.Sound s (State.modStack s k f) := by
  unfold State.modStack; grind
theorem State.modPart_sound (s : State) (p : Nat) (f : Part → Part) :
    State.Sound s (State.modPart s p f) := by
  unfold State.modPart; grind
theorem State.modLaunch_sound (s : State) (p : Nat) (n : Nat) (f : Launch → Launch) :
    State.Sound s (State.modLaunch s p n f) := by
  unfold State.modLaunch; grind
theorem State.modPort_sound (s : State) (k : Nat) (f : Port → Port) :
    State.Sound s (State.modPort s k f) := by
  unfold State.modPort; grind
theorem State.countDie_sound (s : State) (d : Nat) (off : Nat) :
    State.Sound s (State.countDie s d off) := by
  unfold State.countDie; grind [State.modDie_sound]
/-! ### Hash -/

/-! ### Requests -/

theorem State.emitFlit_sound (s : State) (k : Nat) (type : Nat) (dst : Nat) (payload : List Byte) :
    State.Sound s (State.emitFlit s k type dst payload) := by
  unfold State.emitFlit; grind [State.modPort_sound]
theorem State.sendFlit_sound (s : State) (k : Nat) (type : Nat) (dst : Nat) (payload : List Byte) :
    State.Sound s (State.sendFlit s k type dst payload) := by
  unfold State.sendFlit; grind [State.emitFlit_sound, State.modPort_sound]
theorem State.flush_sound (s : State) (k : Nat) (x0 : Nat) :
    State.Sound s (State.flush s k x0) := by
  induction x0 generalizing s k <;> unfold State.flush <;> grind [State.modPort_sound, State.emitFlit_sound]
theorem State.noteFailed_sound (s : State) (q : Nat) (e : Nat × Word) :
    State.Sound s (State.noteFailed s q e) := by
  unfold State.noteFailed; grind [State.modSeq_sound]
theorem State.stopSampling_sound (s : State) (q : Nat) :
    State.Sound s (State.stopSampling s q) := by
  unfold State.stopSampling; grind [State.modSeq_sound]
theorem State.refuseRequest_sound (s : State) (o : Owner) (r : Req) (k : Nat) :
    State.Sound s (State.refuseRequest s o r k) := by
  unfold State.refuseRequest; grind [State.stopSampling_sound, State.noteFailed_sound]
theorem State.request_sound (s : State) (o : Owner) (pa : Nat) (len : Nat) (write : Bool) (attr : Nat) (bytes : List Byte) (va : Nat) :
    State.Sound s (State.request s o pa len write attr bytes va) := by
  unfold State.request; grind [State.sendFlit_sound, State.modPort_sound, Option.getD_sound, State.refuseRequest_sound]
theorem State.sendWrite_sound (s : State) (o : Owner) (pa : Nat) (b : List Byte) (attr : Nat) (va : Nat) :
    State.Sound s (State.sendWrite s o pa b attr va) := by
  unfold State.sendWrite; grind [writeBytes_wf, State.request_sound]
theorem State.dropReads_sound (s : State) (o : Owner) :
    State.Sound s (State.dropReads s o) := by
  unfold State.dropReads; grind
/-! ### BaseDie -/

theorem State.consult_sound (s : State) (pl : Place) :
    State.Sound s (State.consult s pl) := by
  unfold State.consult; grind [State.modStack_sound]
theorem State.consultGroup_sound (s : State) (pl : Place) :
    State.Sound s (State.consultGroup s pl) := by
  unfold State.consultGroup; grind [State.consult_sound, foldl_sound]
theorem State.countPoison_sound (s : State) (k : Nat) :
    State.Sound s (State.countPoison s k) := by
  unfold State.countPoison; grind [State.modStack_sound]
theorem State.poisonSectors_sound (s : State) (k : Nat) (n : Nat) :
    State.Sound s (State.poisonSectors s k n) := by
  unfold State.poisonSectors; grind
theorem State.storePoison_sound (s : State) (k : Nat) (n : Nat) :
    State.Sound s (State.storePoison s k n) := by
  unfold State.storePoison; grind [State.poisonSectors_sound, State.countPoison_sound]
theorem State.dieRead_sound (s : State) (k : Nat) :
    State.Sound s (State.dieRead s k).1 := by
  unfold State.dieRead; grind [State.countPoison_sound, State.modStack_sound, State.consultGroup_sound, State.consult_sound]
theorem State.readRaw_sound (s : State) (k : Nat) :
    State.Sound s (State.readRaw s k) := by
  unfold State.readRaw; grind [State.countPoison_sound, State.poisonSectors_sound, State.dieRead_sound]
theorem State.scrubParity_sound (s : State) (k : Nat) :
    State.Sound s (State.scrubParity s k) := by
  unfold State.scrubParity; grind [State.modStack_sound, State.consultGroup_sound, State.consult_sound]
theorem State.dieWrite_sound (s : State) (k : Nat) :
    State.Sound s (State.dieWrite s k) := by
  unfold State.dieWrite; grind [State.dieRead_sound, State.scrubParity_sound, State.consultGroup_sound, State.consult_sound]
theorem State.countStored_sound (s : State) (k : Nat) :
    State.Sound s (State.countStored s k) := by
  unfold State.countStored; grind [State.countPoison_sound]
theorem State.loseStored_sound (s : State) (line : Nat) (j : Nat) :
    State.Sound s (State.loseStored s line j) := by
  unfold State.loseStored; grind [Option.getD_sound]
theorem State.poisonAbsent_sound (s : State) (k : Nat) (n : Nat) :
    State.Sound s (State.poisonAbsent s k n) := by
  unfold State.poisonAbsent; grind [State.poisonSectors_sound, foldl_sound]
theorem State.fillStored_sound (s : State) (line : Nat) (k : Nat) (l : StoredLine) :
    State.Sound s (State.fillStored s line k l) := by
  unfold State.fillStored; grind [State.countStored_sound, writeBytes_wf, State.countPoison_sound, State.loseStored_sound, State.poisonSectors_sound, State.poisonAbsent_sound, State.dieRead_sound]
theorem State.fillSector_sound (s : State) (line : Nat) (k : Nat) (comp : Bool) :
    State.Sound s (State.fillSector s line k comp) := by
  unfold State.fillSector; grind [State.fillStored_sound, State.storePoison_sound, State.countStored_sound, State.loseStored_sound, State.poisonSectors_sound, State.dieRead_sound, State.readRaw_sound]
theorem State.writeBack_sound (s : State) (line : Nat) :
    State.Sound s (State.writeBack s line) := by
  have d : ∀ (u : State) (k : Nat), State.Sound u ((u.dieWrite k).countStored k) := fun u k =>
    (State.dieWrite_sound ..).trans (State.countStored_sound ..)
  have f : ∀ (u : State) (l : List Nat), State.Sound u (l.foldl (fun (s : State) k => s.fillSector line k true) u) := fun u l =>
    foldl_sound _ _ _ fun v k => State.fillSector_sound ..
  unfold State.writeBack
  dsimp only
  split
  · exact ⟨rfl, id⟩
  · split
    · exact (f s _).trans (foldl_sound _ _ _ fun v k => d v (4 * line + k))
    · exact foldl_sound _ _ _ fun v k => d v (4 * line + k)
theorem State.dropLine_sound (s : State) (line : Nat) :
    State.Sound s (State.dropLine s line) := by
  unfold State.dropLine; grind
theorem State.scrubSector_sound (s : State) (k : Nat) :
    State.Sound s (State.scrubSector s k) := by
  unfold State.scrubSector; grind [State.loseStored_sound, State.poisonAbsent_sound, State.poisonSectors_sound, State.dieRead_sound]
theorem State.packetSector_sound (s : State) (comp : Bool) (k : Nat) :
    State.Sound s (State.packetSector s comp k) := by
  unfold State.packetSector; grind [State.fillSector_sound, State.scrubSector_sound]
theorem State.packetRead_sound (s : State) (l : List Nat) (comp : Bool) :
    State.Sound s (State.packetRead s l comp) := by
  unfold State.packetRead
  split
  · exact ⟨rfl, id⟩
  · dsimp only
    split
    · exact foldl_sound _ _ _ fun v k => State.writeBack_sound ..
    · exact (foldl_sound _ _ _ fun v k => State.writeBack_sound ..).trans (foldl_sound _ _ _ fun v k => State.packetSector_sound ..)
theorem State.fillFor_sound (s : State) (pa : Nat) (n : Nat) (comp : Bool) :
    State.Sound s (State.fillFor s pa n comp) := by
  unfold State.fillFor; grind [State.fillSector_sound, foldl_sound]
/-! ### Storage -/

theorem State.noteMigration_sound (s : State) (pa : Nat) :
    State.Sound s (State.noteMigration s pa) := by
  unfold State.noteMigration; grind [State.modStack_sound]
theorem State.fillEnds_sound (s : State) (pa : Nat) (n : Nat) (comp : Bool) :
    State.Sound s (State.fillEnds s pa n comp) := by
  unfold State.fillEnds; grind [State.fillSector_sound]
theorem State.homeLine_sound (s : State) (pa : Nat) (bytes : List Byte) (comp : Bool) :
    State.Sound s (State.homeLine s pa bytes comp) := by
  unfold State.homeLine; grind [writeBytes_wf, State.noteMigration_sound, State.fillEnds_sound]
theorem State.admitBy_sound (s : State) (o : Owner) (pa0 : Nat) (bytes : List Byte) (comp : Bool) :
    State.Sound s (State.admitBy s o pa0 bytes comp) := by
  unfold State.admitBy; grind [State.homeLine_sound, State.sendWrite_sound]
theorem State.admitLine_sound (s : State) (pa : Nat) (bytes : List Byte) (comp : Bool) :
    State.Sound s (State.admitLine s pa bytes comp) := by
  unfold State.admitLine; grind [State.admitBy_sound]
theorem State.admitFuel_sound (x0 : Nat) (x1 : State) (x2 : Nat) (x3 : List Byte) (x4 : Bool) :
    State.Sound x1 (State.admitFuel x0 x1 x2 x3 x4) := by
  induction x0 generalizing x1 x2 x3 x4 <;> unfold State.admitFuel <;> grind [State.admitLine_sound]
theorem State.releaseHeld_sound (s : State) :
    State.Sound s (State.releaseHeld s) := by
  unfold State.releaseHeld; grind [State.admitBy_sound, foldl_sound]
theorem State.admitWrite_sound (s : State) (pa : Nat) (bytes : List Byte) (comp : Bool) :
    State.Sound s (State.admitWrite s pa bytes comp) := by
  unfold State.admitWrite; grind [State.admitFuel_sound]
/-! ### Translate -/

theorem State.fillWalk_sound (s : State) (core : Nat) (asid : Nat) (va : Nat) :
    State.Sound s (State.fillWalk s core asid va) := by
  unfold State.fillWalk; grind [State.fillFor_sound, foldl_sound]
/-! ### Log -/

theorem State.ringPut_sound (s : State) (p : Nat) (d : Nat) (pair : Option Nat) (pos : Nat) (b : List Byte) :
    State.Sound s (State.ringPut s p d pair pos b) := by
  unfold State.ringPut
  dsimp only
  repeat' split
  all_goals first
    | exact ⟨rfl, id⟩
    | exact (State.admitWrite_sound ..).trans (State.admitWrite_sound ..)
theorem State.makeRoom_sound (s : State) (p : Nat) (n : Nat) (d : Nat) (size : Nat) :
    ∀ t, State.makeRoom s p n d size = some t → State.Sound s t := by
  unfold State.makeRoom; grind
theorem State.reserve_sound (s : State) (p : Nat) (n : Nat) (d : Nat) (size : Nat) :
    ∀ t, State.reserve s p n d size = some t → State.Sound s t := by
  unfold State.reserve; grind [State.makeRoom_sound, State.modLaunch_sound, Option.map_eq_some_iff]
theorem State.unreserve_sound (s : State) (p : Nat) (n : Nat) (d : Nat) (size : Nat) :
    State.Sound s (State.unreserve s p n d size) := by
  unfold State.unreserve; grind [State.modLaunch_sound]
theorem State.pushRec_sound (s : State) (p : Nat) (n : Nat) (d : Nat) (r : LogRec) :
    State.Sound s (State.pushRec s p n d r) := by
  unfold State.pushRec; grind [State.ringPut_sound, State.modLaunch_sound]
theorem State.appendRec_sound (s : State) (p : Nat) (n : Nat) (d : Nat) (r : LogRec) :
    ∀ t, State.appendRec s p n d r = some t → State.Sound s t := by
  unfold State.appendRec; grind [State.makeRoom_sound, State.pushRec_sound, Option.map_eq_some_iff]
theorem State.escape_sound (s : State) (q : Nat) (d : Nat) (sub : Nat) (addr : Nat) (size : Nat) :
    ∀ t, State.escape s q d sub addr size = some t → State.Sound s t := by
  unfold State.escape; grind [State.appendRec_sound]
theorem State.undoByte_sound (s : State) (p : Nat) (n : Nat) (space : Nat) (range : Nat) (a : Nat) (b : Byte) :
    State.Sound s (State.undoByte s p n space range a b) := by
  unfold State.undoByte; grind [State.modCore_sound, State.modPad_sound]
theorem State.undoLines_sound (p : Nat) (x0 : Nat) (x1 : State) (x2 : Nat) (x3 : List Byte) :
    State.Sound x1 (State.undoLines p x0 x1 x2 x3) := by
  induction x0 generalizing p x1 x2 x3 <;> unfold State.undoLines <;> grind [State.admitBy_sound]
theorem State.undoWrite_sound (s : State) (p : Nat) (pa : Nat) (bytes : List Byte) :
    State.Sound s (State.undoWrite s p pa bytes) := by
  unfold State.undoWrite; grind [State.undoLines_sound]
theorem State.undoRec_sound (p : Nat) (n : Nat) (s : State) (r : LogRec) :
    State.Sound s (State.undoRec p n s r) := by
  unfold State.undoRec; grind [State.undoByte_sound, State.undoWrite_sound, foldl_sound, State.modPad_sound]
theorem State.undoFrom_sound (s : State) (p : Nat) (n : Nat) (w : Nat) :
    State.Sound s (State.undoFrom s p n w) := by
  unfold State.undoFrom; grind [State.undoRec_sound, foldl_sound, State.modLaunch_sound]
theorem State.putBeside_sound (s : State) (p : Nat) (n : Nat) (window : Nat) (x0 : List Nat) :
    ∀ t, State.putBeside s p n window x0 = some t → State.Sound s t := by
  induction x0 generalizing s p n window <;> unfold State.putBeside <;> grind [State.ringPut_sound, State.modLaunch_sound, State.makeRoom_sound]
theorem State.putSnap_sound (s : State) (p : Nat) (n : Nat) (b : Snap) :
    ∀ t, State.putSnap s p n b = some t → State.Sound s t := by
  unfold State.putSnap; grind [State.makeRoom_sound, State.ringPut_sound, State.modLaunch_sound, State.pushRec_sound, Option.map_eq_some_iff]
/-! ### Ports -/

theorem State.writeOutFuel_sound (x0 : Nat) (x1 : State) (x2 : Owner) (x3 : Nat) (x4 : List Byte) (x5 : Nat) (x6 : Bool) (x7 : Nat) :
    State.Sound x1 (State.writeOutFuel x0 x1 x2 x3 x4 x5 x6 x7) := by
  induction x0 generalizing x1 x2 x3 x4 x5 x6 x7 <;> unfold State.writeOutFuel <;> grind [State.admitLine_sound, State.sendWrite_sound]
theorem State.writeOut_sound (s : State) (o : Owner) (pa : Nat) (bytes : List Byte) (attr : Nat) (comp : Bool) (va : Nat) :
    State.Sound s (State.writeOut s o pa bytes attr comp va) := by
  unfold State.writeOut; grind [State.writeOutFuel_sound]
theorem State.readOld_sound (s : State) (q : Nat) (st : PStore) :
    ∀ t, State.readOld s q st = some t → State.Sound s t := by
  intro t ht
  unfold State.readOld at ht
  obtain ⟨l, -, hl⟩ := List.exists_of_findSome?_eq_some ht
  repeat' split at hl
  all_goals cases hl
  · exact State.request_sound ..
  · exact ⟨rfl, id⟩
theorem State.logStore_sound (s : State) (q : Nat) (st : PStore) :
    State.Sound s (State.logStore s q st) := by
  unfold State.logStore; grind [State.unreserve_sound, State.pushRec_sound]
theorem State.packetWrite_sound (s : State) (parts : List (Nat × List Byte)) (comp : Bool) :
    State.Sound s (State.packetWrite s parts comp) := by
  have a : ∀ (u : State) (l : List Nat), State.Sound u (l.foldl (fun (s : State) l => (s.writeBack l).dropLine l) u) := fun u l =>
    foldl_sound _ _ _ fun v k => (State.writeBack_sound ..).trans (State.dropLine_sound ..)
  unfold State.packetWrite
  dsimp only
  exact fold_state (fold_state (a ..) fun v e => State.admitWrite_sound ..) fun v k =>
    (State.writeBack_sound ..).trans (State.dropLine_sound ..)
theorem State.commitStore_sound (s : State) (q : Nat) (st : PStore) : State.Sound s (State.commitStore s q st) := by
  unfold State.commitStore
  dsimp only
  have h : State.Sound s ((if (st.packet && st.entry.isSome) = true then s.packetRead (st.parts.map Prod.fst) st.comp else s).logStore q st) := by
    refine State.Sound.trans ?_ (State.logStore_sound ..)
    split
    · exact State.packetRead_sound ..
    · exact ⟨rfl, id⟩
  split
  · exact fold_state h fun v e => State.modPad_sound ..
  · split
    · exact h.trans (State.packetWrite_sound ..)
    · exact fold_pair h fun v e => by dsimp only; exact State.writeOut_sound ..
/-! ### Streams -/

theorem State.modStream_sound (s : State) (desc : Nat) (f : Stream → Stream) :
    State.Sound s (State.modStream s desc f) := by
  unfold State.modStream; grind
theorem State.fillSlots_sound (s : State) (desc : Nat) (d : PDesc) (l : List (Nat × Nat)) :
    State.Sound s (State.fillSlots s desc d l) := by
  unfold State.fillSlots; grind [State.fillFor_sound, foldl_sound]
theorem State.truncateWindow_sound (s : State) (p : Nat) (n : Nat) (desc : Nat) (before : Nat) :
    State.Sound s (State.truncateWindow s p n desc before) := by
  unfold State.truncateWindow
  split
  · exact ⟨rfl, id⟩
  · exact ((State.modLaunch_sound s p n Launch.truncate).trans (Option.getD_sound (State.makeRoom_sound _ p n _ 24))).trans
      (State.pushRec_sound ..)
theorem State.poisonRun_sound (s : State) (pa : Nat) (n : Nat) :
    State.Sound s (State.poisonRun s pa n) := by
  unfold State.poisonRun; grind
theorem State.writeSlot_sound (s : State) (desc : Nat) (d : PDesc) (j : Nat) (k : Nat) (bytes : List Byte) (bad : Bool) (before : Nat) :
    State.Sound s (State.writeSlot s desc d j k bytes bad before) := by
  unfold State.writeSlot; grind [State.poisonRun_sound, State.admitWrite_sound, State.truncateWindow_sound]
theorem State.mergeLevel_sound (s : State) (desc : Nat) (d : PDesc) (before : Nat) (j : Nat) (q : Nat) :
    State.Sound s (State.mergeLevel s desc d before j q) := by
  unfold State.mergeLevel; grind [State.modStream_sound, State.fillSlots_sound]
theorem State.appendItems_sound (desc : Nat) (d : PDesc) (before : Nat) (x0 : List (List Byte)) (x1 : Nat) (x2 : State) :
    State.Sound x2 (State.appendItems desc d before x0 x1 x2) := by
  induction x0 generalizing desc d before x1 x2 <;> unfold State.appendItems <;> grind [State.mergeLevel_sound, foldl_sound, State.writeSlot_sound]
theorem State.writePending_sound (s : State) (desc : Nat) (d : PDesc) (p : PendSpan) :
    State.Sound s (State.writePending s desc d p) := by
  unfold State.writePending; grind [State.writeSlot_sound, State.modStream_sound]
theorem State.flushStream_sound (s : State) (desc : Nat) :
    State.Sound s (State.flushStream s desc) := by
  unfold State.flushStream; grind [State.writePending_sound, foldl_sound, State.modStream_sound]
theorem State.flushStreams_sound (s : State) :
    State.Sound s (State.flushStreams s) := by
  unfold State.flushStreams; grind [State.flushStream_sound, foldl_sound]
theorem State.streamsAfterUndo_sound (s : State) (p : Nat) (n : Nat) (w : Nat) :
    State.Sound s (State.streamsAfterUndo s p n w) := by
  unfold State.streamsAfterUndo; grind
/-! ### Fetch -/

theorem State.movePc_sound (s : State) (q : Nat) (m : Move) :
    State.Sound s (State.movePc s q m) := by
  unfold State.movePc; grind [State.modSeq_sound]
theorem State.fillCode_sound (s : State) (q : Nat) (pc : Word) :
    State.Sound s (State.fillCode s q pc) := by
  unfold State.fillCode; grind [State.fillFor_sound, foldl_sound]
/-! ### Launches -/

theorem State.raiseVector_sound (s : State) (p : Nat) (v : Nat) :
    State.Sound s (State.raiseVector s p v) := by
  unfold State.raiseVector; grind [State.modPart_sound]
theorem State.journal_sound (s : State) (p : Nat) (n : Nat) :
    State.Sound s (State.journal s p n) := by
  unfold State.journal; grind [State.admitWrite_sound]
theorem State.modBarrier_sound (s : State) (c : Nat) (b : Nat) (f : Barrier → Barrier) :
    State.Sound s (State.modBarrier s c b f) := by
  unfold State.modBarrier; grind [State.modPad_sound]
theorem State.signal_sound (s : State) (c : Nat) (b : Nat) (w : Nat) (err : Bool) :
    State.Sound s (State.signal s c b w err) := by
  unfold State.signal; grind [State.modBarrier_sound]
theorem State.unbindAll_sound (s : State) (q : Nat) :
    State.Sound s (State.unbindAll s q) := by
  unfold State.unbindAll; grind [State.flushStreams_sound, State.modSeq_sound]
theorem State.debugHalt_sound (s : State) (p : Nat) (n : Nat) :
    State.Sound s (State.debugHalt s p n) := by
  unfold State.debugHalt; grind [State.modPart_sound]
theorem State.endReplay_sound (s : State) (q : Nat) :
    State.Sound s (State.endReplay s q) := by
  unfold State.endReplay; grind [State.debugHalt_sound, State.modPart_sound]
theorem State.keepBars_sound (s : State) (q : Nat) :
    State.Sound s (State.keepBars s q) := by
  unfold State.keepBars; grind [State.modLaunch_sound]
theorem State.freeSlot_sound (s0 : State) (q : Nat) :
    State.Sound s0 (State.freeSlot s0 q) := by
  unfold State.freeSlot; grind [State.setSeq_sound, State.modCluster_sound, State.modPart_sound, State.modCore_sound, State.endReplay_sound, State.keepBars_sound]
theorem State.releaseSlot_sound (s : State) (q : Nat) :
    State.Sound s (State.releaseSlot s q) := by
  unfold State.releaseSlot; grind [State.unbindAll_sound, State.freeSlot_sound]
theorem State.endCommands_sound (s : State) (p : Nat) (n : Nat) :
    State.Sound s (State.endCommands s p n) := by
  unfold State.endCommands; grind [State.signal_sound, State.modCluster_sound, foldl_sound]
theorem State.pokeVa_sound (s : State) (q : Nat) (asid : Nat) (va : Nat) (bytes : List Byte) :
    State.Sound s (State.pokeVa s q asid va bytes) := by
  unfold State.pokeVa; grind [State.admitWrite_sound]
theorem State.setCword_sound (s : State) (q : Nat) (p : Nat) (n : Nat) (f : Nat → Nat) :
    ∀ t, State.setCword s q p n f = .ok t → State.Sound s t := by
  unfold State.setCword; grind [State.modLaunch_sound, State.writeOut_sound]
theorem State.resolve_sound (s : State) (p : Nat) (n : Nat) (out : Nat) :
    State.Sound s (State.resolve s p n out) := by
  unfold State.resolve; grind
theorem State.dequeue_sound (s : State) (p : Nat) (n : Nat) :
    State.Sound s (State.dequeue s p n) := by
  unfold State.dequeue; grind [State.modPart_sound]
theorem State.markFailed_sound (s : State) (p : Nat) (n : Nat) (cause : Nat) :
    State.Sound s (State.markFailed s p n cause) := by
  unfold State.markFailed; grind [State.journal_sound, State.raiseVector_sound, State.resolve_sound, State.modPart_sound, State.dequeue_sound, State.modLaunch_sound]
theorem State.failUnrun_sound (s : State) (p : Nat) (n : Nat) :
    State.Sound s (State.failUnrun s p n) := by
  unfold State.failUnrun; grind [State.markFailed_sound, State.setCword_sound]
theorem State.failDependents_sound (s : State) (p : Nat) (x0 : Nat) :
    State.Sound s (State.failDependents s p x0) := by
  induction x0 generalizing s p <;> unfold State.failDependents <;> grind [State.failUnrun_sound]
theorem State.withdrawNexts_sound (s : State) (p : Nat) (n : Nat) :
    State.Sound s (State.withdrawNexts s p n) := by
  unfold State.withdrawNexts; grind
theorem State.dropShadows_sound (s : State) (p : Nat) (n : Nat) :
    State.Sound s (State.dropShadows s p n) := by
  unfold State.dropShadows; grind [Option.map_eq_some_iff]
theorem State.dropBindings_sound (s : State) (p : Nat) (n : Nat) :
    State.Sound s (State.dropBindings s p n) := by
  unfold State.dropBindings; grind [State.flushStreams_sound]
theorem State.endFailed_sound (s : State) (p : Nat) (n : Nat) (cause : Nat) : State.Sound s (State.endFailed s p n cause) := by
  unfold State.endFailed
  have h : State.Sound s (s.modLaunch p n fun l => { l with failing := none }) := State.modLaunch_sound ..
  have fin : ∀ (t u : State) (c k : Nat), State.Sound s t → State.Sound t u → State.Sound s
      (((((u.withdrawNexts p n).dropShadows p n).dropBindings p n).markFailed p n c).failDependents p k) := by
    intro t u c k h1 h2
    grind [State.withdrawNexts_sound, State.dropShadows_sound, State.dropBindings_sound, State.markFailed_sound, State.failDependents_sound]
  dsimp only
  split
  next s' heq => exact fin _ _ _ _ (h.trans (State.setCword_sound _ _ _ _ _ _ heq)) (fold_state ⟨rfl, id⟩ fun v b => State.releaseSlot_sound ..)
  · exact fin _ _ _ _ h (fold_state ⟨rfl, id⟩ fun v b => State.releaseSlot_sound ..)
theorem State.haltFailed_sound (s : State) (p : Nat) (n : Nat) (cause : Nat) :
    State.Sound s (State.haltFailed s p n cause) := by
  unfold State.haltFailed; grind [State.modLaunch_sound, State.endCommands_sound]
theorem State.failLaunch_sound (s : State) (p : Nat) (n : Nat) (cause : Nat) : State.Sound s (State.failLaunch s p n cause) := by
  unfold State.failLaunch
  dsimp only
  split
  · exact State.haltFailed_sound ..
  · exact (State.haltFailed_sound ..).trans (State.endFailed_sound ..)
theorem State.finishFailing_sound (s : State) :
    State.Sound s (State.finishFailing s) := by
  unfold State.finishFailing; grind [State.endFailed_sound]
theorem State.finishUndo_sound (s : State) :
    State.Sound s (State.finishUndo s) := by
  unfold State.finishUndo; grind
theorem State.completeLaunch_sound (s : State) (q : Nat) (p : Nat) (n : Nat) :
    State.Sound s (State.completeLaunch s q p n) := by
  unfold State.completeLaunch; grind [State.resolve_sound, State.raiseVector_sound, State.journal_sound, State.modPart_sound, State.modLaunch_sound, State.markFailed_sound, State.failDependents_sound, State.setCword_sound]
theorem State.setEntry_sound (s : State) (q : Nat) :
    State.Sound s (State.setEntry s q) := by
  unfold State.setEntry; grind [State.modSeq_sound, State.setSeq_sound]
/-! ### Ops -/

theorem State.endStep_sound (s : State) :
    State.Sound s (State.endStep s) := by
  unfold State.endStep; grind
theorem State.passTime_sound (s : State) (q : Nat) :
    State.Sound s (State.passTime s q) := by
  unfold State.passTime; grind [State.modSeq_sound]
theorem State.takeTrap_sound (s : State) (q : Nat) (t : Trap) :
    State.Sound s (State.takeTrap s q t) := by
  unfold State.takeTrap; grind [State.setSeq_sound, State.failLaunch_sound, State.modSeq_sound, State.debugHalt_sound, State.modLaunch_sound]
theorem State.complete_sound (s : State) (q : Nat) (m : Move) :
    State.Sound s (State.complete s q m) := by
  unfold State.complete; grind [State.passTime_sound, State.movePc_sound, State.modSeq_sound, State.dropReads_sound]
theorem State.finish_sound (s : State) (q : Nat) (r : UnitRes) (h : UnitRes.Sound s r) : State.Sound s (State.finish q r) := by
  cases r <;> refine State.Sound.trans h ?_ <;> unfold State.finish
  · exact (State.complete_sound ..).trans (State.endStep_sound _)
  · exact ((State.complete_sound ..).trans (State.takeTrap_sound ..)).trans (State.endStep_sound _)
  · exact (((State.passTime_sound ..).trans (State.dropReads_sound ..)).trans (State.takeTrap_sound ..)).trans (State.endStep_sound _)
  · exact (State.passTime_sound ..).trans (State.endStep_sound _)
  · exact State.endStep_sound _
theorem State.issue_sound (s : State) (q : Nat) :
    State.Sound s (State.issue s q) := by
  unfold State.issue; grind [State.modCore_sound]
theorem runUnit_sound (s : State) (f : State → Nat → UnitRes) (h : ∀ u, UnitRes.Sound u (f u s.turn)) :
    ∀ t, runUnit s f = .next t → State.Sound s t := by
  intro t ht
  injection ht with ht
  subst ht
  exact (State.issue_sound s s.turn).trans (State.finish_sound _ _ _ (h _))
theorem seqUnit_sound (s : State) (f : Seq → Seq) : ∀ t, seqUnit s f = .next t → State.Sound s t :=
  runUnit_sound s _ fun u => State.modSeq_sound ..
theorem State.illegal_sound (s : State) (q : Nat) (pos : Nat) :
    UnitRes.Sound s (State.illegal s q pos) := by
  unfold State.illegal; grind [UnitRes.state]
theorem State.asideTrap_sound (s : State) (q : Nat) (cause : Nat) (tval : Word) :
    UnitRes.Sound s (State.asideTrap s q cause tval) := by
  unfold State.asideTrap; grind [UnitRes.state]
theorem State.leaveTrap_sound (s : State) (q : Nat) :
    State.Sound s (State.leaveTrap s q) := by
  unfold State.leaveTrap; grind [State.setSeq_sound]
theorem State.bring_sound (s : State) (o : Owner) (pa : Nat) (n : Nat) (attr : Nat) (va : Nat) (comp : Bool) :
    State.Sound s (State.bring s o pa n attr va comp) := by
  unfold State.bring; grind [State.fillFor_sound, State.request_sound]
theorem State.fillTables_sound (s : State) (q : Nat) (va : Nat) :
    State.Sound s (State.fillTables s q va) := by
  unfold State.fillTables; grind [State.fillWalk_sound]
theorem State.fillMarks_sound (s : State) (q : Nat) :
    State.Sound s (State.fillMarks s q) := by
  unfold State.fillMarks; grind [State.fillFor_sound, foldl_sound]
theorem State.readVaFuel_sound (s : State) (q : Nat) (x0 : Nat) (x1 : Nat) (x2 : Nat) (x3 : List Byte) :
    ∀ t, State.readVaFuel s q x0 x1 x2 x3 = .wait t → State.Sound s t := by
  induction x0 generalizing s q x1 x2 x3 <;> unfold State.readVaFuel <;> grind [State.bring_sound, Option.getD_sound, State.fillTables_sound]
theorem State.readVa_sound (s : State) (q : Nat) (va : Nat) (n : Nat) :
    ∀ t, State.readVa s q va n = .wait t → State.Sound s t := by
  unfold State.readVa; grind [State.readVaFuel_sound]
theorem State.bufferStore_sound (s : State) (q : Nat) (x : Xlat) (bytes : List Byte) (release : Bool) (strong : Bool) :
    ∀ t, State.bufferStore s q x bytes release strong = some t → State.Sound s t := by
  unfold State.bufferStore; grind [State.reserve_sound, State.escape_sound, Option.map_eq_some_iff, State.modSeq_sound]
theorem State.logPad_sound (s : State) (p : Nat) (n : Nat) (log : Nat) (window : Nat) (writer : Nat) (c : Nat) (kind : Nat) (extra : Nat) (locs : List Nat) :
    ∀ t, State.logPad s p n log window writer c kind extra locs = some t → State.Sound s t := by
  unfold State.logPad; grind [State.appendRec_sound]
theorem State.logFlat_sound (s : State) (p : Nat) (n : Nat) (log : Nat) (window : Nat) (writer : Nat) (c : Nat) (kind : Nat) (locs : List Nat) :
    ∀ t, State.logFlat s p n log window writer c kind locs = some t → State.Sound s t := by
  unfold State.logFlat
  split
  · rintro t ⟨⟩; exact ⟨rfl, id⟩
  · refine fold_option (by rintro t ⟨⟩; exact ⟨rfl, id⟩) fun v b t h => ?_
    obtain ⟨u, hu, g⟩ := Option.bind_eq_some_iff.1 h
    exact ⟨u, hu, State.logPad_sound _ _ _ _ _ _ _ _ _ _ _ g⟩
theorem State.bufferPad_sound (s : State) (q : Nat) (kind : Nat) (extra : Nat) (st : PStore) :
    ∀ t, State.bufferPad s q kind extra st = some t → State.Sound s t := by
  unfold State.bufferPad; grind [State.reserve_sound, Option.map_eq_some_iff, State.modSeq_sound]
theorem State.storePad_sound (s : State) (q : Nat) (o : Nat) (bytes : List Byte) :
    ∀ t, State.storePad s q o bytes = some t → State.Sound s t := by
  unfold State.storePad; grind [State.bufferPad_sound, State.logPad_sound, State.modPad_sound, Option.map_eq_some_iff, State.modSeq_sound]
theorem State.storeVaFuel_sound (q : Nat) (x0 : Nat) (x1 : State) (x2 : Nat) (x3 : List Byte) :
    ∀ t, State.storeVaFuel q x0 x1 x2 x3 = some t → State.Sound x1 t := by
  induction x0 generalizing q x1 x2 x3 <;> unfold State.storeVaFuel <;> grind [State.bufferStore_sound, State.storePad_sound]
theorem State.wordTrap_sound (s : State) (q : Nat) (cause : Nat) (pos : Nat) :
    UnitRes.Sound s (State.wordTrap s q cause pos) := by
  unfold State.wordTrap; grind [UnitRes.state]
theorem State.frozenTrap_sound (s : State) (q : Nat) (pos : Nat) :
    UnitRes.Sound s (State.frozenTrap s q pos) := by
  unfold State.frozenTrap; grind [State.wordTrap_sound, UnitRes.state]
theorem State.peerFault_sound (s : State) (q : Nat) (pos : Nat) :
    ∀ r, State.peerFault s q pos = some r → UnitRes.Sound s r := by
  unfold State.peerFault; grind [State.modSeq_sound, UnitRes.state]
theorem State.releaseFault_sound (s : State) (q : Nat) (pa : Nat) (release : Bool) :
    ∀ r, State.releaseFault s q pa release = some r → UnitRes.Sound s r := by
  unfold State.releaseFault; grind [State.peerFault_sound, UnitRes.state]
theorem State.logFull_sound (s : State) (q : Nat) (pos : Nat) :
    UnitRes.Sound s (State.logFull s q pos) := by
  unfold State.logFull; grind [UnitRes.state]
/-! ### Operands -/

/-! ### Branch -/

theorem branchB_sound (f : Word → Word → Bool) (a : Reg) (b : Reg) (n : Nul) (d : BitVec 11) (s : State) :
    ∀ t, branchB f a b n d s = .next t → State.Sound s t := by
  unfold branchB; exact runUnit_sound s _ fun u => by dsimp only; grind [runUnit_sound, UnitRes.state, runUnit_sound]
theorem branchQ_sound (want : Bool) (n : Nul) (d : BitVec 11) (s : State) :
    ∀ t, branchQ want n d s = .next t → State.Sound s t := by
  unfold branchQ; exact runUnit_sound s _ fun u => by dsimp only; grind [State.modSeq_sound, State.illegal_sound, runUnit_sound, UnitRes.state, runUnit_sound]
theorem withLink_sound (s : State) (q : Nat) (f : Word → UnitRes) (h : ∀ v, UnitRes.Sound s (f v)) :
    UnitRes.Sound s (withLink s q f) := by
  unfold withLink; grind [UnitRes.state]
/-! ### Flags -/

theorem State.modFflags_sound (s : State) (q : Nat) (f : FFlags → FFlags) :
    State.Sound s (State.modFflags s q f) := by
  unfold State.modFflags; grind [foldl_sound, State.modCore_sound, State.modSeq_sound]
/-! ### VType -/

theorem State.keepGroups_sound (s : State) (q : Nat) (c : Nat) :
    State.Sound s (State.keepGroups s q c) := by
  unfold State.keepGroups; grind [State.modSeq_sound, State.modCore_sound, foldl_sound]
theorem State.applyReclaim_sound (s : State) (q : Nat) :
    State.Sound s (State.applyReclaim s q) := by
  unfold State.applyReclaim; grind [State.keepGroups_sound, State.modSeq_sound]
/-! ### Csr -/

theorem csrUnit_sound (op : CsrOp) (d : Reg) (a : Reg) (c : BitVec 14) (s : State) :
    ∀ t, csrUnit op d a c s = .next t → State.Sound s t := by
  unfold csrUnit; exact runUnit_sound s _ fun u => by dsimp only; grind [State.modFflags_sound, State.modSeq_sound, State.illegal_sound, runUnit_sound, UnitRes.state, runUnit_sound]
/-! ### System -/

theorem State.reclaimArea_sound (s : State) (q : Nat) (b : List Byte) (k : Queues) :
    State.Sound s (State.reclaimArea s q b k) := by
  unfold State.reclaimArea; grind [State.modSeq_sound, State.modCore_sound]
theorem setVl_sound (d : Reg) (b : Reg) (request : Option Reg) (s : State) :
    ∀ t, setVl d b request s = .next t → State.Sound s t := by
  unfold setVl; exact runUnit_sound s _ fun u => by dsimp only; grind [State.modSeq_sound, State.wordTrap_sound, State.applyReclaim_sound, State.frozenTrap_sound, runUnit_sound, UnitRes.state, runUnit_sound]
/-! ### Windows -/

theorem State.tagFault_sound (s : State) (q : Nat) (t : Nat) :
    ∀ r, State.tagFault s q t = some r → UnitRes.Sound s r := by
  unfold State.tagFault; grind [State.modSeq_sound, UnitRes.state]
theorem State.heldFault_sound (s : State) (q : Nat) :
    ∀ r, State.heldFault s q = some r → UnitRes.Sound s r := by
  unfold State.heldFault; grind [State.tagFault_sound, State.peerFault_sound, UnitRes.state]
theorem State.holdLaunch_sound (s : State) (p : Nat) (n : Nat) :
    State.Sound s (State.holdLaunch s p n) := by
  unfold State.holdLaunch; grind [State.journal_sound, State.modPart_sound, State.modLaunch_sound]
theorem State.preemptWindow_sound (s : State) (p : Nat) (n : Nat) :
    State.Sound s (State.preemptWindow s p n) := by
  unfold State.preemptWindow; grind [State.freeSlot_sound, foldl_sound, State.holdLaunch_sound, State.modLaunch_sound, State.putBeside_sound]
theorem State.openWindow_sound (s : State) (p : Nat) (n : Nat) :
    State.Sound s (State.openWindow s p n) := by
  unfold State.openWindow
  split
  · exact ⟨rfl, id⟩
  next l _ =>
    have h : ∀ (m : Launch → Launch) (f : State → Nat → State) (qs : List Nat), (∀ t q, State.Sound t (f t q)) → State.Sound s
        (qs.foldl f ((l.snaps.filter (l.yieldsLarder (l.winno + 1))).foldl
          (fun (s : State) b => s.ringPut p b.die l.ringPair b.pos b.dropLarder.bytes) (s.modLaunch p n m))) := fun m f qs k =>
      fold_state (fold_state (State.modLaunch_sound ..) fun v b => State.ringPut_sound ..) k
    dsimp only
    split
    · exact State.Sound.trans (h _ _ _ fun t q => State.modSeq_sound ..) (State.preemptWindow_sound ..)
    · exact h _ _ _ fun t q => State.modSeq_sound ..
theorem State.tryOpen_sound (s : State) (p : Nat) (n : Nat) :
    State.Sound s (State.tryOpen s p n) := by
  unfold State.tryOpen; grind [State.preemptWindow_sound, State.openWindow_sound]
theorem State.stopAtMark_sound (s : State) (q : Nat) (vmask : Word) (flags : Word) :
    ∀ t, State.stopAtMark s q vmask flags = some t → State.Sound s t := by
  unfold State.stopAtMark
  dsimp only
  intro t h
  split at h
  · exact nomatch h
  split at h
  · exact nomatch h
  obtain ⟨u, hu, rfl⟩ := Option.map_eq_some_iff.1 h
  obtain ⟨v, hv, hw⟩ := Option.bind_eq_some_iff.1 hu
  have h1 : State.Sound s u := by
    have h2 := ((State.modPart_sound ..).trans (State.modLaunch_sound ..)).trans (State.putSnap_sound _ _ _ _ _ hv)
    split at hw
    · cases hw; exact h2
    · exact h2.trans (State.putBeside_sound _ _ _ _ _ _ hw)
  split
  · exact h1.trans ((State.modSeq_sound ..).trans (State.tryOpen_sound ..))
  · exact h1.trans ((State.freeSlot_sound ..).trans (State.holdLaunch_sound ..))
theorem State.logEnd_sound (s : State) (q : Nat) (pa : Nat) (attr : Word) :
    ∀ t, State.logEnd s q pa attr = some t → State.Sound s t := by
  unfold State.logEnd; grind [State.appendRec_sound, State.escape_sound]
theorem State.endSeq_sound (s : State) (q : Nat) (p : Nat) (n : Nat) :
    State.Sound s (State.endSeq s q p n) := by
  unfold State.endSeq; grind [State.tryOpen_sound, State.completeLaunch_sound, State.modLaunch_sound, State.releaseSlot_sound, State.modSeq_sound, State.setCword_sound]
theorem State.restoreSeq_sound (s : State) (q : Nat) (b : Snap) (g : BitVec 4) :
    State.Sound s (State.restoreSeq s q b g) := by
  unfold State.restoreSeq; grind [State.modCore_sound, State.modSeq_sound]
/-! ### FpOps -/

/-! ### VCore -/

theorem VWork.put_sound (w : VWork) (r : Reg) (ew : Nat) (p : Pos) (x : Nat) :
    VWork.Sound w (VWork.put w r ew p x) := by
  unfold VWork.put; grind
theorem VWork.rest_sound (w : VWork) (zero : Bool) (r : Reg) (ew : Nat) (p : Pos) :
    VWork.Sound w (VWork.rest w zero r ew p) := by
  unfold VWork.rest; grind
theorem VWork.flag_sound (w : VWork) (ew : Nat) (p : Pos) (f : FFlags) :
    VWork.Sound w (VWork.flag w ew p f) := by
  unfold VWork.flag; grind
theorem VWork.scalarFlag_sound (w : VWork) (f : FFlags) :
    VWork.Sound w (VWork.scalarFlag w f) := by
  unfold VWork.scalarFlag; grind [State.modSeq_sound]
theorem VWork.setS_sound (w : VWork) (r : Reg) (v : Word) :
    VWork.Sound w (VWork.setS w r v) := by
  unfold VWork.setS; grind [State.modSeq_sound]
theorem VWork.fault_sound (w : VWork) (f : VFault) :
    VWork.Sound w (VWork.fault w f) := by
  unfold VWork.fault; grind
theorem VWork.poison_sound (w : VWork) (p : Pos) :
    VWork.Sound w (VWork.poison w p) := by
  unfold VWork.poison; grind [VWork.fault_sound]
theorem VWork.before_sound (w : VWork) :
    State.Sound w.orig (VWork.before w) := by
  unfold VWork.before; grind
theorem VWork.maskPoison_sound (w : VWork) (ms : List Nat) :
    VWork.Sound w (VWork.maskPoison w ms) := by
  unfold VWork.maskPoison; grind [VWork.poison_sound, foldl_sound, foldl_work_sound]
theorem VWork.mapElems_sound (w : VWork) (d : Reg) (ew : Nat) (m : MReg) (f : ElemFn) (extra : List Pos) :
    VWork.Sound w (VWork.mapElems w d ew m f extra) := by
  unfold VWork.mapElems
  exact fold_work (fold_work (VWork.sound_refl w) fun v p => by grind [VWork.put_sound, VWork.flag_sound, VWork.poison_sound, VWork.rest_sound, VWork.scalarFlag_sound, VWork.fault_sound, VWork.setS_sound]) fun v p => VWork.rest_sound ..
theorem VWork.mapMask_sound (w : VWork) (d : Nat) (m : MReg) (f : VWork → Pos → Option (Bool × FFlags)) :
    VWork.Sound w (VWork.mapMask w d m f) := by
  unfold VWork.mapMask
  exact fold_work (fold_work (VWork.sound_refl w) fun v p => by grind [VWork.put_sound, VWork.flag_sound, VWork.poison_sound, VWork.rest_sound, VWork.scalarFlag_sound, VWork.fault_sound, VWork.setS_sound]) fun v p => by grind
/-! ### VArith -/

theorem VWork.runInt_sound (w : VWork) (form : VForm) (fn : VIntFn) (d : Reg) (a : Reg) (b : Reg) (m : MReg) :
    VWork.Sound w (VWork.runInt w form fn d a b m) := by
  unfold VWork.runInt; grind [VWork.mapElems_sound, Option.map_eq_some_iff, VWork.mapMask_sound]
theorem VWork.runFp_sound (w : VWork) (f : Fmt) (scalar : Bool) (fn : VFpFn) (d : Reg) (a : Reg) (b : Reg) (m : MReg) :
    VWork.Sound w (VWork.runFp w f scalar fn d a b m) := by
  unfold VWork.runFp; grind [VWork.mapElems_sound, VWork.mapMask_sound]
theorem VWork.runCvt_sound (w : VWork) (fs : Fmt) (fd : Fmt) (sat : Bool) (d : Reg) (a : Reg) (m : MReg) :
    VWork.Sound w (VWork.runCvt w fs fd sat d a m) := by
  unfold VWork.runCvt; grind [VWork.mapElems_sound]
theorem VWork.runQnt_sound (w : VWork) (fs : Fmt) (fd : Fmt) (d : Reg) (a : Reg) (b : Reg) (m : MReg) :
    VWork.Sound w (VWork.runQnt w fs fd d a b m) := by
  unfold VWork.runQnt; grind [VWork.mapElems_sound]
theorem VWork.runHad_sound (w : VWork) (f : Fmt) (d : Reg) (a : Reg) (imm : Nat) (m : MReg) :
    VWork.Sound w (VWork.runHad w f d a imm m) := by
  unfold VWork.runHad; grind [VWork.mapElems_sound]
theorem VWork.runHash_sound (w : VWork) (d : Reg) (a : Reg) (b : Reg) (m : MReg) :
    VWork.Sound w (VWork.runHash w d a b m) := by
  unfold VWork.runHash; grind [VWork.mapElems_sound]
theorem VWork.runIota_sound (w : VWork) (d : Reg) (b : Reg) (m : MReg) :
    VWork.Sound w (VWork.runIota w d b m) := by
  unfold VWork.runIota; grind [VWork.mapElems_sound]
theorem VWork.runWide_sound (w : VWork) (fn : VwFn) (d : Reg) (a : Reg) (b : Reg) (m : MReg) :
    VWork.Sound w (VWork.runWide w fn d a b m) := by
  unfold VWork.runWide; grind [VWork.mapElems_sound]
/-! ### VPerm -/

theorem VWork.runMove_sound (w : VWork) (d : Reg) (m : MReg) (f : VWork → Pos → Take) :
    VWork.Sound w (VWork.runMove w d m f) := by
  unfold VWork.runMove
  exact fold_work (fold_work (VWork.sound_refl w) fun v p => by grind [VWork.put_sound, VWork.flag_sound, VWork.poison_sound, VWork.rest_sound, VWork.scalarFlag_sound, VWork.fault_sound, VWork.setS_sound]) fun v p => VWork.rest_sound ..
theorem VWork.runCmpr_sound (w : VWork) (d : Reg) (a : Reg) (m : MReg) :
    VWork.Sound w (VWork.runCmpr w d a m) := by
  unfold VWork.runCmpr
  exact fold_work (fold_work (fold_work (VWork.sound_refl w) fun v p => by grind [VWork.put_sound, VWork.flag_sound, VWork.poison_sound, VWork.rest_sound, VWork.scalarFlag_sound, VWork.fault_sound, VWork.setS_sound]) fun v p => VWork.put_sound ..)
    fun v p => by grind [VWork.put_sound, VWork.flag_sound, VWork.poison_sound, VWork.rest_sound, VWork.scalarFlag_sound, VWork.fault_sound, VWork.setS_sound]
theorem VWork.runExpd_sound (w : VWork) (d : Reg) (a : Reg) (m : MReg) :
    VWork.Sound w (VWork.runExpd w d a m) := by
  unfold VWork.runExpd
  exact fold_work (fold_work (fold_work (VWork.sound_refl w) fun v p => by grind [VWork.put_sound, VWork.flag_sound, VWork.poison_sound, VWork.rest_sound, VWork.scalarFlag_sound, VWork.fault_sound, VWork.setS_sound]) fun v p => by grind [VWork.put_sound, VWork.flag_sound, VWork.poison_sound, VWork.rest_sound, VWork.scalarFlag_sound, VWork.fault_sound, VWork.setS_sound])
    fun v p => VWork.rest_sound ..
theorem VWork.runSort_sound (w : VWork) (f : Fmt) (d : Reg) (a : Reg) (b : Option Reg) (m : MReg) :
    VWork.Sound w (VWork.runSort w f d a b m) := by
  unfold VWork.runSort
  exact (fold_work (fold_work (fold_work (VWork.sound_refl w) fun v p => by grind [VWork.put_sound, VWork.flag_sound, VWork.poison_sound, VWork.rest_sound, VWork.scalarFlag_sound, VWork.fault_sound, VWork.setS_sound]) fun v p => by grind [VWork.put_sound, VWork.flag_sound, VWork.poison_sound, VWork.rest_sound, VWork.scalarFlag_sound, VWork.fault_sound, VWork.setS_sound])
    fun v p => VWork.rest_sound ..).trans (VWork.scalarFlag_sound ..)
theorem VWork.poisonActive_sound (w : VWork) (a : Reg) (m : MReg) :
    VWork.Sound w (VWork.poisonActive w a m) := by
  unfold VWork.poisonActive; grind [VWork.poison_sound, foldl_sound, foldl_work_sound]
theorem VWork.runReduce_sound (w : VWork) (fn : VpFn) (f : Fmt) (d : Reg) (a : Reg) (b : Reg) (m : MReg) :
    VWork.Sound w (VWork.runReduce w fn f d a b m) := by
  unfold VWork.runReduce; grind [VWork.poisonActive_sound, VWork.setS_sound, VWork.scalarFlag_sound]
theorem VWork.runScan_sound (w : VWork) (fn : VpFn) (f : Fmt) (d : Reg) (a : Reg) (b : Reg) (m : MReg) :
    VWork.Sound w (VWork.runScan w fn f d a b m) := by
  unfold VWork.runScan
  exact fold_work (fold_work ((VWork.poisonActive_sound ..).trans (VWork.scalarFlag_sound ..)) fun v p => by grind [VWork.put_sound, VWork.flag_sound, VWork.poison_sound, VWork.rest_sound, VWork.scalarFlag_sound, VWork.fault_sound, VWork.setS_sound])
    fun v p => VWork.rest_sound ..
theorem VWork.runMask_sound (w : VWork) (d : Nat) (f : VWork → Pos → Bool) :
    VWork.Sound w (VWork.runMask w d f) := by
  unfold VWork.runMask
  exact fold_work (fold_work (VWork.sound_refl w) fun v p => ⟨rfl, id⟩) fun v p => by grind
theorem VWork.putS_sound (w : VWork) (r : Reg) (v : Word) :
    VWork.Sound w (VWork.putS w r v) := by
  unfold VWork.putS; grind [VWork.setS_sound]
theorem VWork.runPerm_sound (w : VWork) (f : Fmt) (fn : VpFn) (d : Reg) (a : Reg) (b : Reg) (m : MReg) :
    VWork.Sound w (VWork.runPerm w f fn d a b m) := by
  have g : VWork.Sound w (w.body.foldl (fun o p => if w.active m p && w.srcBad b w.ew p then o.poison p else o) w) :=
    foldl_work_sound _ _ _ fun v p => by
      split
      · exact VWork.poison_sound ..
      · exact VWork.sound_refl _
  unfold VWork.runPerm
  dsimp only
  repeat' split
  all_goals with_reducible first
    | exact VWork.runMove_sound .. | exact g.trans (VWork.runMove_sound ..) | exact VWork.runMask_sound ..
    | exact VWork.runCmpr_sound .. | exact VWork.runExpd_sound .. | exact VWork.runSort_sound ..
    | exact VWork.runReduce_sound .. | exact VWork.runScan_sound .. | exact VWork.putS_sound .. | exact VWork.setS_sound ..
    | exact VWork.poison_sound .. | exact VWork.put_sound .. | exact VWork.sound_refl _
theorem VWork.permEmpty_sound (w : VWork) (f : Option Fmt) (fn : VpFn) (d : Reg) (b : Reg) :
    VWork.Sound w (VWork.permEmpty w f fn d b) := by
  unfold VWork.permEmpty; grind [VWork.scalarFlag_sound, VWork.setS_sound]
/-! ### LoadStore -/

theorem ldFault_sound (s : State) (q : Nat) (dq : Bool) (cause : Nat) (ea : Word) (tval : Word) :
    UnitRes.Sound s (ldFault s q dq cause ea tval) := by
  unfold ldFault; grind [State.asideTrap_sound, State.modSeq_sound, UnitRes.state]
theorem ldWrite_sound (s : State) (q : Nat) (dq : Bool) (d : Reg) (v : Word) :
    UnitRes.Sound s (ldWrite s q dq d v) := by
  unfold ldWrite; grind [State.modSeq_sound, UnitRes.state]
theorem storeAt_sound (s : State) (q : Nat) (ea : Word) (bytes : List Byte) (o : MemOrd) (k : State → UnitRes)
    (h : ∀ u, UnitRes.Sound u (k u)) : UnitRes.Sound s (storeAt s q ea bytes o k) := by
  unfold storeAt
  have h1 : ∀ u, State.Sound s u → UnitRes.Sound s (k u) := fun u hu => hu.trans (h u)
  have h2 := State.asideTrap_sound s q
  have h3 := State.logFull_sound s q
  dsimp only
  repeat' split
  all_goals first
    | exact h2 _ _ | exact h3 | exact ⟨rfl, id⟩ | exact State.fillTables_sound ..
    | exact h1 _ (State.storePad_sound _ _ _ _ _ (by assumption))
    | exact h1 _ (State.bufferStore_sound _ _ _ _ _ _ _ (by assumption))
    | exact State.releaseFault_sound _ _ _ _ _ (by assumption)
theorem State.tagLine_sound (s : State) (q : Nat) (gen : Nat) (line : Nat) :
    State.Sound s (State.tagLine s q gen line) := by
  unfold State.tagLine; grind
theorem linkLoad_sound (n : Nat) (d : Reg) (a : Reg) (s : State) :
    ∀ t, linkLoad n d a s = .next t → State.Sound s t := by
  unfold linkLoad; exact runUnit_sound s _ fun u => by dsimp only; grind [State.tagLine_sound, State.modSeq_sound, State.fillFor_sound, State.asideTrap_sound, State.fillTables_sound, runUnit_sound, UnitRes.state, runUnit_sound]
theorem State.sendBackInval_sound (s : State) (pa : Nat) :
    State.Sound s (State.sendBackInval s pa) := by
  unfold State.sendBackInval; grind
theorem State.atomicStore_sound (s : State) (q : Nat) (attr : Word) (parts : List (Nat × List Byte)) :
    ∀ t, State.atomicStore s q attr parts = some t → State.Sound s t := by
  unfold State.atomicStore; grind [State.appendRec_sound, State.escape_sound, Option.map_eq_some_iff, State.admitLine_sound, foldl_sound]
theorem linkStore_sound (n : Nat) (d : Reg) (a : Reg) (b : Reg) (s : State) :
    ∀ t, linkStore n d a b s = .next t → State.Sound s t := by
  unfold linkStore
  refine runUnit_sound s _ fun u => ?_
  have h2 := State.asideTrap_sound u s.turn
  dsimp only
  repeat' split
  all_goals first
    | exact h2 _ _ | exact ⟨rfl, id⟩ | exact State.fillTables_sound .. | exact State.modSeq_sound ..
    | exact State.sendBackInval_sound .. | exact State.logFull_sound ..
    | (next heq => have k := State.atomicStore_sound _ _ _ _ _ heq; exact ⟨k.1, k.2⟩)
/-! ### VMem -/

theorem VWork.ask_sound (w : VWork) (pa : Nat) (n : Nat) (attr : Nat) (comp : Bool) :
    State.Sound w.orig (VWork.ask w pa n attr comp) := by
  unfold VWork.ask; grind [State.request_sound, VWork.before_sound]
theorem VWork.askTables_sound (w : VWork) (ea : Nat) :
    ∀ t, VWork.askTables w ea = some t → State.Sound w.orig t := by
  unfold VWork.askTables; grind [VWork.before_sound]
theorem VWork.scale_sound (w : VWork) (pl : VPlace) (f : VFormat) (ea : Nat) (ms : Nat) :
    ∀ t, VWork.scale w pl f ea ms = .wait t → State.Sound w.orig t := by
  have h := VWork.before_sound w
  have g := VWork.askTables_sound w
  unfold VWork.scale
  dsimp only
  intro t
  repeat' split
  all_goals (intro e; cases e)
  all_goals first
    | exact h
    | exact VWork.ask_sound ..
    | exact g _ _ (by assumption)
theorem VWork.target_sound (w : VWork) (ea : Nat) (ms : Nat) (wr : Bool) (vlk : Bool) :
    ∀ t, VWork.target w ea ms wr vlk = .wait t → State.Sound w.orig t := by
  have g := VWork.askTables_sound w
  unfold VWork.target
  dsimp only
  intro t
  repeat' split
  all_goals (intro e; cases e)
  all_goals first
    | exact g _ _ (by assumption)
    | exact VWork.scale_sound _ _ _ _ _ _ (by assumption)
theorem VWork.fetchNow_sound (w : VWork) (o : VMem) (pl : VPlace) (p : Pos) (f : Nat) (ea : Nat) (ms : Nat) :
    ∀ t, VWork.fetchNow w o pl p f ea ms = .wait t → State.Sound w.orig t := by
  unfold VWork.fetchNow; grind [VWork.ask_sound, Option.getD_sound, State.request_sound, VWork.before_sound]
theorem VWork.fetchElem_sound (w : VWork) (o : VMem) (pl : VPlace) (p : Pos) (f : Nat) (ea : Nat) (ms : Nat) :
    ∀ t, VWork.fetchElem w o pl p f ea ms = .wait t → State.Sound w.orig t := by
  unfold VWork.fetchElem; grind [Option.getD_sound, VWork.before_sound, VWork.fetchNow_sound]
theorem VWork.readField_sound (w : VWork) (o : VMem) (ms : Nat) (vlk : Bool) (p : Pos) (f : Nat) :
    ∀ t, VWork.readField w o ms vlk p f = .wait t → State.Sound w.orig t := by
  unfold VWork.readField; grind [VWork.fetchElem_sound, VWork.target_sound]
theorem VWork.readFields_sound (w : VWork) (o : VMem) (ms : Nat) (vlk : Bool) (p : Pos) (f n : Nat) :
    ∀ t, VWork.readFields w o ms vlk p f n = .wait t → State.Sound w.orig t := by
  induction n generalizing f with
  | zero => exact fun t h => nomatch h
  | succ n ih =>
    intro t h
    unfold VWork.readFields at h
    split at h
    · cases h
    next heq => cases h; exact VWork.readField_sound _ _ _ _ _ _ _ heq
    · split at h
      · cases h
      next heq => cases h; exact ih _ _ heq
      · cases h
theorem VWork.keepReads_sound (w : VWork) (o : VMem) (ms : Nat) (p : Pos) (l : List VRaw) :
    VWork.Sound w (VWork.keepReads w o ms p l) := by
  unfold VWork.keepReads; grind [foldl_sound, foldl_work_sound]
theorem VWork.sample_sound (w : VWork) (o : VMem) (ms : Nat) (kind : Nat) (wr : Bool) (vlk : Bool) :
    VWork.Sound w (VWork.sample w o ms kind wr vlk) := by
  unfold VWork.sample; grind
theorem VWork.meetPad_sound (w : VWork) (o : VMem) (ms : Nat) :
    VWork.Sound w (VWork.meetPad w o ms) := by
  unfold VWork.meetPad; grind [foldl_sound, foldl_work_sound, State.modSeq_sound]
theorem VWork.noSlot_sound (w : VWork) (o : VMem) :
    VWork.Sound w (VWork.noSlot w o) := by
  unfold VWork.noSlot; grind
theorem VWork.firstFail_sound (o : VMem) (ms : Nat) (w : VWork) (l : List Pos) :
    ∀ t, VWork.firstFail o ms w l = .wait t → State.Sound w.orig t := by
  induction l generalizing w with
  | nil => exact fun t h => nomatch h
  | cons p l ih =>
    intro t h
    unfold VWork.firstFail at h
    split at h
    · split at h
      · cases h
      next heq => cases h; exact VWork.readFields_sound _ _ _ _ _ _ _ _ heq
      next rs heq =>
        have k := ih _ t h
        rwa [(VWork.keepReads_sound w o ms p rs).1] at k
    · exact ih _ t h
theorem VWork.lowerVl_sound (w : VWork) (n : Nat) :
    VWork.Sound w (VWork.lowerVl w n) := by
  unfold VWork.lowerVl; grind [State.modSeq_sound]
theorem VWork.loadAll_sound (w : VWork) (o : VMem) (ms : Nat) (vlk : Bool) : VWork.Sound w (VWork.loadAll w o ms vlk) := by
  unfold VWork.loadAll
  dsimp only
  refine (VWork.noSlot_sound w o).trans ?_
  generalize VWork.noSlot w o = w
  have key : ∀ (l : List Pos) (v : VWork), VWork.Sound w v → VWork.Sound w (l.foldl (fun t p =>
      if w.active o.m p then
        if w.offBad o p then t.poison p
        else
        match ({ w with s := t.s, wait := t.wait } : VWork).readFields o ms vlk p 0 (o.nf.toNat + 1) with
        | .wait s => { t with s := s, wait := true }
        | .bad c tv => t.fault (w.loadFault p c tv)
        | .ok rs =>
          (((rs.map w.loaded).zip (List.range (o.nf.toNat + 1))).foldl (fun t e =>
            t.put (BitVec.ofNat 5 (o.d.toNat + e.2 * w.lm)) w.ew p e.1.1) (t.keepReads o ms p rs)).flag w.ew p
              ((rs.map w.loaded).foldl (fun f e => f ||| e.2) 0)
      else (List.range (o.nf.toNat + 1)).foldl (fun t f =>
        t.rest (vtInactZero w.vt) (BitVec.ofNat 5 (o.d.toNat + f * w.lm)) w.ew p) t) v) := by
    intro l
    induction l with
    | nil => exact fun v h => h
    | cons p l ih =>
      intro v h
      refine ih _ ?_
      dsimp only
      split
      · split
        · exact h.trans (VWork.poison_sound ..)
        · split
          next s heq => exact ⟨h.1, fun _ => VWork.readFields_sound ({ w with s := v.s, wait := v.wait } : VWork) _ _ _ _ _ _ s heq⟩
          · exact h.trans (VWork.fault_sound ..)
          · exact h.trans ((fold_work (VWork.keepReads_sound ..) fun u e => VWork.put_sound ..).trans (VWork.flag_sound ..))
      · exact fold_work h fun u f => VWork.rest_sound ..
  exact fold_work (key _ w (VWork.sound_refl w)) fun v p => fold_work (VWork.sound_refl v) fun u f => VWork.rest_sound ..
theorem VWork.loadRest_sound (w : VWork) (o : VMem) (ms : Nat) :
    VWork.Sound w (VWork.loadRest w o ms) := by
  have h := ((VWork.sample_sound w o ms 0 false false).trans (VWork.meetPad_sound _ o ms)).trans (VWork.loadAll_sound _ o ms false)
  exact h.trans (VWork.sound_of rfl ((State.packetRead_sound ..).trans (State.packetRead_sound ..)))
theorem VWork.runLoad_sound (w : VWork) (o : VMem) :
    VWork.Sound w (VWork.runLoad w o) := by
  have rest : ∀ v, VWork.Sound w v → VWork.Sound w (v.loadRest o (w.unitMs o false false)) := fun v h =>
    h.trans (VWork.loadRest_sound ..)
  have low : ∀ v n, VWork.Sound w v → VWork.Sound w (v.lowerVl n) := fun v n h => h.trans (VWork.lowerVl_sound ..)
  have set : ∀ n, VWork.Sound w { w with ffVl := n } := fun n => ⟨rfl, id⟩
  unfold VWork.runLoad
  dsimp only
  split
  · split
    · refine rest _ ?_
      split
      · exact low _ _ (VWork.sound_refl w)
      · exact VWork.sound_refl w
    · split
      next s heq => exact ⟨rfl, fun _ => VWork.firstFail_sound _ _ _ _ _ heq⟩
      · exact VWork.sound_refl w
      · exact rest _ (set _)
      · split
        · exact rest _ (set _)
        · exact rest _ (low _ _ (set _))
  · exact rest _ (VWork.sound_refl w)
theorem VWork.storeField_sound (w : VWork) (o : VMem) (ms : Nat) (vlk : Bool) (p : Pos) (f : Nat) :
    ∀ t, VWork.storeField w o ms vlk p f = .wait t → State.Sound w.orig t := by
  unfold VWork.storeField; grind [VWork.target_sound]
theorem VWork.storeFields_sound (w : VWork) (o : VMem) (ms : Nat) (vlk : Bool) (p : Pos) (f n : Nat) :
    ∀ t, VWork.storeFields w o ms vlk p f n = .wait t → State.Sound w.orig t := by
  induction n generalizing f with
  | zero => exact fun t h => nomatch h
  | succ n ih =>
    intro t h
    unfold VWork.storeFields at h
    split at h
    · cases h
    next heq => cases h; exact VWork.storeField_sound _ _ _ _ _ _ _ heq
    · split at h
      · cases h
      next heq => cases h; exact ih _ _ heq
      · cases h
theorem VWork.storeRun_sound (w : VWork) (o : VMem) (r : List SPart) : ∀ t, VWork.storeRun w o r = some t → VWork.Sound w t := by
  have map : ∀ (m : Option State) (f : State → VWork), (∀ u, m = some u → State.Sound w.s u) → (∀ u, (f u).orig = w.orig ∧ State.Sound u (f u).s) →
      ∀ t, m.map f = some t → VWork.Sound w t := by
    intro m f hm hf t ht
    obtain ⟨u, hu, rfl⟩ := Option.map_eq_some_iff.1 ht
    exact VWork.sound_of (hf u).1 ((hm u hu).trans (hf u).2)
  intro t ht
  unfold VWork.storeRun at ht
  cases r with
  | nil => cases ht; exact VWork.sound_refl w
  | cons h rest =>
    dsimp only at ht
    split at ht
    · refine map _ _ (fun u hu => ?_) (fun u => ?_) t ht
      · split at hu
        · exact State.appendRec_sound _ _ _ _ _ _ hu
        · cases hu; exact ⟨rfl, id⟩
      · exact ⟨rfl, rfl, id⟩
    · split at ht
      · refine map _ _ ?_ ?_ t ht
        · exact fun u hu => State.logPad_sound _ _ _ _ _ _ _ _ _ _ _ hu
        refine fun u => ⟨rfl, fold_state ⟨rfl, id⟩ fun v a => ?_⟩
        split
        · exact State.modPad_sound ..
        · exact ⟨rfl, id⟩
        · exact ⟨rfl, id⟩
      · refine map _ _ ?_ ?_ t ht
        · exact fun u hu => State.bufferPad_sound _ _ _ _ _ _ hu
        · exact fun u => ⟨rfl, rfl, id⟩
    · cases hl : (w.s.seq w.q).logs
      · simp only [hl, Bool.not_false, if_true, Option.some.injEq] at ht
        subst ht
        exact VWork.sound_of rfl (State.modSeq_sound ..)
      · simp only [hl, Bool.not_true, Bool.false_eq_true, if_false] at ht
        split at ht
        · refine map _ _ ?_ ?_ t ht
          · exact fun u hu => State.escape_sound _ _ _ _ _ _ _ hu
          · exact fun u => ⟨rfl, State.modSeq_sound ..⟩
        · refine map _ _ ?_ ?_ t ht
          · exact fun u hu => State.reserve_sound _ _ _ _ _ _ hu
          · exact fun u => ⟨rfl, State.modSeq_sound ..⟩
theorem VWork.storeRuns_sound (w : VWork) (o : VMem) (x0 : List (List SPart)) :
    VWork.Sound w (VWork.storeRuns w o x0) := by
  induction x0 generalizing w o <;> unfold VWork.storeRuns <;> grind [VWork.fault_sound, VWork.storeRun_sound]
theorem VWork.runStore_sound (w : VWork) (o : VMem) : VWork.Sound w (VWork.runStore w o) := by
  unfold VWork.runStore
  dsimp only
  refine VWork.Sound.trans (v := ((w.sample o (w.unitMs o true false) 1 true false).meetPad o (w.unitMs o true false)).noSlot o)
    (((VWork.sample_sound ..).trans (VWork.meetPad_sound ..)).trans (VWork.noSlot_sound ..)) ?_
  generalize VWork.noSlot _ o = w
  generalize hr : (List.foldl _ _ _ : VWork × List SPart) = r
  have h : VWork.Sound w r.1 := by
    rw [← hr]
    refine gatherParts_sound (VWork.sound_refl w) (fun t p ht => ?_) _ _
    split
    · split
      · exact ht.trans (VWork.poison_sound ..)
      · split
        next s' heq => exact ⟨ht.1, fun _ => VWork.storeFields_sound ({ w with s := t.1.s } : VWork) _ _ _ _ _ _ s' heq⟩
        · exact ht.trans (VWork.fault_sound ..)
        · split
          · exact ht.trans (VWork.poison_sound ..)
          · exact ht.trans (VWork.flag_sound ..)
    · exact ht
  split
  · exact ⟨h.1, h.2⟩
  · refine VWork.Sound.trans (v := if _ then _ else r.1) ?_ (VWork.storeRuns_sound ..)
    split
    · exact h.trans (VWork.sound_of rfl (State.modSeq_sound ..))
    · exact h
theorem VWork.runLinkGet_sound (w : VWork) (d : Reg) (a : Reg) (x : Reg) (m : MReg) :
    VWork.Sound w (VWork.runLinkGet w d a x m) := by
  unfold VWork.runLinkGet; grind [State.modSeq_sound, State.tagLine_sound, foldl_sound, foldl_work_sound, VWork.loadAll_sound, VWork.sample_sound]
theorem State.performOwn_sound (q : Nat) (l : List PStore) (s : State) :
    (∀ t, State.performOwn q l s = .ok t → State.Sound s t) ∧ ∀ t, State.performOwn q l s = .wait t → State.Sound s t := by
  induction l generalizing s with
  | nil =>
    refine ⟨fun t h => ?_, fun t h => nomatch h⟩
    cases h
    exact State.modSeq_sound ..
  | cons st rest ih =>
    unfold State.performOwn
    split
    · exact ⟨fun t h => (nomatch h), fun t h => by cases h; exact State.sendBackInval_sound ..⟩
    · split
      · exact ⟨fun t h => (nomatch h), fun t h => by cases h; exact ⟨rfl, id⟩⟩
      · have k := State.commitStore_sound s q st
        exact ⟨fun t h => k.trans ((ih _).1 t h), fun t h => k.trans ((ih _).2 t h)⟩
theorem VWork.performEarlier_sound (w : VWork) : VWork.Sound w (VWork.performEarlier w) := by
  have k := State.performOwn_sound w.q (w.s.seq w.q).stores w.s
  unfold VWork.performEarlier
  split
  next heq => exact VWork.sound_of rfl (k.1 _ heq)
  next heq => exact VWork.sound_of rfl (k.2 _ heq)
theorem VWork.runLinkPut_sound (w : VWork) (d a x : Reg) (m : MReg) : VWork.Sound w (VWork.runLinkPut w d a x m) := by
  unfold VWork.runLinkPut
  dsimp only
  split
  · exact ⟨rfl, id⟩
  · refine (VWork.sample_sound w (vlkMem d a x m) (w.ew / 8) 3 true true).trans ?_
    generalize VWork.sample w _ _ _ _ _ = w
    generalize hr : (List.foldl _ (_, _) _ : VWork × List SPart) = r
    have h : VWork.Sound w r.1 := by
      rw [← hr]
      refine gatherParts_sound (VWork.sound_refl w) (fun t p ht => ?_) _ _
      split
      · split
        · exact ht.trans (VWork.poison_sound ..)
        · split
          next s' heq => exact ⟨ht.1, fun _ => VWork.storeFields_sound ({ w with s := t.1.s } : VWork) _ _ _ _ _ _ s' heq⟩
          · exact ht.trans (VWork.fault_sound ..)
          · split
            · exact ht.trans (VWork.poison_sound ..)
            · exact ht
      · exact ht
    have g : VWork.Sound r.1 r.1.performEarlier := VWork.performEarlier_sound ..
    generalize r.1.performEarlier = v at g
    generalize hu : (List.foldl _ v _ : VWork) = u
    have k : VWork.Sound v u := by
      rw [← hu]
      refine fold_work (VWork.sound_refl _) fun t l => ?_
      split
      · split
        · exact VWork.sound_refl _
        · split
          · exact ⟨rfl, id⟩
          · split
            · exact VWork.sound_of rfl (State.sendBackInval_sound ..)
            · split
              next s' heq => exact VWork.sound_of rfl (State.atomicStore_sound _ _ _ _ _ heq)
              · exact VWork.fault_sound ..
      · exact fold_work (VWork.sound_refl _) fun t a => ⟨rfl, id⟩
    exact ((h.trans g).trans k).trans (VWork.sound_of rfl (State.modSeq_sound ..))
/-! ### Matrix -/

theorem VWork.runOuter_sound (w : VWork) (sub : Bool) (c : Bool) (a : Reg) (b : Reg) :
    ∀ t, VWork.runOuter w sub c a b = .ok t → VWork.Sound w t := by
  unfold VWork.runOuter; grind [State.modSeq_sound]
theorem VWork.runReadRow_sound (w : VWork) (col c : Bool) (a sd : Reg) :
    ∀ t, VWork.runReadRow w col c a sd = .ok t → VWork.Sound w t := by
  unfold VWork.runReadRow
  dsimp only
  intro t ht
  split at ht <;> split at ht <;> simp only [MatRes.ok.injEq, reduceCtorEq] at ht <;> subst ht <;>
    exact fold_work (fold_work (VWork.sound_refl w) fun v p => VWork.put_sound ..) fun v p => VWork.rest_sound ..
theorem VWork.runWriteRow_sound (w : VWork) (c : Bool) (a : Reg) (sd : Reg) :
    ∀ t, VWork.runWriteRow w c a sd = .ok t → VWork.Sound w t := by
  unfold VWork.runWriteRow; grind [foldl_sound, foldl_work_sound]
theorem State.storeMatRow_sound (s : State) (q : Nat) (d : Desc) (i : Nat) (bs : List (List Byte)) (locs : List Nat) :
    ∀ t, State.storeMatRow s q d i bs locs = some t → State.Sound s t := by
  unfold State.storeMatRow; grind [State.bufferPad_sound, State.logFlat_sound, State.modPad_sound, Option.map_eq_some_iff]
theorem storeImage_sound (q : Nat) (code : Byte) (d : Desc) (accFmt : Byte) (c : FCtl) (x0 : Nat) (x1 : List (List Nat)) (x2 : State) (x3 : FFlags) (x4 : Npv) :
    ∀ t, storeImage q code d accFmt c x0 x1 x2 x3 x4 = some t → State.Sound x2 t.1 := by
  induction x1 generalizing x0 x2 x3 x4 with
  | nil => intro t h; unfold storeImage at h; cases h; exact ⟨rfl, id⟩
  | cons r rs ih =>
    intro t h
    unfold storeImage at h
    dsimp only at h
    split at h
    · exact nomatch h
    next heq => exact (State.storeMatRow_sound _ _ _ _ _ _ _ heq).trans (ih _ _ _ _ _ h)
theorem VWork.runMst_sound (w : VWork) (c : Bool) (sd : Reg) : ∀ t, VWork.runMst w c sd = .ok t → VWork.Sound w t := by
  unfold VWork.runMst
  dsimp only
  intro t ht
  repeat' split at ht
  all_goals cases ht
  next s' fl v heq =>
  have h : State.Sound w.s s' := storeImage_sound _ _ _ _ _ _ _ _ _ _ _ heq
  refine VWork.Sound.trans (v := { w with s := s'.modSeq w.q fun x => { x with csr := x.csr.setNpv v } }) ?_ (VWork.scalarFlag_sound ..)
  exact VWork.sound_of rfl (h.trans (State.modSeq_sound ..))
theorem VWork.runMld_sound (w : VWork) (c : Bool) (sd : Reg) :
    ∀ t, VWork.runMld w c sd = .ok t → VWork.Sound w t := by
  unfold VWork.runMld; grind [Option.map_eq_some_iff]
theorem VWork.mulSegment_sound (w : VWork) (u : Mul) (set : BitVec 2) (c : Bool) (a : Reg) (b : Reg) (fn : BitVec 3) (pos : Nat)
    (ops : List Word) (row : Nat) (fresh : Bool) (recs : List (List Byte)) :
    ∀ t, (VWork.mulSegment w u set c a b fn pos ops row fresh recs = .done t ∨ VWork.mulSegment w u set c a b fn pos ops row fresh recs = .more t ∨
      ∃ k v, VWork.mulSegment w u set c a b fn pos ops row fresh recs = .trap t k v) → VWork.Sound w t := by
  unfold VWork.mulSegment
  dsimp only
  intro t ht
  repeat' split at ht
  all_goals
    simp only [MulRes.trap.injEq, MulRes.done.injEq, MulRes.more.injEq, reduceCtorEq, false_or, or_false, false_and, exists_false,
      exists_and_left, exists_eq', and_true] at ht
    subst ht
    first
      | exact ⟨rfl, id⟩
      | exact VWork.sound_of rfl (State.setSeq_sound ..)
theorem State.matrixGuard_sound (s : State) (q : Nat) (pos : Nat) :
    ∀ r, State.matrixGuard s q pos = some r → UnitRes.Sound s r := by
  unfold State.matrixGuard; grind [State.wordTrap_sound, State.frozenTrap_sound, UnitRes.state]
theorem State.giveMatrix_sound (s : State) (q : Nat) (r : Word) :
    State.Sound s (State.giveMatrix s q r) := by
  unfold State.giveMatrix; grind [State.modCore_sound]
theorem State.readTable_sound (s : State) (q : Nat) (va : Nat) (x0 : Nat) (x1 : Nat) :
    ∀ t, State.readTable s q va x0 x1 = .wait t → State.Sound s t := by
  induction x1 generalizing s q va x0 <;> unfold State.readTable <;> grind [State.readVa_sound]
/-! ### VUnit -/

theorem VWork.effect_sound (w : VWork) (x : CWord) :
    VWork.Sound w (VWork.effect w x) := by
  unfold VWork.effect; grind [VWork.runLinkPut_sound, VWork.runLinkGet_sound, VWork.runStore_sound, VWork.runLoad_sound, VWork.runWide_sound, VWork.runPerm_sound, VWork.runIota_sound, VWork.runHash_sound, VWork.runHad_sound, VWork.runQnt_sound, VWork.runCvt_sound, VWork.runFp_sound, VWork.runInt_sound, VWork.maskPoison_sound]
theorem VWork.emptyEffect_sound (w : VWork) (x : CWord) :
    VWork.Sound w (VWork.emptyEffect w x) := by
  unfold VWork.emptyEffect; grind [State.modSeq_sound, VWork.permEmpty_sound]
theorem VWork.runWords_sound (w : VWork) (es : List Placed) :
    VWork.Sound w (VWork.runWords w es) := by
  unfold VWork.runWords; grind [VWork.effect_sound, VWork.emptyEffect_sound, foldl_sound, foldl_work_sound]
theorem VWork.passes_sound (w : VWork) (es : List Placed) (x0 : Nat) (x1 : List VFault) :
    VWork.Sound w (VWork.passes w es x0 x1).1 := by
  induction x0 generalizing w x1 with
  | zero => unfold VWork.passes; exact (VWork.runWords_sound ..)
  | succ n ih =>
    unfold VWork.passes
    dsimp only
    split
    · exact VWork.runWords_sound ..
    · exact ih ..
theorem State.plainStore_sound (s : State) (q : Nat) (va : Nat) (bytes : List Byte) :
    ∀ t, State.plainStore s q va bytes = some t → State.Sound s t := by
  unfold State.plainStore; grind [State.modPad_sound, State.modSeq_sound]
theorem State.sampleOne_sound (s : State) (q : Nat) (rec : List Byte) :
    State.Sound s (State.sampleOne s q rec) := by
  unfold State.sampleOne; grind [State.modSeq_sound, State.plainStore_sound]
theorem State.sampleRecs_sound (s : State) (q : Nat) (recs : List (List Byte)) :
    State.Sound s (State.sampleRecs s q recs) := by
  unfold State.sampleRecs; grind [State.sampleOne_sound, foldl_sound]
theorem State.countUnit_sound (s : State) (q : Nat) (notes : List MemNote) :
    State.Sound s (State.countUnit s q notes).1 := by
  unfold State.countUnit; grind [State.modSeq_sound]
theorem State.sampleUnit_sound (s : State) (q : Nat) (notes : List MemNote) :
    State.Sound s (State.sampleUnit s q notes) := by
  unfold State.sampleUnit; grind [State.sampleRecs_sound, State.countUnit_sound]
theorem State.unitWork_sound (s : State) (q : Nat) :
    VWork.From s (State.unitWork s q) := by
  unfold State.unitWork; grind
theorem VWork.state_sound (w : VWork) (s : State) (h : State.Sound s w.s) : State.Sound s (VWork.state w) :=
  h.trans (State.modCore_sound ..)
theorem VWork.waiting_sound (w : VWork) :
    State.Sound w.orig (VWork.waiting w) := by
  unfold VWork.waiting; grind [State.modSeq_sound, State.fillMarks_sound]
theorem VWork.noEffect_sound (w : VWork) (es : List Placed) (pos : Nat) (cause : Nat) (tval : Option Word) :
    UnitRes.Sound w.orig (VWork.noEffect w es pos cause tval) := by
  unfold VWork.noEffect; grind [State.sampleUnit_sound, UnitRes.state]
theorem VWork.elementTrap_sound (w : VWork) (es : List Placed) (fs : List VFault) (f : VFault) (h : State.Sound w.orig w.s) :
    UnitRes.Sound w.orig (VWork.elementTrap w es fs f) := by
  have k := VWork.state_sound w w.orig h
  unfold VWork.elementTrap; grind [State.sampleUnit_sound, Option.map_eq_some_iff, UnitRes.state]
theorem VWork.matrixEffect_sound (w : VWork) (e : Placed) : ∀ t, VWork.matrixEffect w e = .ok t → VWork.Sound w t := by
  unfold VWork.matrixEffect
  dsimp only
  intro t ht
  have meets : VWork.Sound w { w with
      word := e.pos, linked := false, vzIn := e.vzIn, s := w.s.modSeq w.q fun x => { x with wide := true } } :=
    VWork.sound_of rfl (State.modSeq_sound ..)
  split at ht
  · cases ht; exact ⟨rfl, id⟩
  · exact VWork.runOuter_sound { w with word := e.pos, linked := false, vzIn := e.vzIn } _ _ _ _ _ ht
  · exact VWork.runReadRow_sound { w with word := e.pos, linked := false, vzIn := e.vzIn } _ _ _ _ _ ht
  · exact VWork.runReadRow_sound { w with word := e.pos, linked := false, vzIn := e.vzIn } _ _ _ _ _ ht
  · exact VWork.runWriteRow_sound { w with word := e.pos, linked := false, vzIn := e.vzIn } _ _ _ _ ht
  · exact meets.trans (VWork.runMst_sound _ _ _ _ ht)
  · exact meets.trans (VWork.runMld_sound _ _ _ _ ht)
  · cases ht; exact ⟨rfl, id⟩
theorem State.writeRecs_sound (s : State) (q : Nat) :
    State.Sound s (State.writeRecs s q) := by
  unfold State.writeRecs; grind [Option.map_eq_some_iff, State.sampleRecs_sound, State.modCore_sound]
theorem VWork.mulUnit_sound (w : VWork) (e : Placed) (ops : List Word) (row : Nat) (fresh issued : Bool) (recs : List (List Byte))
    (h : State.Sound w.orig w.s) : UnitRes.Sound w.orig (VWork.mulUnit w e ops row fresh issued recs) := by
  unfold VWork.mulUnit
  dsimp only
  have meets : VWork.Sound w { w with s := w.s.modSeq w.q fun x => { x with wide := true } } :=
    VWork.sound_of rfl (State.modSeq_sound ..)
  have h := meets.2 h
  have k : ∀ v, VWork.Sound { w with s := w.s.modSeq w.q fun x => { x with wide := true } } v → State.Sound w.orig v.state :=
    fun v hv => VWork.state_sound v _ (hv.2 h)
  split
  · split
    · exact (k _ ⟨rfl, id⟩).trans (State.sampleRecs_sound ..)
    · split
      · exact (k _ ⟨rfl, id⟩).trans (State.sampleRecs_sound ..)
      · split
        next heq => exact (k _ (VWork.mulSegment_sound _ _ _ _ _ _ _ _ _ _ _ _ _ (.inl heq))).trans (State.sampleRecs_sound ..)
        next heq => exact (k _ (VWork.mulSegment_sound _ _ _ _ _ _ _ _ _ _ _ _ _ (.inr (.inl heq)))).trans (State.modSeq_sound ..)
        next heq =>
          exact (k _ (VWork.mulSegment_sound _ _ _ _ _ _ _ _ _ _ _ _ _ (.inr (.inr ⟨_, _, heq⟩)))).trans (State.writeRecs_sound ..)
  · exact k _ (VWork.sound_refl _)
theorem VWork.finishUnit_sound (w : VWork) (es : List Placed) (h : State.Sound w.orig w.s) :
    UnitRes.Sound w.orig (VWork.finishUnit w es) := by
  have k : ∀ v, VWork.Sound w v → State.Sound w.orig (v.state.sampleUnit v.q v.notes) := fun v hv =>
    (VWork.state_sound v _ (hv.2 h)).trans (State.sampleUnit_sound ..)
  unfold VWork.finishUnit
  split
  · exact VWork.state_sound w _ h
  · split
    · exact VWork.mulUnit_sound { w with s := _ } _ _ _ _ _ _ (h.trans ((State.modSeq_sound ..).trans (State.countUnit_sound ..)))
    · split
      · split
        next heq => exact k _ (VWork.matrixEffect_sound _ _ _ heq)
        · exact VWork.noEffect_sound ..
      · exact k w (VWork.sound_refl w)
theorem VWork.resumed_sound (w : VWork) (es : List Placed) (h : State.Sound w.orig w.s) :
    ∀ r, VWork.resumed w es = some r → UnitRes.Sound w.orig r := by
  intro r hr
  unfold VWork.resumed at hr
  split at hr
  · split at hr
    · cases hr; exact VWork.mulUnit_sound _ _ _ _ _ _ _ h
    · cases hr
  · cases hr
theorem vecUnit_sound (ws : List CWord) (s : State) : ∀ t, vecUnit ws s = .next t → State.Sound s t := by
  unfold vecUnit
  refine runUnit_sound s _ fun u => ?_
  dsimp only
  have hw : VWork.From u (u.unitWork s.turn) := State.unitWork_sound ..
  generalize u.unitWork s.turn = w at hw
  obtain ⟨ho, hs⟩ := hw
  subst ho
  have h0 : State.Sound w.orig w.s := by rw [hs]; exact ⟨rfl, id⟩
  generalize hv : (VWork.passes _ _ _ _ : VWork × List VFault) = v
  have h : VWork.Sound w v.1 := by rw [← hv]; exact VWork.passes_sound ..
  split
  · exact VWork.noEffect_sound ..
  · split
    · exact (State.sampleUnit_sound ..).trans (State.frozenTrap_sound ..)
    · split
      next heq =>
        split
        · exact ⟨rfl, id⟩
        · exact VWork.resumed_sound _ _ h0 _ heq
      · split
        · exact VWork.noEffect_sound ..
        · split
          next r heq =>
            obtain ⟨e, -, he⟩ := Option.bind_eq_some_iff.1 heq
            split at he
            · exact (State.sampleUnit_sound ..).trans (State.peerFault_sound _ _ _ _ he)
            · cases he
          · split
            · exact ⟨rfl, id⟩
            · split
              · rw [← h.1]; exact VWork.waiting_sound ..
              · split
                · rw [← h.1]; exact VWork.elementTrap_sound _ _ _ _ (by rw [h.1]; exact h.2 h0)
                · rw [← h.1]; exact VWork.finishUnit_sound _ _ (by rw [h.1]; exact h.2 h0)
/-! ### Engine -/

theorem event_sound (s : State) (f : State → State) (h : State.Sound s (f s)) : ∀ t, event s f = .next t → State.Sound s t := by
  intro t ht
  injection ht with ht
  subst ht
  exact h.trans (State.endStep_sound _)
theorem hostEvent_sound (p : Nat) (s : State) (f : State → State) (h : ∀ u, State.Sound u (f u)) :
    ∀ t, hostEvent p s f = .next t → State.Sound s t := by
  unfold hostEvent
  refine event_sound s _ ?_
  split
  · exact ⟨rfl, id⟩
  · exact h s
theorem State.engineMeets_sound (s : State) (c : Nat) :
    State.Sound s (State.engineMeets s c) := by
  unfold State.engineMeets; grind [State.modCluster_sound]
theorem State.applyXf_sound (s : State) (c : Nat) (k : EngCmd) :
    State.Sound s (State.applyXf s c k).1 := by
  unfold State.applyXf; grind [State.modPad_sound, State.engineMeets_sound, State.logFlat_sound]
theorem placeCmd_sound (op : CmdOp) (sa : Reg) (sb : Reg) (sc : Reg) (tag : BitVec 3) (bar : BitVec 4) (s : State) :
    ∀ t, placeCmd op sa sb sc tag bar s = .next t → State.Sound s t := by
  unfold placeCmd; exact runUnit_sound s _ fun u => by dsimp only; grind [State.modCluster_sound, State.modSeq_sound, State.applyXf_sound, Option.getD_sound, runUnit_sound, UnitRes.state, runUnit_sound]
theorem State.engReadPieces_sound (s : State) (c : Nat) (k : EngCmd) (l : List Piece) :
    ∀ t, State.engReadPieces s c k l = .wait t → State.Sound s t := by
  induction l with
  | nil => exact fun t h => nomatch h
  | cons p l ih =>
    intro t h
    unfold State.engReadPieces at h
    dsimp only at h
    repeat' split at h
    all_goals first
      | (cases h; done)
      | (cases h; exact State.request_sound ..)
      | (cases h; exact State.fillFor_sound ..)
      | (cases h; exact ⟨rfl, id⟩)
      | (cases h; exact ih _ (by assumption))
theorem State.engTables_sound (s : State) (k : EngCmd) (va : Nat) (n : Nat) :
    ∀ t, State.engTables s k va n = some t → State.Sound s t := by
  unfold State.engTables; grind [State.fillWalk_sound, Option.map_eq_some_iff]
theorem State.engRead_sound (s : State) (c : Nat) (k : EngCmd) (va : Nat) (n : Nat) (rot : Nat) (r : Nat) :
    ∀ t, State.engRead s c k va n rot r = .wait t → State.Sound s t := by
  unfold State.engRead; grind [State.engReadPieces_sound, State.engTables_sound]
theorem State.logPieces_sound (c : Nat) (k : EngCmd) (kind : Nat) (x0 : List Piece) (x1 : State) :
    ∀ t, State.logPieces c k kind x0 x1 = some t → State.Sound x1 t := by
  induction x0 generalizing c k kind x1 <;> unfold State.logPieces <;> grind [State.appendRec_sound]
theorem State.writePieces_sound (o : Owner) (x0 : List Piece) (x1 : List Byte) (x2 : State) :
    State.Sound x2 (State.writePieces o x0 x1 x2) := by
  induction x0 generalizing o x1 x2 <;> unfold State.writePieces <;> grind [State.writeOut_sound]
theorem State.mustHold_sound (s : State) (ps : List Piece) :
    ∀ t, State.mustHold s ps = some t → State.Sound s t := by
  unfold State.mustHold; grind [State.sendBackInval_sound]
theorem State.engOld_sound (s : State) (c : Nat) (k : EngCmd) (x0 : List Piece) :
    ∀ t, State.engOld s c k x0 = some t → State.Sound s t := by
  induction x0 generalizing s c k <;> unfold State.engOld <;> grind [State.request_sound]
theorem State.engWrite_sound (s : State) (c : Nat) (k : EngCmd) (kind : Nat) (va : Nat) (rot : Nat) (r : Nat) (bytes : List Byte) (clear : Bool) :
    ∀ t, State.engWrite s c k kind va rot r bytes clear = .wait t ∨ State.engWrite s c k kind va rot r bytes clear = .ok t → State.Sound s t := by
  intro t h
  unfold State.engWrite at h
  dsimp only at h
  split at h
  · split at h
    · rcases h with h | h <;> cases h
    next heq =>
      rcases h with h | h <;> cases h
      exact (State.logFlat_sound _ _ _ _ _ _ _ _ _ _ heq).trans (State.modPad_sound ..)
  · split at h
    next heq => rcases h with h | h <;> cases h; exact State.engTables_sound _ _ _ _ _ heq
    · split at h
      · rcases h with h | h <;> cases h
      · split at h
        · rcases h with h | h <;> cases h
        · split at h
          next heq =>
            rcases h with h | h <;> cases h
            split at heq
            next heq2 => cases heq; exact State.mustHold_sound _ _ _ heq2
            · exact State.engOld_sound _ _ _ _ _ heq
          · split at h
            · rcases h with h | h <;> cases h
            next heq =>
              rcases h with h | h <;> cases h
              refine State.Sound.trans ?_ (State.writePieces_sound ..)
              split at heq
              · cases heq; exact ⟨rfl, id⟩
              · exact State.logPieces_sound _ _ _ _ _ _ heq
theorem State.moveRow_sound (s : State) (c : Nat) (k : EngCmd) (src : Nat) (dst : Nat) (zero : Bool) :
    State.Sound s (State.moveRow s c k src dst zero).1 := by
  unfold State.moveRow; grind [State.dropReads_sound, State.engWrite_sound, State.engRead_sound, State.engineMeets_sound]
theorem State.indexedRow_sound (s : State) (c : Nat) (k : EngCmd) :
    State.Sound s (State.indexedRow s c k).1 := by
  unfold State.indexedRow; grind [State.moveRow_sound, Option.getD_sound, State.engRead_sound, State.engineMeets_sound]
theorem State.engRow_sound (s : State) (c : Nat) (k : EngCmd) :
    State.Sound s (State.engRow s c k).1 := by
  unfold State.engRow; grind [State.engineMeets_sound, State.engWrite_sound, State.indexedRow_sound, State.moveRow_sound]
theorem State.setCmd_sound (s : State) (c : Nat) (k : EngCmd) :
    State.Sound s (State.setCmd s c k) := by
  unfold State.setCmd; grind [State.modCluster_sound]
theorem State.endRow_sound (s : State) (c : Nat) (k : EngCmd) :
    State.Sound s (State.endRow s c k).1 := by
  unfold State.endRow; grind
theorem State.endEnding_sound (s : State) (c : Nat) (k : EngCmd) :
    State.Sound s (State.endEnding s c k) := by
  unfold State.endEnding; grind [State.modCluster_sound, State.signal_sound, State.finishFailing_sound]
theorem State.endsRow_sound (s : State) (c : Nat) (k : EngCmd) :
    State.Sound s (State.endsRow s c k) := by
  unfold State.endsRow; grind
theorem State.completeRegion_sound (s : State) (c : Nat) (k : EngCmd) :
    State.Sound s (State.completeRegion s c k).1 := by
  unfold State.completeRegion; grind [State.appendRec_sound, State.modPad_sound]
theorem State.endCmd_sound (s : State) (c : Nat) (k : EngCmd) :
    State.Sound s (State.endCmd s c k) := by
  unfold State.endCmd; grind [State.signal_sound, State.modCluster_sound, State.modSeq_sound]
theorem State.arrive_sound (s : State) (q : Nat) (b : Nat) :
    State.Sound s (State.arrive s q b) := by
  unfold State.arrive; grind [State.modBarrier_sound, State.modSeq_sound]
theorem State.waitBar_sound (s0 : State) (q : Nat) (b : Nat) :
    UnitRes.Sound s0 (State.waitBar s0 q b) := by
  unfold State.waitBar; grind [State.modSeq_sound, UnitRes.state]
/-! ### Submit -/

theorem State.enroll_sound (s : State) (p : Nat) (asid : Nat) (preload : Nat) (prio : Nat) (byK : Bool) (pk : List Word) :
    State.Sound s (State.enroll s p asid preload prio byK pk) := by
  unfold State.enroll; grind [State.journal_sound, State.failDependents_sound, State.pokeVa_sound, State.modPart_sound]
theorem State.setLstat_sound (s : State) (p : Nat) (w : Nat) (v : Word) :
    State.Sound s (State.setLstat s p w v) := by
  unfold State.setLstat; grind [State.modPart_sound]
theorem State.fillLines_sound (s : State) (pa : Nat) (comp : Bool) :
    State.Sound s (State.fillLines s pa comp) := by
  unfold State.fillLines; grind [State.fillSector_sound, foldl_sound]
theorem State.prefetch_sound (core : Nat) (asid : Nat) (p : Nat) (x0 : Nat) (x1 : State) (x2 : Nat) (x3 : Nat) :
    State.Sound x1 (State.prefetch core asid p x0 x1 x2 x3) := by
  induction x0 generalizing core asid p x1 x2 x3 <;> unfold State.prefetch <;> grind [State.fillLines_sound]
/-! ### SlhDsa -/

/-! ### Egress -/

theorem State.readRows_sound (s : State) (q : Nat) (d : EDesc) (x0 : Nat) (x1 : Nat) (x2 : List (List Byte)) :
    ∀ t, State.readRows s q d x0 x1 x2 = .error t → UnitRes.Sound s t := by
  induction x1 generalizing x0 x2 <;> unfold State.readRows <;> grind [State.readVa_sound, UnitRes.state]
theorem State.closeClip_sound (s : State) (p : Nat) (mdest : Nat) :
    State.Sound s (State.closeClip s p mdest) := by
  unfold State.closeClip; grind [State.modPart_sound, State.raiseVector_sound, State.writeOut_sound]
theorem State.escapes_sound (q : Nat) (x0 : List (Nat × Nat × Nat)) (x1 : State) :
    ∀ t, State.escapes q x0 x1 = some t → State.Sound x1 t := by
  induction x0 generalizing q x1 <;> unfold State.escapes <;> grind [State.escape_sound]
theorem State.sendFrame_sound (s : State) (p : Nat) (d : EDesc) (rows : List (List Byte)) (chroma : List Byte) :
    State.Sound s (State.sendFrame s p d rows chroma) := by
  unfold State.sendFrame; grind [State.writeOut_sound, State.modPart_sound, State.closeClip_sound]
theorem State.egressFrame_sound (s : State) (q : Nat) (p : Nat) (rd : Reg) (bytes : List Byte) :
    UnitRes.Sound s (State.egressFrame s q p rd bytes) := by
  have free : ∀ u : State, State.Sound u (u.modPart p fun b => { b with egressOwner := none }) := fun u => State.modPart_sound ..
  have drop : ∀ r : UnitRes, UnitRes.Sound s r → UnitRes.Sound s (match r with
      | .trap s t => .trap (s.modPart p fun b => { b with egressOwner := none }) t | r => r) := by
    intro r h
    cases r <;> first | exact h | exact h.trans (free _)
  have ans : ∀ (u : State) (f : Seq → Seq), State.Sound s u →
      UnitRes.Sound s (.done ((u.modPart p fun b => { b with egressOwner := none }).modSeq q f) .on) :=
    fun u f h => (h.trans (free u)).trans (State.modSeq_sound ..)
  unfold State.egressFrame
  dsimp only
  split
  · split
    · exact drop _ (State.readRows_sound _ _ _ _ _ _ _ (by assumption))
    · split
      · exact State.readVa_sound _ _ _ _ _ (by assumption)
      · exact free s
      · split
        · exact drop _ (State.logFull_sound ..)
        · exact ans _ _ ((State.escapes_sound _ _ _ _ (by assumption)).trans (State.sendFrame_sound ..))
  · exact ans s _ ⟨rfl, id⟩
/-! ### Links -/

theorem State.sendAck_sound (s : State) (k : Nat) (seq : Nat) (kind : Nat) :
    State.Sound s (State.sendAck s k seq kind) := by
  unfold State.sendAck; grind [State.emitFlit_sound]
theorem State.reject_sound (s : State) (k : Nat) :
    State.Sound s (State.reject s k) := by
  unfold State.reject; grind [State.sendAck_sound]
theorem State.missed_sound (s : State) (k : Nat) (type : Nat) (f : List Byte) :
    State.Sound s (State.missed s k type f) := by
  unfold State.missed; grind [State.reject_sound, State.sendAck_sound]
theorem State.voidWrite_sound (s : State) (r : Req) (a : Answer) : State.Sound s (State.voidWrite s r a) := by
  unfold State.voidWrite
  split
  · exact ⟨rfl, writeBytes_wf _ _ _⟩
  · exact ⟨rfl, id⟩
theorem State.putAnswer_sound (s : State) (r : Req) (a : Answer) :
    State.Sound s (State.putAnswer s r a) := by
  unfold State.putAnswer; grind [State.stopSampling_sound, State.noteFailed_sound]
theorem State.answerReq_sound (s : State) (r : Req) (a : Answer) : State.Sound s (State.answerReq s r a) :=
  (((State.voidWrite_sound ..).trans (State.putAnswer_sound ..)).trans (State.finishFailing_sound ..)).trans (State.finishUndo_sound ..)
theorem State.inbound_sound (s : State) (part : Nat) (op : Nat) (pa : Nat) (len : Nat) (data : List Byte) :
    State.Sound s (State.inbound s part op pa len data).1 := by
  unfold State.inbound; grind [State.admitWrite_sound]
theorem State.missedControl_sound (s : State) (port : Nat) (flit : List Byte) :
    State.Sound s (State.missedControl s port flit) := by
  unfold State.missedControl; grind [State.reject_sound, State.missed_sound]
/-! ### Fabric -/

theorem State.modContext_sound (s : State) (q : Nat) (p : Nat) (n : Nat) (f : Seq → Seq) :
    State.Sound s (State.modContext s q p n f) := by
  unfold State.modContext; grind [Option.map_eq_some_iff, State.modCluster_sound, State.modSeq_sound]
theorem State.setOutcome_sound (s : State) (p : Nat) (m : Member) (st : Nat) (reason : Nat) (port : Nat) :
    State.Sound s (State.setOutcome s p m st reason port) := by
  unfold State.setOutcome; grind [State.modContext_sound]
theorem State.setColl_sound (s : State) (k : Nat) (c : Coll) :
    State.Sound s (State.setColl s k c) := by
  unfold State.setColl; grind
theorem State.sendPeer_sound (s : State) (pn : Nat) (type : Nat) (payload : List Byte) :
    State.Sound s (State.sendPeer s pn type payload) := by
  unfold State.sendPeer; grind [State.sendFlit_sound]
theorem State.logResult_sound (s : State) (p : Nat) (m : Member) (r : Nat × Nat × Word) :
    ∀ t, State.logResult s p m r = some t → State.Sound s t := by
  unfold State.logResult
  intro t h
  split at h
  · cases h; exact ⟨rfl, id⟩
  · split at h
    · cases h; exact ⟨rfl, id⟩
    · refine fold_option (fun t h => ?_) (fun v e t h => ?_) t h
      · cases h; exact ⟨rfl, id⟩
      · obtain ⟨u, hu, hv⟩ := Option.bind_eq_some_iff.1 h
        exact ⟨u, hu, State.appendRec_sound _ _ _ _ _ _ hv⟩
theorem State.writeResult_sound (s : State) (p : Nat) (m : Member) (b : List Byte) :
    ∀ t, State.writeResult s p m b = some t → State.Sound s t := by
  unfold State.writeResult
  intro t ht
  obtain ⟨u, hu, rfl⟩ := Option.map_eq_some_iff.1 ht
  suffices g : ∀ (l : List (Nat × Nat × Word)) (v : Option (State × List Byte)), (∀ x, v = some x → State.Sound s x.1) →
      ∀ x, l.foldl (fun (t : Option (State × List Byte)) r =>
        t.bind fun t => (t.1.logResult p m r).map fun s =>
          (s.admitWrite r.1 (t.2.take r.2.1) (aStore r.2.2 == 1), t.2.drop r.2.1)) v = some x → State.Sound s x.1 from
    g _ _ (fun x hx => by cases hx; exact ⟨rfl, id⟩) _ hu
  intro l
  induction l with
  | nil => exact fun v hv => hv
  | cons r l ih =>
    refine fun v hv => ih _ fun x hx => ?_
    obtain ⟨y, hy, hx⟩ := Option.bind_eq_some_iff.1 hx
    obtain ⟨z, hz, rfl⟩ := Option.map_eq_some_iff.1 hx
    exact ((hv y hy).trans (State.logResult_sound _ _ _ _ _ hz)).trans (State.admitWrite_sound ..)
theorem State.openResult_sound (s : State) (p : Nat) (m : Member) :
    State.Sound s (State.openResult s p m) := by
  unfold State.openResult
  refine fold_pair ⟨rfl, id⟩ fun v r => ?_
  dsimp only
  split
  next heq => exact (State.logResult_sound _ _ _ _ _ heq).trans (State.admitWrite_sound ..)
  · exact ⟨rfl, id⟩
theorem State.failColl_sound (s : State) (k : Nat) (reason : Nat) (port : Nat) (tell : Bool) :
    State.Sound s (State.failColl s k reason port tell) := by
  unfold State.failColl
  dsimp only
  split
  · exact ⟨rfl, id⟩
  · split
    · exact ⟨rfl, id⟩
    · split
      · exact (fold_state (fold_state ⟨rfl, id⟩ fun u m => (State.openResult_sound ..).trans (State.setOutcome_sound ..))
          fun u m => State.sendPeer_sound ..).trans
          (State.setColl_sound ..)
      · exact (fold_state ⟨rfl, id⟩ fun u m => (State.openResult_sound ..).trans (State.setOutcome_sound ..)).trans (State.setColl_sound ..)
theorem State.collIndex_sound (s : State) (p : Nat) (group : Nat) (number : Nat) :
    State.Sound s (State.collIndex s p group number).1 := by
  unfold State.collIndex; grind
theorem State.checkColl_sound (s : State) (k : Nat) :
    State.Sound s (State.checkColl s k) := by
  unfold State.checkColl; grind [State.failColl_sound]
theorem State.bufferTables_sound (s : State) (q : Nat) (va : Nat) (n : Nat) :
    ∀ t, State.bufferTables s q va n = some t → State.Sound s t := by
  unfold State.bufferTables; grind [State.fillTables_sound, Option.map_eq_some_iff]
theorem State.raiseCount_sound (s : State) (p : Nat) (g : Nat) (r : Nat) :
    State.Sound s (State.raiseCount s p g r) := by
  unfold State.raiseCount; grind
theorem State.sendData_sound (s : State) (k : Nat) (c : Coll) (m : Member) :
    State.Sound s (State.sendData s k c m) := by
  unfold State.sendData; grind [State.sendPeer_sound, State.failColl_sound, foldl_sound]
theorem State.joinColl_sound (s : State) (p : Nat) (number : Nat) (m : Member) :
    State.Sound s (State.joinColl s p number m) := by
  unfold State.joinColl; grind [State.setColl_sound, State.checkColl_sound, State.sendData_sound, State.openResult_sound, State.setOutcome_sound, State.collIndex_sound]
theorem State.collCheck_sound (s : State) (q : Nat) (va : Word) (b : List Byte) :
    ∀ r, State.collCheck s q va b = .error r → UnitRes.Sound s r := by
  unfold State.collCheck
  dsimp only
  intro r hr
  repeat' split at hr
  all_goals cases hr
  all_goals first
    | exact ⟨rfl, id⟩
    | exact State.readVa_sound _ _ _ _ _ (by assumption)
    | exact State.fillFor_sound ..
    | (next heq => split at heq <;> first
        | (cases heq; exact State.bufferTables_sound _ _ _ _ _ (by assumption))
        | exact State.bufferTables_sound _ _ _ _ _ heq)
theorem State.failCollsOf_sound (s : State) (reason : Nat) (port : Nat) (f : Word → Bool) :
    State.Sound s (State.failCollsOf s reason port f) := by
  unfold State.failCollsOf; grind [State.failColl_sound, foldl_sound]
theorem State.loseRequests_sound (s : State) (port : Nat) (f : Req → Bool) :
    State.Sound s (State.loseRequests s port f) := by
  unfold State.loseRequests; grind [State.answerReq_sound, foldl_sound]
theorem State.portDown_sound (s : State) (k : Nat) :
    State.Sound s (State.portDown s k) := by
  unfold State.portDown; grind [State.loseRequests_sound, State.failCollsOf_sound, State.modPort_sound]
/-! ### MemEvents -/

theorem State.countStores_sound (s : State) (q : Nat) (k : Nat) :
    State.Sound s (State.countStores s q k) := by
  unfold State.countStores; grind [State.modCluster_sound, State.modSeq_sound]
theorem State.dropTlb_sound (s : State) (x : Die) :
    State.Sound s (State.dropTlb s x) := by
  unfold State.dropTlb; grind
theorem State.rebuildRow_sound (s : State) (stack : Nat) :
    State.Sound s (State.rebuildRow s stack) :=
  fold_state (foldl_sound _ _ _ fun v n => State.scrubSector_sound ..) fun v n => State.scrubParity_sound ..
theorem State.markFrames_sound (s : State) (stack : Nat) (phase : Nat) :
    State.Sound s (State.markFrames s stack phase) := by
  unfold State.markFrames; grind [foldl_sound]
theorem State.moveSector_sound (s : State) (k : Nat) :
    State.Sound s (State.moveSector s k) := by
  unfold State.moveSector; grind [State.countPoison_sound, State.scrubSector_sound]
theorem State.settleLines_sound (s : State) (line n : Nat) :
    State.Sound s (State.settleLines s line n) := by
  unfold State.settleLines
  dsimp only
  have h : ∀ ls : List Nat, State.Sound s (ls.foldl (fun (s : State) l => s.writeBack l) s) := fun ls =>
    foldl_sound _ _ _ fun v l => State.writeBack_sound ..
  split
  · exact h _
  · exact fold_state (h _) fun v k => State.moveSector_sound ..
theorem State.landLines_sound (s : State) (line : Nat) (n : Nat) :
    State.Sound s (State.landLines s line n) := by
  unfold State.landLines; grind [State.dieWrite_sound, State.countStored_sound, foldl_sound]
theorem State.peerLine_sound (s : State) (dst : Nat) (line : Nat) :
    State.Sound s (State.peerLine s dst line) := by
  unfold State.peerLine; grind [State.writeOut_sound]
theorem copyRange_wf (m : Memory) (src dst n : Nat) (h : Memory.wf m = true) : Memory.wf (copyRange m src dst n) = true := by
  obtain ⟨hr, hd⟩ := (FMap.wf_iff 0 m).1 h
  unfold copyRange
  dsimp only
  generalize hl : (List.filter _ _ : FMap Byte) = l
  have hl' : ∀ e ∈ l, e.2 ≠ 0 := by
    intro e he
    rw [← hl] at he
    exact hd e (List.mem_filter.1 he).1
  have h0 := FMap.wf_keep 0 m (fun a => !decide (dst ≤ a ∧ a < dst + n)) h
  clear hl
  generalize FMap.keep m _ = m0 at h0
  induction l generalizing m0 with
  | nil => exact h0
  | cons e l ih =>
    refine ih (fun x hx => hl' x (List.mem_cons_of_mem _ hx)) _ ?_
    have he := hl' e List.mem_cons_self
    have := FMap.wf_set 0 m0 (dst + (e.1 - src)) e.2 h0
    have hn : ¬ e.2 = 0 := he
    rwa [FMap.set, if_neg hn] at this
theorem State.sendLines_sound (s : State) (stack : Nat) (line : Nat) (n : Nat) : State.Sound s (State.sendLines s stack line n) := by
  have h := State.settleLines_sound s line n
  unfold State.sendLines
  dsimp only
  split
  · exact State.Sound.trans (t := { State.settleLines s line n with
      mem := copyRange (State.settleLines s line n).mem (128 * line) (((State.settleLines s line n).stack stack).mgTo (128 * line)) (128 * n) })
      ⟨h.1, fun m => copyRange_wf _ _ _ _ (h.2 m)⟩ (State.landLines_sound ..)
  · split
    · exact fold_state h fun u i => State.peerLine_sound ..
    · exact fold_state h fun u i => State.writeOut_sound ..
theorem State.sendDirty_sound (s : State) (stack : Nat) :
    State.Sound s (State.sendDirty s stack) := by
  unfold State.sendDirty; grind [State.sendLines_sound, foldl_sound, State.modStack_sound]
/-! ### Firmware -/

theorem State.retakeMatrix_sound (s : State) (q : Nat) (b : Snap) :
    State.Sound s (State.retakeMatrix s q b) := by
  unfold State.retakeMatrix; grind [State.modCore_sound, State.modSeq_sound]
theorem State.dropHeld_sound (s : State) (p : Nat) (n : Nat) :
    State.Sound s (State.dropHeld s p n) := by
  unfold State.dropHeld; grind [State.modLaunch_sound, State.modPart_sound]
theorem State.cleanCluster_sound (s : State) (c : Nat) (asid : Nat) :
    State.Sound s (State.cleanCluster s c asid) := by
  unfold State.cleanCluster; grind [State.modCluster_sound]
theorem State.writeNext_sound (s : State) (q : Nat) (b : BindRec) :
    State.Sound s (State.writeNext s q b) := by
  unfold State.writeNext; grind [State.modPad_sound, State.modCluster_sound, State.prefetch_sound, State.cleanCluster_sound, State.modSeq_sound]
theorem State.clearNext_sound (s : State) (q : Nat) :
    State.Sound s (State.clearNext s q) := by
  unfold State.clearNext; grind [State.modSeq_sound, State.modCluster_sound]
theorem State.loseRange_sound (s : State) (p : Nat) (n : Nat) (q : Nat) (counted : Bool) :
    State.Sound s (State.loseRange s p n q counted) := by
  unfold State.loseRange; grind [State.journal_sound, State.modPart_sound, State.modLaunch_sound]
theorem State.evict_sound (s : State) (q : Nat) :
    State.Sound s (State.evict s q) := by
  unfold State.evict; grind [State.clearNext_sound, State.loseRange_sound]
theorem State.entryOf_sound (s : State) (q : Nat) (b : BindRec) :
    State.Sound s (State.entryOf s q b) := by
  unfold State.entryOf; grind [State.modSeq_sound, State.setEntry_sound]
theorem State.entrySnaps_sound (p : Nat) (n : Nat) (x0 : List (Nat × BindRec)) (x1 : State) :
    ∀ t, State.entrySnaps p n x0 x1 = some t → State.Sound x1 t := by
  induction x0 generalizing p n x1 <;> unfold State.entrySnaps <;> grind [State.putSnap_sound, State.entryOf_sound]
theorem State.zeroSave_sound (s : State) (q : Nat) (asid : Nat) :
    State.Sound s (State.zeroSave s q asid) := by
  unfold State.zeroSave; grind [State.pokeVa_sound]
theorem State.resumeOne_sound (s : State) (p : Nat) (n : Nat) (l : Launch) (b : Snap) (q : Nat) (g : BitVec 4) :
    State.Sound s (State.resumeOne s p n l b q g) := by
  unfold State.resumeOne; grind [State.retakeMatrix_sound, State.modPad_sound, State.modSeq_sound, State.cleanCluster_sound, State.restoreSeq_sound, State.modCore_sound, State.entryOf_sound]
theorem State.resumeLaunch_sound (s : State) (p : Nat) (n : Nat) (l : Launch) :
    ∀ t, State.resumeLaunch s p n l = some t → State.Sound s t := by
  unfold State.resumeLaunch; grind [State.dequeue_sound, State.dropHeld_sound, State.journal_sound, State.resumeOne_sound, foldl_sound, State.modLaunch_sound, Option.map_eq_some_iff, State.failLaunch_sound]
theorem State.setBound_sound (s : State) (p : Nat) (n : Nat) (l : Launch) (rs : List Range) :
    State.Sound s (State.setBound s p n l rs) := by
  unfold State.setBound; grind [State.dequeue_sound, State.journal_sound, State.modPart_sound, State.modLaunch_sound]
theorem State.snapBound_sound (s : State) (p : Nat) (n : Nat) (l : Launch) (recs : List (Nat × BindRec)) :
    State.Sound s (State.snapBound s p n l recs) := by
  unfold State.snapBound; grind [State.failLaunch_sound, State.entrySnaps_sound]
theorem State.putRecords_sound (s : State) (p : Nat) (n : Nat) (l : Launch) (rs : List Range) (recs : List (Nat × BindRec)) :
    State.Sound s (State.putRecords s p n l rs recs) := by
  unfold State.putRecords; grind [State.setBound_sound, State.dequeue_sound, State.snapBound_sound, State.modLaunch_sound, State.writeNext_sound, foldl_sound]
theorem State.bindWhole_sound (s : State) (p : Nat) (n : Nat) (l : Launch) (offered : List Nat) :
    State.Sound s (State.bindWhole s p n l offered) := by
  unfold State.bindWhole; grind [State.putRecords_sound]
theorem State.bindLost_sound (s : State) (p : Nat) (n : Nat) (l : Launch) :
    ∀ t, State.bindLost s p n l = some t → State.Sound s t := by
  unfold State.bindLost; grind [State.putRecords_sound, Option.map_eq_some_iff]
theorem State.bindLaunch_sound (s : State) (p : Nat) (n : Nat) :
    ∀ t, State.bindLaunch s p n = some t → State.Sound s t := by
  unfold State.bindLaunch; grind [State.bindWhole_sound, State.bindLost_sound, State.resumeLaunch_sound]
theorem State.requestMark_sound (s : State) (p : Nat) (n : Nat) :
    State.Sound s (State.requestMark s p n) := by
  unfold State.requestMark; grind [State.modSeq_sound, foldl_sound]
theorem State.haltCluster_sound (s : State) (c : Nat) :
    State.Sound s (State.haltCluster s c) := by
  unfold State.haltCluster; grind [State.modCluster_sound]
theorem State.raiseIsland_sound (s : State) (c : Nat) :
    State.Sound s (State.raiseIsland s c) := by
  unfold State.raiseIsland; grind
theorem State.putContext_sound (s : State) (c : Nat) (k : Shadow) :
    State.Sound s (State.putContext s c k) := by
  unfold State.putContext; grind [State.modCluster_sound, foldl_sound]
theorem State.freshBudget_sound (s : State) (key : Nat × Nat) :
    State.Sound s (State.freshBudget s key) := by
  unfold State.freshBudget; grind [Option.map_eq_some_iff]
theorem State.holdAway_sound (s : State) (key : Nat × Nat) :
    State.Sound s (State.holdAway s key) := by
  unfold State.holdAway; grind [State.modLaunch_sound, State.journal_sound, State.freshBudget_sound, State.holdLaunch_sound]
theorem State.bringBack_sound (s : State) (key : Nat × Nat) :
    State.Sound s (State.bringBack s key) := by
  unfold State.bringBack; grind [State.modLaunch_sound, State.dequeue_sound, State.journal_sound]
theorem State.resumeCluster_sound (s : State) (c : Nat) :
    State.Sound s (State.resumeCluster s c) := by
  unfold State.resumeCluster; grind [State.modSeq_sound, foldl_sound, State.modCluster_sound]
theorem State.zeroCluster_sound (s : State) (c : Nat) :
    State.Sound s (State.zeroCluster s c) := by
  unfold State.zeroCluster; grind [State.modCluster_sound]
theorem State.dropAsids_sound (s : State) (b : Part) :
    State.Sound s (State.dropAsids s b) := by
  unfold State.dropAsids; grind
theorem State.writePower_sound (s : State) (off : Nat) (v : Word) :
    State.Sound s (State.writePower s off v) := by
  unfold State.writePower; grind
theorem ite_sound {c : Prop} [Decidable c] {s t u : State} (h : State.Sound s t) (k : State.Sound s u) :
    State.Sound s (if c then t else u) := by
  split
  · exact h
  · exact k
theorem State.writeRegister_sound (s : State) (pa : Nat) (v : Word) (sys : Bool) : State.Sound s (State.writeRegister s pa v sys) :=
  ite_sound ⟨rfl, id⟩ (ite_sound (State.modPart_sound ..) (ite_sound (State.modPart_sound ..) (ite_sound ⟨rfl, id⟩
    (ite_sound (State.modDie_sound ..) (ite_sound (State.modStack_sound ..) (ite_sound (State.modCluster_sound ..)
      (ite_sound (State.writePower_sound ..) ⟨rfl, id⟩)))))))
/-! ### Pyramid -/

theorem State.pyramidTrap_sound (s : State) (reason : Nat) (v : Word) :
    UnitRes.Sound s (State.pyramidTrap s reason v) := by
  unfold State.pyramidTrap; grind [UnitRes.state]
theorem State.pTrap_sound (s : State) (cause : Nat) (tval : Word) :
    UnitRes.Sound s (State.pTrap s cause tval) := by
  unfold State.pTrap; grind [UnitRes.state]
theorem withHandle_sound (s : State) (q : Nat) (h : Word) (f : PHandle → PDesc → UnitRes) (hf : ∀ b d, UnitRes.Sound s (f b d)) :
    UnitRes.Sound s (withHandle s q h f) := by
  unfold withHandle; grind [State.fillFor_sound, State.pyramidTrap_sound, State.frozenTrap_sound, UnitRes.state]
theorem State.bindCheck_sound (s : State) (q : Nat) (a : Word) :
    ∀ t, State.bindCheck s q a = .error t → UnitRes.Sound s t := by
  unfold State.bindCheck; grind [State.pTrap_sound, State.pyramidTrap_sound, UnitRes.state, State.fillFor_sound]
theorem State.assignBlock_sound (s : State) (q : Nat) (k : Nat) (e : Append) (d : PDesc) :
    State.Sound s (State.assignBlock s q k e d) := by
  unfold State.assignBlock; grind [State.modSeq_sound, State.admitWrite_sound, State.appendItems_sound, State.unreserve_sound, State.pushRec_sound]
theorem VWork.putItem_sound (w : VWork) (r : Reg) (d : PDesc) (j : Nat) (b : List Byte) :
    VWork.Sound w (VWork.putItem w r d j b) := by
  unfold VWork.putItem; grind [VWork.put_sound, foldl_sound, foldl_work_sound]
theorem VWork.putItems_sound (w : VWork) (d : Reg) (pd : PDesc) (n : Nat) (vl : Nat) (rs : List (Nat × Resolved)) :
    VWork.Sound w (VWork.putItems w d pd n vl rs) := by
  unfold VWork.putItems
  exact fold_work (fold_work (fold_work (VWork.sound_refl w) fun v p => (VWork.putItem_sound ..).trans (VWork.put_sound ..))
    fun v p => by grind [VWork.put_sound, VWork.flag_sound, VWork.poison_sound, VWork.rest_sound, VWork.scalarFlag_sound, VWork.fault_sound, VWork.setS_sound]) fun v p => by grind [VWork.put_sound, VWork.flag_sound, VWork.poison_sound, VWork.rest_sound, VWork.scalarFlag_sound, VWork.fault_sound, VWork.setS_sound]
/-! ### Rewind -/

theorem State.countUnread_sound (s : State) (d : Nat) (x0 : Nat) :
    State.Sound s (State.countUnread s d x0) := by
  induction x0 generalizing s d <;> unfold State.countUnread <;> grind [State.countDie_sound]
theorem State.discardCmds_sound (s : State) (p : Nat) (n : Nat) :
    State.Sound s (State.discardCmds s p n) := by
  unfold State.discardCmds; grind
theorem State.resetBarriers_sound (s : State) (p : Nat) (n : Nat) (w : Nat) :
    State.Sound s (State.resetBarriers s p n w) := by
  unfold State.resetBarriers; grind [State.modBarrier_sound, foldl_sound]
theorem State.evictMet_sound (s : State) (c : Nat) (lines : List Nat) (touched : List Nat) :
    State.Sound s (State.evictMet s c lines touched) := by
  unfold State.evictMet; grind [State.evict_sound, foldl_sound]
theorem State.rebindAll_sound (s : State) (q : Nat) (window : Nat) (hs : FMap PHandle) :
    State.Sound s (State.rebindAll s q window hs) := by
  unfold State.rebindAll; grind [State.modStream_sound, foldl_sound]
theorem State.restoreBlock_sound (s : State) (p : Nat) (n : Nat) (b : Snap) :
    State.Sound s (State.restoreBlock s p n b) := by
  unfold State.restoreBlock; grind [State.modCore_sound, State.dropReads_sound, State.modLaunch_sound, State.restoreSeq_sound, State.modSeq_sound, State.rebindAll_sound]
theorem State.restoreLarders_sound (s : State) (p : Nat) (n : Nat) (bs : List Snap) :
    State.Sound s (State.restoreLarders s p n bs) := by
  unfold State.restoreLarders; grind
theorem State.undoTo_sound (s : State) (p : Nat) (n : Nat) (w : Nat) :
    State.Sound s (State.undoTo s p n w) := by
  unfold State.undoTo
  dsimp only
  have h0 : State.Sound s (s.discardCmds p n) := State.discardCmds_sound ..
  split
  · exact h0
  · have h1 : ∀ u : State, State.Sound s u → ∀ (f : Launch → Launch), State.Sound s
        ((((u.undoFrom p n w).modLaunch p n f).streamsAfterUndo p n w).resetBarriers p n w) := by
      intro u hu f
      exact (((hu.trans (State.undoFrom_sound ..)).trans (State.modLaunch_sound ..)).trans (State.streamsAfterUndo_sound ..)).trans
        (State.resetBarriers_sound ..)
    have h2 : ∀ (u : State) (bs : List Snap), State.Sound s u →
        State.Sound s ((bs.foldl (fun (s : State) b => s.restoreBlock p n b) u).restoreLarders p n bs) := by
      intro u bs hu
      exact (fold_state hu fun u b => State.restoreBlock_sound ..).trans (State.restoreLarders_sound ..)
    have h3 : ∀ (u : State) (cs : List Nat) (f : State → Nat → State), State.Sound s u → (∀ v c, State.Sound v (f v c)) →
        State.Sound s (cs.foldl f u) := fun u cs f hu hf => fold_state hu hf
    split
    · exact h3 _ _ _ (h2 _ _ (h1 _ h0 _)) fun v c => (State.modPad_sound ..).trans (State.evictMet_sound ..)
    · exact (h3 _ _ _ (h2 _ _ (h1 _ h0 _)) fun v c => (State.modPad_sound ..).trans (State.evictMet_sound ..)).trans
        (State.modLaunch_sound ..)
theorem State.ringWrite_sound (s : State) (p : Nat) (b : List Byte) :
    State.Sound s (State.ringWrite s p b) := by
  unfold State.ringWrite; grind [State.admitWrite_sound, State.modPart_sound]
theorem State.notice_sound (s : State) (p : Nat) (n : Nat) (w : Nat) (before : Nat) (cause : Nat) (origin : Nat) (es : List LogRec) :
    State.Sound s (State.notice s p n w before cause origin es) := by
  unfold State.notice; grind [State.raiseVector_sound, State.ringWrite_sound]
theorem State.dbgResult_sound (s : State) (p : Nat) (r : Nat) :
    State.Sound s (State.dbgResult s p r) := by
  unfold State.dbgResult; grind [State.modPart_sound]
theorem dbgCommand_sound (s : State) (p : Nat) (f : State → Nat → Launch → State) (h : ∀ u n l, State.Sound u (f u n l)) :
    ∀ t, dbgCommand s p f = .next t → State.Sound s t := by
  refine hostEvent_sound p s _ fun u => ?_
  split
  · exact ⟨rfl, id⟩
  · split
    · exact State.dbgResult_sound ..
    · exact h ..
theorem dbgStoppedCommand_sound (s : State) (p : Nat) (f : State → Nat → Launch → State) (h : ∀ u n l, State.Sound u (f u n l)) :
    ∀ t, dbgStoppedCommand s p f = .next t → State.Sound s t := by
  refine dbgCommand_sound s p _ fun u n l => ?_
  split
  · exact h ..
  · exact State.dbgResult_sound ..
theorem State.resumeAll_sound (s : State) (p : Nat) (n : Nat) :
    State.Sound s (State.resumeAll s p n) := by
  unfold State.resumeAll; grind
theorem State.rewindTo_sound (s : State) (p : Nat) (n : Nat) (w : Nat) (origin : Nat) (force : Bool) (l : Launch) :
    State.Sound s (State.rewindTo s p n w origin force l).1 := by
  unfold State.rewindTo; grind [State.modPart_sound, State.notice_sound, State.undoTo_sound, State.countUnread_sound]
/-! ### Platform -/

theorem State.wipe_sound (s : State) :
    State.Sound s (State.wipe s) := by
  exact ⟨rfl, fun _ => rfl⟩
theorem State.senseIsland_sound (s : State) (island : Nat) :
    State.Sound s (State.senseIsland s island) := by
  unfold State.senseIsland; grind [foldl_sound]
/-! ### Scalar -/

theorem aluA2_sound (f : Word → Word → Word) (d : Reg) (a : Reg) (b : Reg) (s : State) :
    ∀ t, aluA2 f d a b s = .next t → State.Sound s t := by
  unfold aluA2; grind [seqUnit_sound, UnitRes.state]
theorem aluS2_sound (f : Word → Word → Word) (d : Reg) (a : Reg) (b : Reg) (s : State) :
    ∀ t, aluS2 f d a b s = .next t → State.Sound s t := by
  unfold aluS2; grind [seqUnit_sound, UnitRes.state]
theorem aluA1_sound (f : Word → Word) (d : Reg) (a : Reg) (s : State) :
    ∀ t, aluA1 f d a s = .next t → State.Sound s t := by
  unfold aluA1; grind [seqUnit_sound, UnitRes.state]
theorem aluS1_sound (f : Word → Word) (d : Reg) (a : Reg) (s : State) :
    ∀ t, aluS1 f d a s = .next t → State.Sound s t := by
  unfold aluS1; grind [seqUnit_sound, UnitRes.state]
theorem pushBq_sound (f : Word → Word → Bool) (a : Reg) (b : Reg) (s : State) :
    ∀ t, pushBq f a b s = .next t → State.Sound s t := by
  unfold pushBq; exact runUnit_sound s _ fun u => by dsimp only; grind [State.modSeq_sound, State.illegal_sound, runUnit_sound, UnitRes.state, runUnit_sound]
/-! ### ScalarFp -/

theorem sfUnit_sound (f : Fmt → FCtl → Nat → Nat → Nat → Nat × FFlags) (d : Reg) (a : Reg) (b : Reg) (t : FpFmt) (s : State) :
    ∀ u, sfUnit f d a b t s = .next u → State.Sound s u := seqUnit_sound s _
/-! ### Transfer -/

/-! ### VWords -/

/-! ### Dispatch -/

/-! ### Reads -/

/-! ### Upsets -/

theorem State.strikeSector_sound (s : State) (k : Nat) :
    State.Sound s (State.strikeSector s k) := by
  unfold State.strikeSector; grind [State.poisonSectors_sound, State.countDie_sound]
theorem State.strikeTag_sound (s : State) (line : Nat) :
    State.Sound s (State.strikeTag s line) := by
  unfold State.strikeTag; grind [State.writeBack_sound, State.dropLine_sound, State.poisonSectors_sound, foldl_sound, State.countDie_sound]
theorem State.modCopy_sound (s : State) (c : Nat) (held : Bool) (f : Pad → Pad) :
    State.Sound s (State.modCopy s c held f) := by
  unfold State.modCopy; grind [State.modPad_sound, Option.map_eq_some_iff, State.modCluster_sound]
theorem State.modCoreCopy_sound (s : State) (i : Nat) (held : Bool) (f : Core → Core) :
    State.Sound s (State.modCoreCopy s i held f) := by
  unfold State.modCoreCopy; grind [State.modCore_sound, Option.map_eq_some_iff, State.modCluster_sound]
theorem State.strikeRemap_sound (s : State) (pa : Nat) (second : Bool) :
    State.Sound s (State.strikeRemap s pa second) := by
  unfold State.strikeRemap; grind [State.modStack_sound]
theorem State.countPad_sound (s : State) (c : Nat) (off : Nat) :
    State.Sound s (State.countPad s c off) := by
  unfold State.countPad; grind [State.countDie_sound]
theorem State.countCore_sound (s : State) (i : Nat) (held : Bool) :
    State.Sound s (State.countCore s i held) := by
  unfold State.countCore; grind [State.countDie_sound]
theorem State.strike_sound (s : State) (u : Upset) :
    State.Sound s (State.strike s u) := by
  unfold State.strike; grind [State.strikeRemap_sound, State.modStack_sound, State.modCore_sound, State.modCoreCopy_sound, State.countCore_sound, State.modCopy_sound, State.countPad_sound, State.strikeTag_sound, State.strikeSector_sound, State.countDie_sound]
/-! ### Agents -/

theorem State.begun_sound (s : State) (q : Nat) :
    State.Sound s (State.begun s q) := by
  unfold State.begun; grind [State.modLaunch_sound, State.journal_sound]
theorem State.discard_sound (s : State) (q : Nat) :
    State.Sound s (State.discard s q) := by
  unfold State.discard; grind [State.passTime_sound, State.movePc_sound, State.endStep_sound]
/-! ### Step -/

/-! ### Core -/

/-! ### Registers -/


end Sys2Proof.Machine
end

