-- ==== Sys2Proof/Tests/Slice0.lean ====
section
/-!
SUPPORT. Sys2Proof/Tests/Slice0.lean: words decoded from the spec's encodings, the refusals of WellFormed, single steps on small
states with the results that the spec's text gives, and for every statement with hypotheses a state and operands that meet them.
-/

namespace Sys2Proof.Tests

-- Checked one after another: each of these proofs would otherwise take a thread of its own.
set_option Elab.async false

open Sys2Proof Sys2Proof.Machine

/-- A page of raw data, readable and writable, release consistent and plain, mapped where it lies (R294). -/
def page : TlbEntry :=
  { asid := 0, base := 0, limit := 0x100000, lo := 0, hi := 0x100000, delta := 0, attr := 0x7FB, range := false, sealed := false }

/-- A page of the host window at 0x100000. -/
def hostPage : TlbEntry := { page with base := 0x100000, limit := 0x200000, lo := 0x100000, hi := 0x200000, delta := 0x1000000000000 - 0x100000 }

/-- Sequencer 0 has the record `f` makes of an idle one, a trap handler at 0x2000, and one megabyte of device memory mapped. -/
def one (f : Seq → Seq) : State :=
  { State.reset.modSeq 0 (fun x => f { x with live := true, tr := { x.tr with tvec := 0x2000 } }) with
    tlb := [(0, [page, hostPage])] }

/-- Where the memory of `one` is mapped. -/
def mapped (va : Nat) : Xlat := { pa := va, attr := 0x7FB, base := 0, limit := 0x100000, va := va }

/-- Every byte of the first megabyte may be written. -/
theorem locate_one (f : Seq → Seq) (hf : ∀ x, (f x).cur = x.cur) (va n : Nat) (hn : 0 < n) (h : va + n ≤ 0x100000) :
    (one f).locate 0 va n .write = .ok (.glob (mapped va)) := by
  have hw : windowOf va = .global := by
    unfold windowOf laneBase padBase
    rw [if_neg (by omega), if_neg (by unfold padSize; omega), if_neg (by omega), if_neg (by omega)]
  have hc : ((one f).seq 0).cur = {} := hf _
  have hr : ∀ a, a < 0x100000 → regionOf a = .device := fun a h => by
    unfold regionOf deviceTop; rw [if_pos (by omega)]
  have hh : (one f).cached 0 0 va = some page := by
    have h1 : decide (page.lo ≤ va ∧ va < page.hi) = true := decide_eq_true (by simp only [page]; omega)
    have h2 : (page.asid == 0) = true := rfl
    simp only [State.cached, one, FMap.get, FMap.find?, if_true, Option.getD, List.find?, h1, h2, Bool.and_self]
  have hx : (one f).checkXlat page.sealed 0 n .write
      { pa := (va + page.delta) % 2 ^ 64, attr := page.attr, base := page.base, limit := page.limit, va := va } = .ok (mapped va) := by
    rw [show (va + page.delta) % 2 ^ 64 = va by simp only [page]; omega]
    change (one f).checkXlat false 0 n .write (mapped va) = .ok (mapped va)
    have h1 : regionOf (mapped va).pa = .device := hr va (by omega)
    have h2 : regionOf ((mapped va).pa + n - 1) = .device := hr (va + n - 1) (by omega)
    have h3 : aPerm (mapped va).attr = 3 ∧ aOrd (mapped va).attr = 0 ∧ aEsc (mapped va).attr = 0 := by
      change aPerm 0x7FB = 3 ∧ aOrd 0x7FB = 0 ∧ aEsc 0x7FB = 0; decide
    have h4 : ∀ a, (one f).inRanges 0 a = true := fun _ => rfl
    unfold State.checkXlat sealBad
    simp [h1, h2, h3, h4]
  have ht : (one f).translate 0 0 0 va n .write = .ok (mapped va) := by
    have hm : ∀ a, (one f).isMoved a = false := fun _ => rfl
    have hl : (one f).linkCut (0 / 256) .write (mapped va) = .ok (mapped va) := by
      have : (one f).d2dLost = false := rfl
      simp [State.linkCut, this]
    unfold State.translate
    simp only [hh, hx, hm, hl]
    rfl
  unfold State.locate
  simp only [hw, hc]
  have : coreOf 0 = 0 ∧ ({} : BindRec).asid = 0 ∧ ({} : BindRec).partition = 0 := by decide
  simp only [this.1, this.2.1, this.2.2, ht]
/-- The state after one instruction, or the state before it if the package stopped. -/
def after (i : Instr) (s : State) : State := match exec i s with | .next t => t | _ => s

/-- Sequencer 0 with one lane group, eight elements of s32 and registers a1 = 0x100, s1 = 2. -/
def vec (f : Seq → Seq) : State :=
  one fun x => f { x with grant := 1, a := [(1, 0x100)], s := [(1, 2)], csr := { x.csr with vtype := 0x25, vl := 8 } }

/-- A launch in state `st` with sequence number 0 of partition 0, bound to sequencer 0. -/
def launch (st : Nat) : Launch :=
  { packet := [], asid := 0, preload := 0, byK := false, prio := 0, time := 0, lstate := st, ranges := [⟨0, 0, 1, false, false⟩] }

/-- A state with that launch. -/
def withLaunch (s : State) (l : Launch) : State := { s with launches := [(launchKey 0 0, l)] }

/-- A partition 0 that takes launches: all clusters, weight 1, k.launch and k.egress allowed, all host addresses (R386). -/
def part0 : Part :=
  { Part.fresh with cfg := { words := [(0, 0xFFFFFFFF), (1, 0xFFFF0000), (2, 0x301), (7, 0xFFFFFFFFFF000)] } }

/-- The cause of an access that is refused; 0 for one that is not. -/
def causeOf {α : Type} : Except Nat α → Nat
  | .error c => c
  | .ok _ => 0

/-- What an access answers is its only answer. -/
theorem only {α : Type} {e : Except Nat α} {v : α} (h : e.toOption = some v) (t : α) (ht : e = .ok t) : t = v := by
  subst ht
  simpa [Except.toOption] using h

/-! ### Decoding: one word of every instruction, each field at a value of its own, by major (R29, R37 to R58) -/

theorem test_decode_major_00 : ∀ r ∈ ([
    (0x00000001, .kNop), (0x00190002, .kTrap 25), (0x00000003, .kBrk), (0x00000004, .kEret), (0x00000005, .kWfi),
    (0x00000006, .kEnd), (0x00000007, .kClaim), (0x00BB0008, .kFence 5 27), (0x01B60009, .kLaunch 13 22),
    (0x01B6000A, .kEgress 13 22), (0x0016000B, .kYield 22)] : List (Nat × Instr)),
    decodeTableWord 32 r.1 = some r.2 := by decide +kernel

theorem test_decode_major_01 : ∀ r ∈ ([
    (0x05B6010D, .kcRw 13 22 0x10d), (0x05B6410D, .kcRs 13 22 0x10d), (0x05B6810D, .kcRc 13 22 0x10d),
    (0x05A0C10D, .kcR 13 0x10d)] : List (Nat × Instr)),
    decodeTableWord 32 r.1 = some r.2 := by decide +kernel

theorem test_decode_major_02 : ∀ r ∈ ([
    (0x09B63800, .aAdd 13 22 7), (0x09B63801, .aSub 13 22 7), (0x09B63802, .aAnd 13 22 7), (0x09B63803, .aOr 13 22 7),
    (0x09B63804, .aXor 13 22 7), (0x09B63805, .aShl 13 22 7), (0x09B63806, .aShr 13 22 7), (0x09B63807, .aSra 13 22 7),
    (0x09B63808, .aSlt 13 22 7), (0x09B63809, .aSltz 13 22 7), (0x09B6380A, .aMin 13 22 7), (0x09B6380B, .aMax 13 22 7),
    (0x09B6380C, .aMinz 13 22 7), (0x09B6380D, .aMaxz 13 22 7), (0x09B6380E, .aMul 13 22 7), (0x09B6380F, .aMulh 13 22 7),
    (0x09B63810, .aMulhz 13 22 7), (0x09B63811, .aDiv 13 22 7), (0x09B63812, .aDivz 13 22 7), (0x09B63813, .aRem 13 22 7),
    (0x09B63814, .aRemz 13 22 7), (0x09B60015, .aClz 13 22), (0x09B60016, .aCtz 13 22), (0x09B60017, .aPop 13 22),
    (0x09B63818, .aAddw 13 22 7), (0x09B63819, .aSubw 13 22 7), (0x09B6081A, .aSext 13 22 .b16), (0x09B6081B, .aZext 13 22 .b16)] : List (Nat × Instr)),
    decodeTableWord 32 r.1 = some r.2 := by decide +kernel

theorem test_decode_major_03 : ∀ r ∈ ([
    (0x0DB60A5C, .aiAdd 13 22 0xa5c), (0x0DB61A5C, .aiAnd 13 22 0xa5c), (0x0DB62A5C, .aiOr 13 22 0xa5c),
    (0x0DB63A5C, .aiXor 13 22 0xa5c), (0x0DB6402D, .aiShl 13 22 45), (0x0DB6502D, .aiShr 13 22 45),
    (0x0DB6602D, .aiSra 13 22 45), (0x0DB67A5C, .aiSlt 13 22 0xa5c), (0x0DB68A5C, .aiSltz 13 22 0xa5c),
    (0x0DB69A5C, .aiMul 13 22 0xa5c)] : List (Nat × Instr)),
    decodeTableWord 32 r.1 = some r.2 := by decide +kernel

theorem test_decode_major_04 : ∀ r ∈ ([
    (0x11B63800, .sAdd 13 22 7), (0x11B63801, .sSub 13 22 7), (0x11B63802, .sAnd 13 22 7), (0x11B63803, .sOr 13 22 7),
    (0x11B63804, .sXor 13 22 7), (0x11B63805, .sShl 13 22 7), (0x11B63806, .sShr 13 22 7), (0x11B63807, .sSra 13 22 7),
    (0x11B63808, .sSlt 13 22 7), (0x11B63809, .sSltz 13 22 7), (0x11B6380A, .sMin 13 22 7), (0x11B6380B, .sMax 13 22 7),
    (0x11B6380C, .sMinz 13 22 7), (0x11B6380D, .sMaxz 13 22 7), (0x11B6380E, .sMul 13 22 7), (0x11B6380F, .sMulh 13 22 7),
    (0x11B63810, .sMulhz 13 22 7), (0x11B63811, .sDiv 13 22 7), (0x11B63812, .sDivz 13 22 7), (0x11B63813, .sRem 13 22 7),
    (0x11B63814, .sRemz 13 22 7), (0x11B60015, .sClz 13 22), (0x11B60016, .sCtz 13 22), (0x11B60017, .sPop 13 22),
    (0x11B63818, .sAddw 13 22 7), (0x11B63819, .sSubw 13 22 7), (0x11B6081A, .sSext 13 22 .b16),
    (0x11B6081B, .sZext 13 22 .b16), (0x10163820, .sBqeq 22 7), (0x10163821, .sBqne 22 7), (0x10163822, .sBqlt 22 7),
    (0x10163823, .sBqge 22 7), (0x10163824, .sBqltz 22 7), (0x10163825, .sBqgez 22 7)] : List (Nat × Instr)),
    decodeTableWord 32 r.1 = some r.2 := by decide +kernel

theorem test_decode_major_05 : ∀ r ∈ ([
    (0x15B60A5C, .siAdd 13 22 0xa5c), (0x15B61A5C, .siAnd 13 22 0xa5c), (0x15B62A5C, .siOr 13 22 0xa5c),
    (0x15B63A5C, .siXor 13 22 0xa5c), (0x15B6402D, .siShl 13 22 45), (0x15B6502D, .siShr 13 22 45),
    (0x15B6602D, .siSra 13 22 45), (0x15B67A5C, .siSlt 13 22 0xa5c), (0x15B68A5C, .siSltz 13 22 0xa5c),
    (0x15B69A5C, .siMul 13 22 0xa5c)] : List (Nat × Instr)),
    decodeTableWord 32 r.1 = some r.2 := by decide +kernel

theorem test_decode_major_06 : ∀ r ∈ ([
    (0x19B8BEA7, .ins 13 true 2 0xbea7)] : List (Nat × Instr)),
    decodeTableWord 32 r.1 = some r.2 := by decide +kernel

theorem test_decode_major_07 : ∀ r ∈ ([
    (0x1DB6AAB5, .ld 13 22 .z16 false .strong 0x2b5)] : List (Nat × Instr)),
    decodeTableWord 32 r.1 = some r.2 := by decide +kernel

theorem test_decode_major_08 : ∀ r ∈ ([
    (0x21B64AB5, .st 13 22 .s32 false .strong 0x2b5)] : List (Nat × Instr)),
    decodeTableWord 32 r.1 = some r.2 := by decide +kernel

theorem test_decode_major_09 : ∀ r ∈ ([
    (0x25B60000, .lkLl 13 22), (0x25B63801, .lkSc 13 22 7), (0x25B60002, .lkLl32 13 22), (0x25B63803, .lkSc32 13 22 7)] : List (Nat × Instr)),
    decodeTableWord 32 r.1 = some r.2 := by decide +kernel

theorem test_decode_major_0a : ∀ r ∈ ([
    (0x2AC715A6, .bEq 22 7 .ifTaken 0x5a6), (0x2AC735A6, .bNe 22 7 .ifTaken 0x5a6), (0x2AC755A6, .bLt 22 7 .ifTaken 0x5a6),
    (0x2AC775A6, .bGe 22 7 .ifTaken 0x5a6), (0x2AC795A6, .bLtz 22 7 .ifTaken 0x5a6), (0x2AC7B5A6, .bGez 22 7 .ifTaken 0x5a6)] : List (Nat × Instr)),
    decodeTableWord 32 r.1 = some r.2 := by decide +kernel

theorem test_decode_major_0b : ∀ r ∈ ([
    (0x2C0015A6, .bqT .ifTaken 0x5a6), (0x2C0035A6, .bqF .ifTaken 0x5a6)] : List (Nat × Instr)),
    decodeTableWord 32 r.1 = some r.2 := by decide +kernel

theorem test_decode_major_0c : ∀ r ∈ ([
    (0x32A5C3B7, .j .ifTaken 0xa5c3b7)] : List (Nat × Instr)),
    decodeTableWord 32 r.1 = some r.2 := by decide +kernel

theorem test_decode_major_0d : ∀ r ∈ ([
    (0x36A5C3B7, .jal .ifTaken 0xa5c3b7)] : List (Nat × Instr)),
    decodeTableWord 32 r.1 = some r.2 := by decide +kernel

theorem test_decode_major_0e : ∀ r ∈ ([
    (0x39B60000, .jr 13 22)] : List (Nat × Instr)),
    decodeTableWord 32 r.1 = some r.2 := by decide +kernel

theorem test_decode_major_0f : ∀ r ∈ ([
    (0x3C160000, .xStoa 22), (0x3DA00001, .xAfroms 13), (0x3C160002, .xAtoe 22), (0x3DA00003, .xSfrome 13),
    (0x3C160004, .xSpush 22), (0x3C05A805, .xDrain 0xb5)] : List (Nat × Instr)),
    decodeTableWord 32 r.1 = some r.2 := by decide +kernel

theorem test_decode_major_10 : ∀ r ∈ ([
    (0x41B63B00, .sfAdd 13 22 7 .f64), (0x41B63B01, .sfSub 13 22 7 .f64), (0x41B63B02, .sfMul 13 22 7 .f64),
    (0x41B63B03, .sfDiv 13 22 7 .f64), (0x41B60304, .sfSqrt 13 22 .f64), (0x41B63B05, .sfMin 13 22 7 .f64),
    (0x41B63B06, .sfMax 13 22 7 .f64), (0x41B63B07, .sfFma 13 22 7 .f64), (0x41B60308, .sfCvfi 13 22 .f64),
    (0x41B60309, .sfCvif 13 22 .f64), (0x41B6010A, .sfCvff 13 22 .bf), (0x41B63B0B, .sfLt 13 22 7 .f64),
    (0x41B63B0C, .sfEq 13 22 7 .f64), (0x41B63B0D, .sfLe 13 22 7 .f64)] : List (Nat × Instr)),
    decodeTableWord 32 r.1 = some r.2 := by decide +kernel

theorem test_decode_major_18 : ∀ r ∈ ([
    (0x60DB1C00, .vcSetvl 13 22 7), (0x60D01C01, .vcSetvlmax 13 7)] : List (Nat × Instr)),
    decodeTableWord 32 r.1 = some r.2 := by decide +kernel

theorem test_decode_major_19 : ∀ r ∈ ([
    (0x66DB1E80, .vAdd true 13 22 7 5), (0x66DB1E81, .vSub true 13 22 7 5), (0x66DB1E82, .vRsub true 13 22 7 5),
    (0x66DB1E83, .vMul true 13 22 7 5), (0x66DB1E84, .vMulh true 13 22 7 5), (0x66DB1E85, .vMulhz true 13 22 7 5),
    (0x66DB1E86, .vMac true 13 22 7 5), (0x66DB1E87, .vNmac true 13 22 7 5), (0x66DB1E88, .vAnd true 13 22 7 5),
    (0x66DB1E89, .vOr true 13 22 7 5), (0x66DB1E8A, .vXor true 13 22 7 5), (0x66DB1E8B, .vShl true 13 22 7 5),
    (0x66DB1E8C, .vShr true 13 22 7 5), (0x66DB1E8D, .vSra true 13 22 7 5), (0x66DB1E8E, .vRshr true 13 22 7 5),
    (0x66DB1E8F, .vRshre true 13 22 7 5), (0x66DB1E90, .vMin true 13 22 7 5), (0x66DB1E91, .vMax true 13 22 7 5),
    (0x66DB1E92, .vMinz true 13 22 7 5), (0x66DB1E93, .vMaxz true 13 22 7 5), (0x66DB0294, .vAbs true 13 22 5),
    (0x66DB1E95, .vAvg true 13 22 7 5), (0x66DB1E96, .vDiv true 13 22 7 5), (0x66DB1E97, .vDivz true 13 22 7 5),
    (0x66DB1E98, .vRem true 13 22 7 5), (0x66DB1E99, .vRemz true 13 22 7 5), (0x666B1E9A, .vCmpeq true 6 22 7 5),
    (0x666B1E9B, .vCmpne true 6 22 7 5), (0x666B1E9C, .vCmplt true 6 22 7 5), (0x666B1E9D, .vCmple true 6 22 7 5),
    (0x666B1E9E, .vCmpltz true 6 22 7 5), (0x666B1E9F, .vCmplez true 6 22 7 5), (0x66DB1EA0, .vSel true 13 22 7 5),
    (0x66DB02A1, .vMv true 13 22 5), (0x66DB02A2, .vClz true 13 22 5), (0x66DB02A3, .vPop true 13 22 5)] : List (Nat × Instr)),
    decodeTableWord 32 r.1 = some r.2 := by decide +kernel

theorem test_decode_major_1a : ∀ r ∈ ([
    (0x6ADB1E80, .vsAdd true 13 22 7 5), (0x6ADB1E81, .vsSub true 13 22 7 5), (0x6ADB1E82, .vsRsub true 13 22 7 5),
    (0x6ADB1E83, .vsMul true 13 22 7 5), (0x6ADB1E84, .vsMulh true 13 22 7 5), (0x6ADB1E85, .vsMulhz true 13 22 7 5),
    (0x6ADB1E86, .vsMac true 13 22 7 5), (0x6ADB1E87, .vsNmac true 13 22 7 5), (0x6ADB1E88, .vsAnd true 13 22 7 5),
    (0x6ADB1E89, .vsOr true 13 22 7 5), (0x6ADB1E8A, .vsXor true 13 22 7 5), (0x6ADB1E8B, .vsShl true 13 22 7 5),
    (0x6ADB1E8C, .vsShr true 13 22 7 5), (0x6ADB1E8D, .vsSra true 13 22 7 5), (0x6ADB1E8E, .vsRshr true 13 22 7 5),
    (0x6ADB1E8F, .vsRshre true 13 22 7 5), (0x6ADB1E90, .vsMin true 13 22 7 5), (0x6ADB1E91, .vsMax true 13 22 7 5),
    (0x6ADB1E92, .vsMinz true 13 22 7 5), (0x6ADB1E93, .vsMaxz true 13 22 7 5), (0x6ADB1E95, .vsAvg true 13 22 7 5),
    (0x6ADB1E96, .vsDiv true 13 22 7 5), (0x6ADB1E97, .vsDivz true 13 22 7 5), (0x6ADB1E98, .vsRem true 13 22 7 5),
    (0x6ADB1E99, .vsRemz true 13 22 7 5), (0x6A6B1E9A, .vsCmpeq true 6 22 7 5), (0x6A6B1E9B, .vsCmpne true 6 22 7 5),
    (0x6A6B1E9C, .vsCmplt true 6 22 7 5), (0x6A6B1E9D, .vsCmple true 6 22 7 5), (0x6A6B1E9E, .vsCmpltz true 6 22 7 5),
    (0x6A6B1E9F, .vsCmplez true 6 22 7 5), (0x6ADB1EA0, .vsSel true 13 22 7 5), (0x6AD01EA1, .vsMv true 13 7 5)] : List (Nat × Instr)),
    decodeTableWord 32 r.1 = some r.2 := by decide +kernel

theorem test_decode_major_1b : ∀ r ∈ ([
    (0x6EDB4E80, .viAdd true 13 22 19 5), (0x6EDB4E81, .viSub true 13 22 19 5), (0x6EDB4E82, .viRsub true 13 22 19 5),
    (0x6EDB4E83, .viMul true 13 22 19 5), (0x6EDB4E84, .viMulh true 13 22 19 5), (0x6EDB4E85, .viMulhz true 13 22 19 5),
    (0x6EDB4E86, .viMac true 13 22 19 5), (0x6EDB4E87, .viNmac true 13 22 19 5), (0x6EDB4E88, .viAnd true 13 22 19 5),
    (0x6EDB4E89, .viOr true 13 22 19 5), (0x6EDB4E8A, .viXor true 13 22 19 5), (0x6EDB4E8B, .viShl true 13 22 19 5),
    (0x6EDB4E8C, .viShr true 13 22 19 5), (0x6EDB4E8D, .viSra true 13 22 19 5), (0x6EDB4E8E, .viRshr true 13 22 19 5),
    (0x6EDB4E8F, .viRshre true 13 22 19 5), (0x6EDB4E90, .viMin true 13 22 19 5), (0x6EDB4E91, .viMax true 13 22 19 5),
    (0x6EDB4E92, .viMinz true 13 22 19 5), (0x6EDB4E93, .viMaxz true 13 22 19 5), (0x6EDB4E95, .viAvg true 13 22 19 5),
    (0x6EDB4E96, .viDiv true 13 22 19 5), (0x6EDB4E97, .viDivz true 13 22 19 5), (0x6EDB4E98, .viRem true 13 22 19 5),
    (0x6EDB4E99, .viRemz true 13 22 19 5), (0x6E6B4E9A, .viCmpeq true 6 22 19 5), (0x6E6B4E9B, .viCmpne true 6 22 19 5),
    (0x6E6B4E9C, .viCmplt true 6 22 19 5), (0x6E6B4E9D, .viCmple true 6 22 19 5), (0x6E6B4E9E, .viCmpltz true 6 22 19 5),
    (0x6E6B4E9F, .viCmplez true 6 22 19 5), (0x6EDB4EA0, .viSel true 13 22 19 5), (0x6ED04EA1, .viMv true 13 19 5)] : List (Nat × Instr)),
    decodeTableWord 32 r.1 = some r.2 := by decide +kernel

theorem test_decode_major_1c : ∀ r ∈ ([
    (0x72DB1E80, .vfAdd true 13 22 7 5), (0x72DB1E81, .vfSub true 13 22 7 5), (0x72DB1E82, .vfMul true 13 22 7 5),
    (0x72DB1E83, .vfDiv true 13 22 7 5), (0x72DB1E84, .vfFma true 13 22 7 5), (0x72DB1E85, .vfFms true 13 22 7 5),
    (0x72DB1E86, .vfFnma true 13 22 7 5), (0x72DB1E87, .vfMin true 13 22 7 5), (0x72DB1E88, .vfMax true 13 22 7 5),
    (0x72DB0289, .vfAbs true 13 22 5), (0x72DB028A, .vfNeg true 13 22 5), (0x72DB028B, .vfSqrt true 13 22 5),
    (0x72DB028C, .vfRcpe true 13 22 5), (0x72DB028D, .vfRsqe true 13 22 5), (0x72DB028E, .vfExp2 true 13 22 5),
    (0x726B1E8F, .vfCmpeq true 6 22 7 5), (0x726B1E90, .vfCmplt true 6 22 7 5), (0x726B1E91, .vfCmple true 6 22 7 5),
    (0x72DB0292, .vfClass true 13 22 5), (0x72DB1E93, .vfSgnj true 13 22 7 5), (0x72DB1E94, .vfMaxm true 13 22 7 5)] : List (Nat × Instr)),
    decodeTableWord 32 r.1 = some r.2 := by decide +kernel

theorem test_decode_major_1d : ∀ r ∈ ([
    (0x76DB1E80, .vfsAdd true 13 22 7 5), (0x76DB1E81, .vfsSub true 13 22 7 5), (0x76DB1E82, .vfsMul true 13 22 7 5),
    (0x76DB1E83, .vfsDiv true 13 22 7 5), (0x76DB1E84, .vfsFma true 13 22 7 5), (0x76DB1E85, .vfsFms true 13 22 7 5),
    (0x76DB1E86, .vfsFnma true 13 22 7 5), (0x76DB1E87, .vfsMin true 13 22 7 5), (0x76DB1E88, .vfsMax true 13 22 7 5),
    (0x766B1E8F, .vfsCmpeq true 6 22 7 5), (0x766B1E90, .vfsCmplt true 6 22 7 5), (0x766B1E91, .vfsCmple true 6 22 7 5),
    (0x76DB1E93, .vfsSgnj true 13 22 7 5), (0x76DB1E94, .vfsMaxm true 13 22 7 5)] : List (Nat × Instr)),
    decodeTableWord 32 r.1 = some r.2 := by decide +kernel

theorem test_decode_major_1e : ∀ r ∈ ([
    (0x7ADB0280, .vcvCvt true 13 22 5), (0x7ADB0281, .vcvCvts true 13 22 5), (0x7ADB1E82, .vcvQnt true 13 22 7 5),
    (0x7ADB2683, .vcvHad true 13 22 9 5), (0x7ADB1E84, .vcvHash true 13 22 7 5), (0x7AD01E85, .vcvIota true 13 7 5)] : List (Nat × Instr)),
    decodeTableWord 32 r.1 = some r.2 := by decide +kernel

theorem test_decode_major_1f : ∀ r ∈ ([
    (0x7EDB1E80, .vpSlup true 13 22 7 5), (0x7EDB1E81, .vpSldn true 13 22 7 5), (0x7EDB1E82, .vpRgat true 13 22 7 5),
    (0x7EDB0283, .vpCmpr true 13 22 5), (0x7EDB0284, .vpExpd true 13 22 5), (0x7EDB2685, .vpXchg true 13 22 9 5),
    (0x7EDB0286, .vpSort true 13 22 5), (0x7EDB1E87, .vpMerge true 13 22 7 5), (0x7EDB1E88, .vpRsum true 13 22 7 5),
    (0x7EDB1E89, .vpRmax true 13 22 7 5), (0x7EDB1E8A, .vpRmin true 13 22 7 5), (0x7EDB1E8B, .vpRand true 13 22 7 5),
    (0x7EDB1E8C, .vpRor true 13 22 7 5), (0x7EDB1E8D, .vpFrsum true 13 22 7 5), (0x7EDB1E8E, .vpFrmax true 13 22 7 5),
    (0x7EDB1E8F, .vpFrmin true 13 22 7 5), (0x7EDB1E90, .vpScan true 13 22 7 5), (0x7EDB1E91, .vpFscan true 13 22 7 5),
    (0x7E619C12, .vpMand true 6 3 7), (0x7E619C13, .vpMor true 6 3 7), (0x7E619C14, .vpMxor true 6 3 7),
    (0x7E618015, .vpMnot true 6 3), (0x7ED18016, .vpMpop true 13 3), (0x7ED18017, .vpMffs true 13 3),
    (0x7E6B0018, .vpMfirst true 6 22), (0x7EDB1E99, .vpBcast true 13 22 7 5), (0x7EDB1C1A, .vpExt true 13 22 7),
    (0x7EDB1C1B, .vpInsrt true 13 22 7)] : List (Nat × Instr)),
    decodeTableWord 32 r.1 = some r.2 := by decide +kernel

theorem test_decode_major_20 : ∀ r ∈ ([
    (0x82DB6EAE, .vld true 13 22 27 5 .stride 3 .elem)] : List (Nat × Instr)),
    decodeTableWord 32 r.1 = some r.2 := by decide +kernel

theorem test_decode_major_21 : ∀ r ∈ ([
    (0x86DB6EAE, .vst true 13 22 27 5 .stride 3 .elem)] : List (Nat × Instr)),
    decodeTableWord 32 r.1 = some r.2 := by decide +kernel

theorem test_decode_major_22 : ∀ r ∈ ([
    (0x8ADB6EC0, .vlkGl true 13 22 27 5), (0x8ADB6EC1, .vlkSc true 13 22 27 5)] : List (Nat × Instr)),
    decodeTableWord 32 r.1 = some r.2 := by decide +kernel

theorem test_decode_major_23 : ∀ r ∈ ([
    (0x8EEB1E80, .vwWmac true 14 22 7 5), (0x8EEB1E81, .vwWmacz true 14 22 7 5), (0x8EEB1E82, .vwWmacsz true 14 22 7 5),
    (0x8EEB1E83, .vwWadd true 14 22 7 5), (0x8EEB1E84, .vwWaddz true 14 22 7 5), (0x8EEB1E85, .vwWmul true 14 22 7 5),
    (0x8EEB0286, .vwNsat true 14 22 5), (0x8EEB0287, .vwNsatz true 14 22 5), (0x8EEB4E88, .vwNrshr true 14 22 19 5)] : List (Nat × Instr)),
    decodeTableWord 32 r.1 = some r.2 := by decide +kernel

theorem test_decode_major_28 : ∀ r ∈ ([
    (0xA0001000, .mOn 16), (0xA0000001, .mOff), (0xA0800002, .mZero true), (0xA0D8E003, .mOpa true 22 7),
    (0xA0D8E004, .mOps true 22 7), (0xA0D81005, .mRdrow true 22 16), (0xA0D81006, .mWrrow true 22 16),
    (0xA0D81007, .mRdcol true 22 16), (0xA0801008, .mSt true 16), (0xA0801009, .mLd true 16), (0xA300100A, .mLdtab 3 16)] : List (Nat × Instr)),
    decodeTableWord 32 r.1 = some r.2 := by decide +kernel

theorem test_decode_major_29 : ∀ r ∈ ([
    (0xA7D8F006, .mtMul 3 true 22 7 16 6)] : List (Nat × Instr)),
    decodeTableWord 32 r.1 = some r.2 := by decide +kernel

theorem test_decode_major_30 : ∀ r ∈ ([
    (0xC02C7CEB, .cCopy 22 7 25 6 11), (0xC06C7CEB, .cGath 22 7 25 6 11), (0xC0AC7CEB, .cScat 22 7 25 6 11),
    (0xC0EC7CEB, .cXf 22 7 25 6 11), (0xC12C706B, .cFill 22 7 6 11), (0xC1400060, .cWait 6)] : List (Nat × Instr)),
    decodeTableWord 32 r.1 = some r.2 := by decide +kernel

theorem test_decode_major_31 : ∀ r ∈ ([
    (0xC4165800, .cbSet 22 11), (0xC4005801, .cbArr 11), (0xC4005802, .cbWt 11), (0xC4005803, .cbArw 11),
    (0xC5A05804, .cbSt 13 11)] : List (Nat × Instr)),
    decodeTableWord 32 r.1 = some r.2 := by decide +kernel

theorem test_decode_major_34 : ∀ r ∈ ([
    (0xD0DB0000, .pBind 13 22), (0xD0DB1E90, .pApp 13 22 7 5), (0xD0DB1EA9, .pLd 13 22 7 5 9), (0xD0DB1C39, .pLds 13 22 7 9),
    (0xD0DB0043, .pInfo 13 22 3), (0xD00B0050, .pUnbind 22)] : List (Nat × Instr)),
    decodeTableWord 32 r.1 = some r.2 := by decide +kernel

theorem test_decode_major_38 : ∀ r ∈ ([
    (0xE1B60000, .fColl 13 22), (0xE0160001, .fWait 22), (0xE1B60002, .fTest 13 22)] : List (Nat × Instr)),
    decodeTableWord 32 r.1 = some r.2 := by decide +kernel

theorem test_decode_major_3c : ∀ r ∈ ([
    (0xF0163800, .wMark 22 7), (0xF1A00001, .wInfo 13)] : List (Nat × Instr)),
    decodeTableWord 32 r.1 = some r.2 := by decide +kernel

theorem test_decode_major_3e : ∀ r ∈ ([
    (0xF9B63800, .hPf 13 22 7), (0xF9B63801, .hPfs 13 22 7)] : List (Nat × Instr)),
    decodeTableWord 32 r.1 = some r.2 := by decide +kernel

/-! ### A state and operands for the hypotheses of each statement -/

/-- The handler of `one` takes every cause but 24. -/
theorem handles_one : ∀ c, c < 24 → (one id).Handles 0 c := by
  unfold State.Handles; decide +kernel

theorem witness_ImmediateAlu :
    (63 < 64 ∧ (31 : Reg) ≠ 0 ∧ 63 / 16 = (3 : BitVec 2).toNat) ∧ (0 < 64 ∧ (1 : Reg) ≠ 0 ∧ 0 / 16 ≠ (3 : BitVec 2).toNat) := by
  decide

/-- Seven entries leave room in bq, eight do not. -/
theorem witness_BranchQueuePushes :
    let s (n : Nat) : State := one fun x => { x with qs := { x.qs with bq := List.replicate n true } }
    ((s 7).seq 0).qs.bq.length < 8 ∧ 8 ≤ ((s 8).seq 0).qs.bq.length ∧ (s 8).Handles 0 1 := by
  unfold State.Handles; decide +kernel

theorem witness_QueueBranches :
    ((one fun x => { x with qs := { x.qs with bq := [false] } }).seq 0).qs.bq = false :: []
      ∧ ((one fun x => { x with qs := { x.qs with bq := [true, false] } }).seq 0).qs.bq = true :: [false]
      ∧ ((one id).seq 0).qs.bq = [] ∧ (one id).Handles 0 1 := by
  unfold State.Handles; decide +kernel

/-- Slots that are fetched, a misaligned target, and a queue at the end of the mapped memory whose slots are not fetched. -/
theorem witness_Jumps :
    let far := one fun x => { x with pc := { x.pc with q0 := 0x1FFFFC } }
    let odd := one fun x => { x with a := [(1, 0x102)] }
    ((one id).fetchUnit 0 4).2 = none ∧ ((one id).fetchUnit 0 8).2 = none
      ∧ ((one id).seq 0).getA 1 = 0
      ∧ (odd.seq 0).getA 1 = 0x102 ∧ odd.Handles 0 3
      ∧ (far.fetchUnit 0 0x200000).2 = some (5, 0x200000) ∧ far.Handles 0 5 := by
  unfold State.Handles; decide +kernel

theorem witness_TransferPushes :
    let s (n : Nat) : State := one fun x => { x with qs := {
      xa := List.replicate n 0, xe := List.replicate n { val := 0 }, sq := List.replicate (2 * n) 0 } }
    (((s 7).seq 0).qs.xa.length < 8 ∧ ((s 7).seq 0).qs.xe.length < 8 ∧ ((s 7).seq 0).qs.sq.length < 16)
      ∧ 8 ≤ ((s 8).seq 0).qs.xa.length ∧ 8 ≤ ((s 8).seq 0).qs.xe.length ∧ 16 ≤ ((s 8).seq 0).qs.sq.length ∧ (s 8).Handles 0 1 := by
  unfold State.Handles; decide +kernel

theorem witness_TransferPops :
    let mark : PoisonMark := { cause := 6, addr := 0x100, word := 0x40 }
    let s := one fun x => { x with qs := { x.qs with xa := [7], xe := [{ val := 9 }] } }
    let bad := one fun x => { x with qs := { x.qs with xe := [{ val := 0, bad := some mark }] } }
    (s.seq 0).qs.xa = 7 :: [] ∧ (s.seq 0).qs.xe = { val := 9 } :: []
      ∧ ((one id).seq 0).qs.xa = [] ∧ ((one id).seq 0).qs.xe = [] ∧ (one id).Handles 0 1
      ∧ (bad.seq 0).qs.xe = { val := 0, bad := some mark } :: [] ∧ bad.Handles 0 9 := by
  unfold State.Handles; decide +kernel

/-- The largest binary16 number, and its smallest subnormal with outputs that are not flushed. -/
theorem witness_RoundingAndSpecials :
    (0x7BFF < 2 ^ (Fmt.ieee .h).width ∧ decodeIeee .h 0x7BFF = .fin false 2047 5 ∧ 2 ^ (Fmt.ieee .h).tbits ≤ 2047)
      ∧ (0x0001 < 2 ^ (Fmt.ieee .h).width ∧ decodeIeee .h 0x0001 = .fin false 1 (-24) ∧ (FCtl.of 0).flushOut = false) := by
  decide +kernel

theorem witness_SetVectorLength :
    let s := one fun x => { x with s := [(2, 0x25)], grant := 0xF }
    let bad := one fun x => { x with s := [(2, 0x07)], grant := 0xF }
    let froz : State := { one (fun x => { x with tr := { x.tr with inTrap := true }, grant := 1 }) with
      launches := [(launchKey 0 0, { packet := [], asid := 0, preload := 0, byK := false, prio := 0, time := 0, lstate := 3 })] }
    ((s.seq 0).frozen = false ∧ (s.seq 0).reclaim = none ∧ vtUsable ((s.seq 0).getS 2) = true)
      ∧ ((bad.seq 0).frozen = false ∧ (bad.seq 0).reclaim = none ∧ vtUsable ((bad.seq 0).getS 2) = false ∧ bad.Handles 0 12)
      ∧ ((froz.seq 0).frozen = true ∧ ((froz.launch? 0 0).map Launch.lstate) = some 3 ∧ 3 < 4) := by
  unfold State.Handles; decide +kernel

/-- 0x007 lies between two CSRs that the list has, 0x203 follows its last. -/
theorem witness_CsrReads :
    (∀ c ∈ ([0x000, 0x007, 0x00C, 0x203, 0x3FFF] : List Nat), (one id).readCsr 0 c = none) ∧ (one id).Handles 0 1 := by
  unfold State.Handles; decide +kernel

theorem witness_CsrWrites :
    ((5 : Reg) ≠ 0)
      ∧ (∀ c ∈ ([1, 6, 0x30, 0x31, 0x100, 0x103, 0x104, 0x105, 0x106, 0x108, 0x109, 0x10A, 0x10B, 0x10C, 0x10D, 0x10F, 0x201, 0x202]
          : List Nat), ((one id).readCsr 0 c).isSome = true)
      ∧ ((one id).seq 0).resume = false ∧ (one id).Handles 0 1 := by
  unfold State.Handles; decide +kernel

theorem witness_NopTrapBreak :
    let s : State := { one id with parts := [(0, { Part.fresh with brkstop := true })] }
    (one id).Handles 0 15 ∧ (one id).Handles 0 16 ∧ ((one id).part ((one id).seq 0).cur.partition).brkstop = false
      ∧ (s.part (s.seq 0).cur.partition).brkstop = true ∧ (s.seq 0).live = true := by
  unfold State.Handles; decide +kernel

/-- Two sequencers of one launch, the second of which stops with the first. -/
theorem witness_NopTrapBreak_other :
    let s := (one id).modSeq 1 fun x => { x with live := true }
    (1 ≠ 0) ∧ (s.seq 1).live = true ∧ (s.seq 1).cur.partition = (s.seq 0).cur.partition ∧ (s.seq 1).cur.seq = (s.seq 0).cur.seq := by
  decide +kernel

theorem witness_TrapReturn :
    let s := one fun x => { x with tr := { x.tr with inTrap := true } }
    ((s.seq 0).tr.inTrap = true ∧ (s.seq 0).tr.claimed = false) ∧ ((one id).seq 0).tr.inTrap = false ∧ (one id).Handles 0 1 := by
  unfold State.Handles; decide +kernel

/-- The claim area at both ends of the scratchpad. -/
theorem witness_ClaimSpills :
    let s (b : Word) : State := one fun x => { x with tr := { x.tr with inTrap := true, claimbase := b } }
    let c := one fun x => { x with tr := { x.tr with inTrap := true, claimed := true } }
    (∀ b ∈ ([s 0xFFFFFF0000000000, s 0xFFFFFF00003FB800] : List State),
        (b.seq 0).tr.inTrap = true ∧ (b.seq 0).tr.claimed = false ∧ (b.seq 0).cur.log = 0 ∧ b.storesOpen 0 = false
          ∧ padBase ≤ (b.seq 0).tr.claimbase.toNat ∧ (b.seq 0).tr.claimbase.toNat + 0x4800 ≤ padBase + padSize)
      ∧ ((c.seq 0).tr.inTrap = true ∧ (c.seq 0).tr.claimed = true) ∧ ((one id).seq 0).tr.inTrap = false ∧ (one id).Handles 0 1 := by
  unfold State.Handles; decide +kernel

/-- A claim area in memory, every piece of which may be written. -/
theorem witness_ClaimSpills_memory :
    let s := one fun x => { x with tr := { x.tr with inTrap := true, claimbase := 0x4000 } }
    ((s.seq 0).tr.inTrap = true ∧ (s.seq 0).tr.claimed = false ∧ (s.seq 0).cur.log = 0)
      ∧ ∀ va n, (s.seq 0).tr.claimbase.toNat ≤ va → 0 < n → va + n ≤ (s.seq 0).tr.claimbase.toNat + 0x4800 → va % 128 + n ≤ 128 →
        s.locate 0 va n .write = .ok (.glob (mapped va)) ∧ aStore (mapped va).attr ≠ 3 := by
  intro s
  have hb : (s.seq 0).tr.claimbase.toNat = 0x4000 := by decide +kernel
  refine ⟨by decide +kernel, fun va n _ hn he _ => ⟨?_, by simp only [mapped]; decide⟩⟩
  rw [hb] at he
  exact locate_one (fun x => { x with tr := { x.tr with inTrap := true, claimbase := 0x4000 } }) (fun _ => rfl) va n hn (by omega)

/-- A claim area outside the mapped memory, in a trap of a running launch. -/
theorem witness_ClaimSpills_double :
    let s := withLaunch (one fun x => { x with tr := { x.tr with inTrap := true, claimbase := 0x200000 } }) (launch 3)
    (s.seq 0).tr.inTrap = true ∧ (s.seq 0).tr.claimed = false ∧ s.launch? 0 0 = some (launch 3) ∧ (launch 3).lstate < 4
      ∧ causeOf (s.locate 0 0x200000 (128 - 0x200000 % 128) .write) = 5 := by
  decide +kernel

theorem witness_WaitFenceYield :
    let st : PStore := { parts := [(0, [1])], ord := 0 }
    let t (n : Word) : State := one fun x => { x with tr := { x.tr with tcmp := n }, csr := { x.csr with cycle := 5 } }
    let d := one fun x => { x with tr := { x.tr with dbpend := true } }
    let w := one fun x => { x with woken := true }
    let e := one fun x => { x with tags := [(1, { count := 1 })] }
    let o := one fun x => { x with stores := [st] }
    let peer := one fun x => { x with stores := [{ st with parts := [(peerBase + 5 * 2 ^ 40, [1])] }] }
    ((peer.seq 0).peerErr = none ∧ peer.peerOpen 0 = true ∧ (one id).peerOpen 0 = false) ∧ (((t 5).seq 0).tr.inTrap = false ∧ ((t 5).seq 0).tr.tcmp ≠ 0 ∧ ((t 5).seq 0).cur.det = false
        ∧ ((t 5).seq 0).tr.tcmp.toNat ≤ ((t 5).seq 0).csr.cycle.toNat)
      ∧ (((t 6).seq 0).tr.dbpend = false ∧ ((t 6).seq 0).woken = false ∧ ((t 6).seq 0).csr.cycle.toNat < ((t 6).seq 0).tr.tcmp.toNat)
      ∧ (d.seq 0).tr.dbpend = true ∧ (w.seq 0).woken = true
      ∧ (((one id).seq 0).peerErr = none ∧ ((one id).seq 0).enginesQuiet = true ∧ (one id).storesOpen 0 = false)
      ∧ ((e.seq 0).peerErr = none ∧ (0x10 : Reg).getLsbD 4 = true ∧ (e.seq 0).enginesQuiet = false)
      ∧ ((o.seq 0).peerErr = none ∧ o.storesOpen 0 = true ∧ (6 : Reg).getLsbD 1 = true ∧ (6 : Reg).getLsbD 2 = true ∧ (4 : Reg) ≠ 5)
      ∧ (((vec id).seq 0).tr.inTrap = false ∧ ((vec id).seq 0).reclaim = none ∧ ((vec id).core 0).holder ≠ some 0) := by
  decide +kernel

/-- A launch of two ranges, the first of which ends, and one of one range, which completes; a trap, and an open store. -/
theorem witness_EndLeavesSlot :
    let l : Launch := { launch 3 with ranges := [⟨0, 0, 1, false, false⟩, ⟨1, 1, 1, false, false⟩] }
    let s := withLaunch (one id) l
    let x := s.seq 0
    let trap := withLaunch (one fun x => { x with tr := { x.tr with inTrap := true } }) l
    let open_ := withLaunch (one fun x => { x with stores := [{ parts := [(0, [1])], ord := 0 }] }) l
    (x.tr.inTrap = false ∧ s.storesOpen 0 = false ∧ x.enginesQuiet = true ∧ x.peerErr = none ∧ x.tags = [] ∧ x.handles = []
      ∧ x.replay = none ∧ x.cur.log = 0 ∧ s.launch? x.cur.partition x.cur.seq = some l ∧ l.log = 0
      ∧ x.preloading = false ∧ (s.part x.cur.partition).egressOwner ≠ some 0 ∧ l.gang = false)
      ∧ (s.translate 0 l.asid 0 l.cwordVa 8 .write).toOption.map (fun t => (t.pa, aStore t.attr)) = some (0, 0) ∧ regionOf 0 = .device
      ∧ s.needsFill 0 8 = false ∧ s.isFrozen 0 = false ∧ s.writeHeld 0 = false
      ∧ s.badSector (dieOf 0) 0 8 = none ∧ FMap.get false s.hostLines 0 = false ∧ FMap.get false s.backInval 0 = false
      ∧ (∃ r ∈ (l.endRange 0).ranges, r.ended = false) ∧ (∀ r ∈ ((launch 3).endRange 0).ranges, r.ended = true)
      ∧ s.cached 0 l.asid l.cwordVa = some page ∧ s.moved = [] ∧ s.calm = true
      ∧ ((trap.seq 0).tr.inTrap = true ∧ trap.launch? 0 0 = some l ∧ l.lstate < 4) ∧ open_.storesOpen 0 = true := by
  decide +kernel

/-- A packet of zeros in memory: refused by a partition that takes no launches, accepted by one that does. -/
theorem witness_LaunchAndEgress_launch :
    let r := withLaunch (one id) (launch 3)
    let s : State := { r with parts := [(0, part0)] }
    let b : List Byte := List.replicate 64 0
    (((one id).seq 0).getA 1).toNat % 64 = 0 ∧ s.storesOpen 0 = false ∧ s.readVa 0 0 64 = .ok b ∧ r.readVa 0 0 64 = .ok b
      ∧ s.launch? 0 0 = some (launch 3) ∧ (s.seq 0).cur.log = 0
      ∧ r.acceptCode 0 (some 0) 0 0 (wordsOf b 8) = 6 ∧ s.acceptCode 0 (some 0) 0 0 (wordsOf b 8) = 0
      ∧ ((one fun x => { x with a := [(1, 0x20)] }).seq 0).getA 1 = 0x20 := by
  decide +kernel

theorem witness_LaunchAndEgress_misaligned : (one fun x => { x with a := [(1, 0x20)] }).Handles 0 3 := by
  unfold State.Handles; decide +kernel

/-- A descriptor of a frame of 8 by 8 samples, with a manifest address, and one of zeros that is refused. Both sequencers stand at a
k.egress, so that either may have the path. -/
theorem witness_LaunchAndEgress_egress :
    let d : List Byte := toBytes 8 0x1000 ++ toBytes 4 8 ++ toBytes 2 8 ++ toBytes 2 8 ++ [8, 2] ++ toBytes 2 16 ++ toBytes 2 235
      ++ List.replicate 42 0
    let st (o : Option Nat) (b : List Byte) : State :=
      { (one fun x => { x with a := [(1, 0x40)] }).modSeq 1 fun x => { x with live := true } with
        parts := [(0, { part0 with egressOwner := o })], mem := writeBytes (writeBytes [] 0 (toBytes 4 0x0001000A)) 0x40 b }
    let s := st (some 0) d
    (s.storesOpen 0 = false ∧ s.readVa 0 0x40 64 = .ok d ∧ s.egressBy 0 = some 0 ∧ (s.part 0).egressCode d = 0
        ∧ (s.seq 0).cur.log = 0 ∧ (s.readRows 0 (readEDesc d) 0 8 []).toOption = some (List.replicate 8 (List.replicate 8 0))
        ∧ s.readVa 0 (readEDesc d).chroma (readEDesc d).clen = .ok [])
      ∧ (st (some 1) d).egressBy 0 = some 1 ∧ (st none d).egressBy 0 = none
      ∧ (st (some 0) (List.replicate 64 0)).readVa 0 0x40 64 = .ok (List.replicate 64 0)
      ∧ (s.part 0).egressCode (List.replicate 64 0) = 2 := by
  decide +kernel

/-- Addresses at the edges of the windows, with the checks in their order: misaligned, lane-private, past the scratchpad, outside,
the scratchpad's first and last word, mapped device memory, an unmapped address, a watched one. -/
theorem witness_Loads :
    let s (f : Seq → Seq) : State := one f
    let at_ (ea : Nat) : Nat := causeOf ((one id).locate 0 ea 8 .read)
    let full := s fun x => { x with qs := { x.qs with xe := List.replicate 8 { val := 0 } } }
    let watch := s fun x => { x with csr := { x.csr with dwbase := 0x100, dwlen := 0x300000008 } }
    (one id).storesOpen 0 = false ∧ (one id).tablesWait 0 0xFFFF8 = false
      ∧ (8 ≤ (full.seq 0).qs.xe.length ∧ ((one id).seq 0).qs.xe.length < 8)
      ∧ 0x104 % 8 ≠ 0
      ∧ at_ 0xFFFFFF8000000000 = 8 ∧ at_ 0xFFFFFF0000400000 = 7 ∧ at_ 0x100000000000000 = 6 ∧ at_ 0x200000 = 5
      ∧ ((one id).locate 0 0xFFFFFF0000000000 8 .read).toOption = some (.pad 0)
      ∧ ((one id).locate 0 0xFFFFFF00003FFFF8 8 .read).toOption = some (.pad 0x3FFFF8)
      ∧ (((one id).pad 0).bad 0 0 0x3FFFF8 8).isSome = false
      ∧ ((one id).badSector 0 0xFFFF8 8).isSome = false
      ∧ (watch.seq 0).watches false 0x100 8 = true ∧ (watch.seq 0).watches false 0x108 8 = false := by
  decide +kernel

theorem witness_Loads_device (t : Xlat) (h : (one id).locate 0 0xFFFF8 8 .read = .ok (.glob t)) :
      regionOf t.pa = .device ∧ (one id).needsFill t.pa 8 (aStore t.attr == 1) = false := by
  have e := only (v := Loc.glob { pa := 0xFFFF8, attr := 0x7FB, base := 0, limit := 0x100000, va := 0xFFFF8 })
    (by decide +kernel) _ h
  cases e; decide +kernel

theorem witness_Loads_watch : (one fun x => { x with csr := { x.csr with dwbase := 0x100, dwlen := 0x300000008 } }).Handles 0 17 := by
  unfold State.Handles; decide +kernel

/-- The edges of the windows; a byte covered by the last store of a buffer, and one beside it. -/
theorem witness_WindowsAndForwarding :
    let st : PStore := { parts := [(0x100, [1, 2])], ord := 0 }
    let s := one fun x => { x with stores := [st] }
    (0xFFFFFF8000000000 ≤ 0xFFFFFFFFFFFFFFFF) ∧ 0xFFFFFFFFFFFFFFFF < 2 ^ 64
      ∧ (0xFFFFFF0000400000 ≤ 0xFFFFFF7FFFFFFFFF ∧ 0xFFFFFF7FFFFFFFFF < 0xFFFFFF8000000000)
      ∧ (2 ^ 56 ≤ 0xFFFFFEFFFFFFFFFF ∧ 0xFFFFFEFFFFFFFFFF < 0xFFFFFF0000000000)
      ∧ (0xFFFFFF0000000000 ≤ 0xFFFFFF00003FFFFF ∧ 0xFFFFFF00003FFFFF < 0xFFFFFF0000400000)
      ∧ 2 ^ 56 - 1 < 2 ^ 56
      ∧ ((s.seq 0).stores = [] ++ [st] ∧ st.parts = [(0x100, [1, 2])] ∧ 0x100 ≤ 0x101 ∧ 0x101 < 0x100 + [1, 2].length)
      ∧ ¬ (0x102 < 0x100 + [1, 2].length) := by
  decide +kernel

theorem witness_Stores :
    let watch := one fun x => { x with csr := { x.csr with dwbase := 0x100, dwlen := 0x300000008 } }
    let x := (one id).seq 0
    let buf (st : PStore) : State := one fun x => { x with stores := [st] }
    let pads := buf { parts := [(0, [1])], ord := 0, pad := some 0 }
    (x.cur.log = 0 ∧ x.peerErr = none ∧ x.qs.sq = [])
      ∧ ((∀ st ∈ ((buf { parts := [(0, [1])], ord := 0 }).seq 0).stores, st.parts ≠ [] ∧ st.pad = none)
        ∧ (buf { parts := [(0, [1])], ord := 0 }).strongOpen 0 = false)
      ∧ (¬ (∀ st ∈ (pads.seq 0).stores, st.parts ≠ [] ∧ st.pad = none) ∧ pads.storesOpen 0 = true)
      ∧ ((one fun x => { x with qs := { x.qs with sq := [7] } }).seq 0).qs.sq ≠ []
      ∧ 0x101 % 2 ≠ 0 ∧ causeOf ((one id).locate 0 0x200000 8 .write) = 5
      ∧ ((one id).locate 0 0xFFFF8 8 .write).toOption.map (fun l => match l with | .glob t => aStore t.attr | .pad _ => 9) = some 0
      ∧ ((one id).locate 0 0xFFFFFF00003FFFF8 8 .write).toOption = some (.pad 0x3FFFF8)
      ∧ (one id).storesOpen 0 = false ∧ (watch.seq 0).watches true 0x100 8 = true := by
  decide +kernel

/-- A page of a stream cannot be stored to (R294). -/
theorem witness_Stores_stream :
    let s : State := { one id with tlb := [(0, [{ page with attr := 0x30000000000007FB }])] }
    (s.locate 0 0x100 8 .write).toOption.map (fun l => match l with | .glob t => aStore t.attr | .pad _ => 9) = some 3 := by
  decide +kernel

/-- A page of package 9, peer number 5, that may be written. -/
def peerPage : TlbEntry :=
  { page with
    base := 0x200000, limit := 0x300000, lo := 0x200000, hi := 0x300000, delta := peerBase + 5 * 2 ^ 40 - 0x200000, attr := 0x80000000000007FB }

/-- A release to a peer, with an earlier store open and without. -/
theorem witness_Stores_peer :
    let s (ss : List PStore) : State :=
      { one (fun x => { x with stores := ss }) with tlb := [(0, [peerPage])], mem := writeBytes [] (0x7710000000 + 40) (toBytes 8 (1 + 9 * 2 ^ 19)) }
    let pa := peerBase + 5 * 2 ^ 40
    ((s []).locate 0 0x200000 8 .write).toOption.map (fun l => match l with | .glob t => (t.pa, aStore t.attr) | .pad _ => (0, 3)) = some (pa, 0)
      ∧ ((s []).seq 0).peerErr = none ∧ (s []).tablesWait 0 0x200000 = false
      ∧ (s [{ parts := [(0, [1])], ord := 0 }]).releaseWaits 0 pa true = true ∧ (s []).releaseWaits 0 pa true = false
      ∧ (s [{ parts := [(0, [1])], ord := 0 }]).releaseWaits 0 pa false = false := by
  decide +kernel

/-- A load of the host window: not asked for yet, asked for, and answered in each way. -/
theorem witness_RemoteLoads :
    let req (a : Option Answer) : Req := { owner := .seq 0, port := 18, tag := 0, pa := 0x1000000000000, len := 8, write := false, answer := a }
    let s (a : Option Answer) : State := { one id with requests := [req a] }
    let data : List Byte := [1, 2, 3, 4, 5, 6, 7, 8]
    ((one id).locate 0 0x100000 8 .read).toOption.map (fun l => match l with | .glob t => t.pa | .pad _ => 0) = some 0x1000000000000
      ∧ isRemote 0x1000000000000 = true ∧ ((one id).seq 0).watches false 0x100000 8 = false ∧ (one id).storesOpen 0 = false
      ∧ 0x100000 % 8 = 0 ∧ (one id).tablesWait 0 0x100000 = false ∧ ((one id).seq 0).peerErr = none ∧ ((one id).seq 0).qs.xe.length < 8
      ∧ (one id).Handles 0 5 ∧ (one id).Handles 0 19 ∧ (one id).Handles 0 20
      ∧ (one id).findReq (.seq 0) 0x1000000000000 8 = none
      ∧ (s none).findReq (.seq 0) 0x1000000000000 8 = some (req none)
      ∧ (s (some (.data data))).findReq (.seq 0) 0x1000000000000 8 = some (req (some (.data data)))
      ∧ (s (some .refused)).findReq (.seq 0) 0x1000000000000 8 = some (req (some .refused))
      ∧ (s (some (.lost 3))).findReq (.seq 0) 0x1000000000000 8 = some (req (some (.lost 3)))
      ∧ (s (some .poison)).findReq (.seq 0) 0x1000000000000 8 = some (req (some .poison)) := by
  unfold State.Handles; decide +kernel

/-- A line whose tag is held and one whose tag another generation has taken. -/
theorem witness_LinkedPair :
    let s (g : Nat) : State := { one (fun x => { x with link := .scalar 2 3 }) with lineTags := [(2, (g, 0))] }
    ((s 3).storesOpen 0 = false ∧ ((s 3).seq 0).watches false 0x100 8 = false ∧ ((s 3).seq 0).watches true 0x100 8 = false
        ∧ ((s 3).seq 0).cur.log = 0)
      ∧ (regionOf 0x100 = .device ∧ FMap.find? (s 3).moved (0x100 / 4096) = none ∧ (s 3).calm = true
        ∧ (s 3).hostHolds 0x100 = false ∧ aStore page.attr ≠ 3)
      ∧ 0x100 % 8 = 0 ∧ ((s 3).badSector 0 0x100 8).isSome = false
      ∧ ((s 3).locate 0 0x100 8 .read).toOption.map (fun l => match l with | .glob t => t.pa | .pad _ => 0) = some 0x100
      ∧ ((s 3).locate 0 0x100 8 .write).toOption.map (fun l => match l with | .glob t => t.pa | .pad _ => 0) = some 0x100
      ∧ (((s 3).seq 0).link = .scalar (0x100 / 128) 3 ∧ (s 3).tagHeld 0 3 2 = true) ∧ (s 4).tagHeld 0 3 2 = false := by
  decide +kernel

/-! Vector words. `vec` has LMUL 1 and s32; `flt` is the same with binary32. -/

/-- `vec` with elements of binary32. -/
def flt : State := vec fun x => { x with csr := { x.csr with vtype := 0x42 } }

theorem ready_vec : (vec id).VecReady 0 ∧ flt.VecReady 0 ∧ (vec id).Handles 0 12 := by
  unfold State.VecReady State.Handles; decide +kernel

/-- The formats of `vec` and `flt`, and register groups of one and of two registers. -/
theorem witness_vector_operands :
    vtEw ((vec id).seq 0).csr.vtype = 32 ∧ vtLmul ((vec id).seq 0).csr.vtype = 1 ∧ vtPer ((vec id).seq 0).csr.vtype = 32
      ∧ Fmt.ofCode (vtFmt ((vec id).seq 0).csr.vtype) = some (.int true 5) ∧ (Fmt.int true 5).isInt = true
      ∧ Fmt.ofCode (vtFmt (flt.seq 0).csr.vtype) = some (.ieee .f32) ∧ (Fmt.ieee .f32).isIeee = true ∧ Fmt.ieee .f32 ≠ .ieee .f64
      ∧ (∀ r : Reg, r.toNat % 1 = 0) ∧ (∀ r : Reg, r.toNat % 2 = 0 ↔ r.getLsbD 0 = false) := by
  decide +kernel

/-- A conversion of s32 to binary16 and one to s64, its destination apart from its source; hash takes elements of 64 bits. -/
theorem witness_VectorConversions :
    let s := vec fun x => { x with csr := { x.csr with vtype := 0x40000025 } }
    let h := vec fun x => { x with csr := { x.csr with vtype := 0x26 } }
    (Fmt.ofCode (vtDfmt (s.seq 0).csr.vtype) = some (.ieee .h) ∧ Fmt.width (.int true 5) = 32 ∧ Fmt.width (.ieee .h) = 16)
      ∧ ((4 : Reg).toNat + 1 ≤ (5 : Reg).toNat)
      ∧ Fmt.ofCode (vtFmt (h.seq 0).csr.vtype) = some (.int true 6) ∧ Fmt.width (.int true 6) = 64 := by
  decide +kernel

theorem ready_wide :
    (vec fun x => { x with csr := { x.csr with vtype := 0x40000025 } }).VecReady 0
      ∧ (vec fun x => { x with csr := { x.csr with vtype := 0x26 } }).VecReady 0
      ∧ (vec fun x => { x with csr := { x.csr with vtype := 0x24 } }).VecReady 0 := by
  unfold State.VecReady; decide +kernel

/-- Widening and narrowing at 16 bits: the pair of registers 4 and 5 lies apart from 6 and from 3. -/
theorem witness_VectorWidening :
    let s := vec fun x => { x with csr := { x.csr with vtype := 0x24 } }
    Fmt.ofCode (vtFmt (s.seq 0).csr.vtype) = some (.int true 4) ∧ vtEw (s.seq 0).csr.vtype ≤ 32
      ∧ (4 : Reg).toNat % (2 * vtLmul (s.seq 0).csr.vtype) = 0 ∧ (4 : Reg).toNat + 2 ≤ (6 : Reg).toNat ∧ (3 : Reg).toNat + 1 ≤ (4 : Reg).toNat := by
  decide +kernel

theorem witness_VectorMoving : (4 : Reg) ≠ 5 ∧ (4 : Reg) ≠ 6 ∧ (4 : Reg).toNat % vtLmul ((vec id).seq 0).csr.vtype = 0 := by decide +kernel

/-- Both instruction paths of MaskWords: an integer and a floating format. -/
theorem witness_MaskWords :
    (Fmt.int true 5).isInt = true ∧ (Fmt.ieee .f32).isIeee = true ∧ (5 : Reg).toNat % vtLmul ((vec id).seq 0).csr.vtype = 0 := by decide +kernel

/-- Where no ASID entry has been written, a walk faults. -/
theorem no_tables (s : State) (h : s.mem = []) (a d part va n : Nat) (k : Acc) (t : Xlat) :
    s.translateFresh d a part va n k ≠ .ok t := by
  have e : (s.asidEntry a).valid = false := by
    simp [State.asidEntry, State.readPhysNat, State.readPhys, h, readBytes, FMap.get, ofBytes, AsidEntry.valid]
  unfold State.translateFresh
  simp only [e, Bool.not_false, if_true]
  split <;> exact fun h => nomatch h

/-- The checks after a translation change nothing of it. -/
theorem checked (s : State) (b : Bool) (part n : Nat) (k : Acc) (x t : Xlat) (h : s.checkXlat b part n k x = .ok t) : t = x := by
  unfold State.checkXlat at h
  repeat' (split at h <;> try dsimp only at h)
  all_goals first | (cases h; rfl) | (exact nomatch h)

theorem kept (s : State) (d : Nat) (k : Acc) (x t : Xlat) (h : s.linkCut d k x = .ok t) : t = x := by
  unfold State.linkCut at h
  split at h <;> cases h
  rfl

/-- What a cached page translates has that page's attributes. -/
theorem attr_cached (s : State) (l : List TlbEntry) (hl : s.tlb = [(0, l)]) (hm : s.mem = []) (hv : s.moved = [])
    (a part va n : Nat) (k : Acc) (t : Xlat) (h : s.translate 0 a part va n k = .ok t) : ∃ e ∈ l, t.attr = e.attr := by
  have hit : ∀ e, s.cached 0 a va = some e → e ∈ l := by
    intro e he
    unfold State.cached at he
    simp only [hl] at he
    split at he
    · rename_i t ht
      cases he
      exact List.mem_of_find?_eq_some ht
    · simp [FMap.get, FMap.find?, clusterTlb] at he
  have still : ∀ pa, s.isMoved pa = false := fun pa => by simp [State.isMoved, hv]
  unfold State.translate at h
  cases hc : s.cached 0 a va with
  | none =>
    rw [hc] at h
    simp only at h
    cases hf : s.translateFresh (0 / 256) a part va n k with
    | error c => rw [hf] at h; cases h
    | ok x => exact absurd hf (no_tables _ hm _ _ _ _ _ _ _)
  | some e =>
    rw [hc] at h
    simp only at h
    cases hf : s.checkXlat e.sealed part n k
        { pa := (va + e.delta) % 2 ^ 64, attr := e.attr, base := e.base, limit := e.limit, va := va } with
    | error c => rw [hf] at h; cases h
    | ok x =>
      rw [hf] at h
      simp only [still] at h
      rw [kept _ _ _ _ _ h, checked _ _ _ _ _ _ _ hf]
      exact ⟨e, hit e hc, rfl⟩

/-- The pages of `one` hold raw data without block scales. -/
theorem raw_one (f : Seq → Seq) (a part va n : Nat) (k : Acc) (t : Xlat) (h : (one f).translate 0 a part va n k = .ok t) :
    aFmt t.attr = 0xFF ∧ aGeom t.attr = 0 := by
  obtain ⟨e, he, ht⟩ := attr_cached (one f) [page, hostPage] rfl rfl rfl a part va n k t h
  simp only [List.mem_cons, List.not_mem_nil, or_false] at he
  rw [ht]
  rcases he with rfl | rfl <;> exact ⟨(by decide : aFmt 0x7FB = 0xFF), (by decide : aGeom 0x7FB = 0)⟩

/-- `flt` over a page of binary16. -/
def halves : State := { flt with tlb := [(0, [{ page with attr := 0x203 }])] }

theorem halves_page (a part va n : Nat) (k : Acc) (t : Xlat) (h : halves.translate 0 a part va n k = .ok t) :
    aFmt t.attr = 0x40 ∧ aGeom t.attr = 0 ∧ aStore t.attr ≠ 2 := by
  obtain ⟨e, he, ht⟩ := attr_cached halves [{ page with attr := 0x203 }] rfl rfl rfl a part va n k t h
  simp only [List.mem_cons, List.not_mem_nil, or_false] at he
  rw [ht, he]
  decide

/-- Its words, and the elements of a load that converts them. -/
theorem witness_VectorLoads_converting :
    let x := halves.seq 0
    (Fmt.ofCode 0x40 = some (.ieee .h) ∧ Fmt.ofCode (vtFmt x.csr.vtype) = some (.ieee .f32) ∧ (0x40 : Byte) ≠ vtFmt x.csr.vtype
        ∧ Fmt.bytes (.ieee .h) = 2 ∧ (4 : Reg).toNat % vtLmul x.csr.vtype = 0 ∧ (x.getA 1).toNat + x.csr.vl * 2 ≤ 2 ^ 56
        ∧ x.csr.sampctl.getLsbD 0 = false ∧ x.csr.dwlen.getLsbD 32 = false ∧ halves.storesOpen 0 = false ∧ halves.calm = true
        ∧ (halves.translate 0 0 0 0x100 1 .read).toOption.map Xlat.pa = some 0x100)
      ∧ ∀ i < 8, let ea := (x.getA 1).toNat + i * 2
          ea % 2 = 0 ∧ (halves.translate 0 0 0 ea 2 .read).toOption.map Xlat.pa = some ea ∧ regionOf ea = .device
            ∧ (halves.badSector 0 ea 2).isSome = false := by
  decide +kernel

theorem ready_halves : halves.VecReady 0 := by unfold State.VecReady; decide +kernel

/-- Words that leave the scratchpad at element 4, and at element 0 (cause 7). -/
theorem witness_VectorLoads_faults :
    let s (a : Word) : State := vec fun x => { x with a := [(1, a)] }
    let ea (a : Word) (i : Nat) : Nat := (((s a).seq 0).getA 1).toNat + i * 4
    let fine (a : Word) (i : Nat) : Prop := ea a i % 4 = 0 ∧ padBase ≤ ea a i ∧ ea a i + 4 ≤ padBase + padSize
    let beyond (a : Word) (i : Nat) : Prop := ea a i % 4 = 0 ∧ padBase + padSize < ea a i + 4 ∧ ea a i + 4 ≤ laneBase
    ((∀ i < 4, fine 0xFFFFFF00003FFFF0 i) ∧ (∀ i < 8, 4 ≤ i → beyond 0xFFFFFF00003FFFF0 i) ∧ ∀ i < 8, beyond 0xFFFFFF0000400000 i)
      ∧ (∀ j < 8, ((s 0xFFFFFF00003FFFF0).seq 0).within 0 j = true) ∧ ((s 0xFFFFFF00003FFFF0).seq 0).grant.getLsbD 0 = true
      ∧ 7 ≠ 12 ∧ 7 ≠ 17 ∧ 7 ≠ 20 ∧ (s 0xFFFFFF00003FFFF0).Handles 0 9 := by
  unfold State.Handles; decide +kernel

/-- Words of the last line of the mapped memory and at both ends of the scratchpad. -/
theorem witness_VectorLoads :
    let s := vec id
    let x := s.seq 0
    (x.csr.sampctl.getLsbD 0 = false ∧ x.csr.dwlen.getLsbD 32 = false ∧ (s.pad 0).region = [] ∧ (s.pad 0).spPois = []
        ∧ (s.core 0).sramPois = [] ∧ s.storesOpen 0 = false ∧ s.calm = true ∧ s.lines = [])
      ∧ ((4 : Reg).toNat % 1 = 0 ∧ (31 : Reg).toNat + 1 * 1 ≤ 32 ∧ (24 : Reg).toNat + 8 * 1 ≤ 32 ∧ (4 : Reg) ≠ 5)
      ∧ (∀ i < 8, ((x.getA 1).toNat + i * 4) % 4 = 0 ∧ (s.translate 0 0 0 ((x.getA 1).toNat + i * 4) 4 .read).toOption.map Xlat.pa
          = some (0x100 + i * 4) ∧ regionOf (0x100 + i * 4) = .device ∧ (s.badSector 0 (0x100 + i * 4) 4).isSome = false) := by
  decide +kernel


/-- Stores of eight words to the last bytes of the scratchpad, and to device memory. -/
theorem witness_VectorStores :
    let s (a : Word) : State := vec fun x => { x with a := [(1, a)] }
    let pad := s 0xFFFFFF00003FFFE0
    let x := pad.seq 0
    (x.csr.sampctl.getLsbD 0 = false ∧ x.csr.dwlen.getLsbD 33 = false ∧ (pad.pad 0).region = [] ∧ x.cur.log = 0 ∧ x.peerErr = none)
      ∧ ((31 : Reg).toNat + 1 * 1 ≤ 32 ∧ (5 : Reg).toNat % 1 = 0)
      ∧ (∀ i < 8, let ea := (x.getA 1).toNat + i * 4
          ea % 4 = 0 ∧ padBase ≤ ea ∧ ea + 4 ≤ padBase + padSize)
      ∧ pad.storesOpen 0 = false
      ∧ (∀ i < 8, let ea := (((s 0xFFFE0).seq 0).getA 1).toNat + i * 4
          ea % 4 = 0 ∧ ea + 4 ≤ 2 ^ 56 ∧ ((s 0xFFFE0).translate 0 0 0 ea 4 .write).toOption.map (fun t => (t.pa, aStore t.attr)) = some (ea, 0)
            ∧ regionOf ea = .device ∧ (s 0xFFFE0).tablesWait 0 ea = false) := by
  decide +kernel

/-- Eight elements of two lines, the tag of the first of which generation `g` of sequencer 0 holds, that of the second generation 4. -/
def linked (g : Nat) : State :=
  { vec (fun x => { x with link := .vector [2, 3] 3 }) with
    lineTags := [(2, (g, 0)), (3, (4, 0))]
    cores := [(0, { vreg := [(5, BitVec.ofNat 1024 (((List.range 8).map fun j => 32 * j * 2 ^ (128 * j)).sum))] })] }

/-- The elements' addresses. -/
def linkedEa (i : Nat) : Nat := (((linked 3).seq 0).getA 1).toNat + (linked 3).elemAt 0 5 i

theorem witness_VectorLinkedPair :
    let s := linked 3
    let x := s.seq 0
    (32 ≤ vtEw x.csr.vtype ∧ x.csr.sampctl.getLsbD 0 = false ∧ x.csr.dwlen.getLsbD 32 = false ∧ x.csr.dwlen.getLsbD 33 = false
        ∧ s.storesOpen 0 = false ∧ x.cur.log = 0 ∧ (4 : Reg) ≠ 5 ∧ (1 : MReg) ≠ 0)
      ∧ (∀ i < 8, linkedEa i = 0x100 + 32 * i)
      ∧ (∀ i < 8, (s.translate 0 0 0 (linkedEa i) 4 .read).toOption.map (fun t => (t.pa, aOrd t.attr, aStore t.attr)) = some (linkedEa i, 0, 0))
      ∧ (∀ i < 8, (s.translate 0 0 0 (linkedEa i) 4 .write).toOption.map (fun t => (t.pa, aOrd t.attr, aStore t.attr))
          = some (linkedEa i, 0, 0))
      ∧ (∀ i < 8, regionOf (linkedEa i) = .device ∧ s.hostHolds (linkedEa i) = false
          ∧ (s.badSector 0 (linkedEa i) 4).isSome = false)
      ∧ s.moved = [] ∧ s.calm = true := by
  decide +kernel

/-- The first line's tag is held, and lost where its generation is 4; the second line's is lost. -/
theorem witness_VectorLinkedPair_tags :
    ∀ i < 8, linkedEa i / 128 ∈ [2, 3] ∧ (linked 3).tagHeld 0 3 (linkedEa i / 128) = decide (i < 4)
      ∧ (linked 4).tagHeld 0 3 (linkedEa i / 128) = false := by
  decide +kernel

theorem ready_linked : (linked 3).VecReady 0 := by unfold State.VecReady; decide +kernel

/-- VL = 0 with VTYPE 0, with s32 and binary32, and with a conversion of s32 to binary16. -/
theorem witness_EmptyVector :
    let s (v : Word) : State := vec fun x => { x with csr := { x.csr with vtype := v, vl := 0 } }
    (∀ t ∈ [s 0, s 0x25, s 0x42, s 0x40000025], let x := t.seq 0
        x.frozen = false ∧ x.csr.vl = 0 ∧ x.csr.sampctl.getLsbD 0 = false ∧ x.peerErr = none
          ∧ (x.csr.vtype = 0 ∨ vtLmul x.csr.vtype = 1 ∧ (Fmt.ofCode (vtFmt x.csr.vtype)).isSome = true))
      ∧ Fmt.ofCode (vtFmt 0x25) = some (.int true 5) ∧ Fmt.ofCode (vtFmt 0x42) = some (.ieee .f32)
      ∧ Fmt.ofCode (vtDfmt 0x40000025) = some (.ieee .h) ∧ 1 * Fmt.width (.ieee .h) < Fmt.width (.int true 5)
      ∧ (4 : Reg).toNat % 2 = 0 ∧ (4 : Reg).toNat + 2 ≤ (6 : Reg).toNat ∧ (4 : Reg) ≠ 6 := by
  decide +kernel

theorem witness_ConvoyChains : (4 : Reg) ≠ 31 ∧ (7 : Reg) ≠ 31 ∧ (4 : Reg).toNat % vtLmul ((vec id).seq 0).csr.vtype = 0 := by decide +kernel

/-- A core whose matrix unit sequencer `o` holds, with binary32 accumulators and MVL 8. -/
def held (o : Nat) (s : State) : State := s.modCore 0 fun k => { k with holder := some o, mvl := 8, accFmt := 0x42 }

/-- A request for binary32 accumulators, of a free unit and of one that sequencer 1 holds, waiting and not. -/
theorem witness_MatrixMode :
    let s (w : Word) : State := one fun x => { x with s := [(1, w)] }
    let tab (n : Byte) : State := held 0 ((s 0xFFFFFF0000000000).modPad 0 fun p => { p with sp := [(1, n)] })
    let freq (t : State) : Nat := ((List.range 256).map fun i => ofBytes ((t.pad 0).read 0 0 (2 * i) 2)).sum
    (((s 0x4208).seq 0).tr.inTrap = false ∧ fld (((s 0x4208).seq 0).getS 1) 17 47 = 0 ∧ fld (((s 0x4208).seq 0).getS 1) 8 8 = 0x42
        ∧ ((s 0x4208).core 0).holder = none ∧ ((s 0x4208).core 0).waiters = [] ∧ ((s 0x4208).core 0).lastLaunch ≠ some (0, 0))
      ∧ (((held 1 (s 0x4208)).core 0).holder = some 1 ∧ 1 ≠ 0 ∧ (((held 1 (s 0x4208)).seq 0).getS 1).getLsbD 16 = false)
      ∧ (((held 1 (s 0x14208)).seq 0).getS 1).getLsbD 16 = true ∧ fld (((s 0x14208).seq 0).getS 1) 17 47 = 0
      ∧ (((tab 0x10).core 0).holder = some 0 ∧ (tab 0x10).strongOpen 0 = false
        ∧ (∀ st ∈ ((tab 0x10).seq 0).stores, st.pad = none) ∧ (((tab 0x10).seq 0).getS 1).toNat % 2 = 0
        ∧ padBase ≤ (((tab 0x10).seq 0).getS 1).toNat ∧ (((tab 0x10).seq 0).getS 1).toNat + 512 ≤ padBase + padSize
        ∧ ((tab 0x10).pad 0).spPois = [] ∧ freq (tab 0x10) = 4096)
      ∧ (freq (tab 0x11) ≠ 4096 ∧ ((tab 0x11).seq 0).tr.tvec ≠ 0)
      ∧ ((one id).core 0).holder ≠ some 0 := by
  decide +kernel

/-- Matrix mode with s[2] a descriptor of binary32 rows and s[1] a row number. -/
def matrix (x : Seq → Seq) : State :=
  held 0 (vec fun y => x { y with s := [(1, 2), (2, 0x2042000000), (3, 0)], csr := { y.csr with vtype := 0x42 } })

theorem ready_matrix : (matrix id).VecReady 0 := by unfold State.VecReady; decide +kernel

theorem witness_MatrixWords :
    let s := matrix id
    let x := s.seq 0
    let k := s.core 0
    (x.tr.inTrap = false ∧ k.holder = some 0 ∧ k.accPois = [] ∧ 0 < k.mvl ∧ k.mvl ≤ 128 ∧ (s.pad 0).spPois = [] ∧ (s.pad 0).region = []
        ∧ x.cur.log = 0 ∧ s.storesOpen 0 = false ∧ (4 : Reg).toNat % vtLmul x.csr.vtype = 0)
      ∧ (Fmt.ofCode (vtFmt x.csr.vtype) = some (.ieee .f32) ∧ k.mvl ≤ vlmaxOf x.csr.vtype x.grant ∧ abFormat k.accFmt (.ieee .f32) = true)
      ∧ (vtEw x.csr.vtype = 32 ∧ (x.getS 1).toNat < k.mvl)
      ∧ (readDesc (x.getS 2) (x.getS 3) false).map (fun D => (padChecks (s.pad 0) [(D, 8, 8)], stFormat k.accFmt D.f, ldFormat k.accFmt D.f))
          = some (none, true, true) := by
  decide +kernel

/-- A tile multiply of four rows with its A in registers, and one of sixteen rows with a descriptor, at issue and after its
first segment. -/
theorem witness_TileMultiply :
    let s (kk : Word) : State := matrix fun x => { x with s := [(2, 0x2042000000), (4, 0x2042000000), (6, kk)] }
    let again := (s 16).modCore 0 fun k => { k with progress := some { unit := 0, position := 0, row := 8, ops := [0x2042000000, 0, 0x2042000000, 0, 16] } }
    let ops (t : State) : List Word := (List.range 5).map fun i => (t.seq 0).getS ((2 : Reg) + BitVec.ofNat 5 i)
    let ok (t : State) (fn : BitVec 3) (row : Nat) : Option (Nat × Bool) :=
      match (if (t.core 0).progress = none then (t.unitWork 0).mulSetup 0 8 fn (ops t) row else (t.unitWork 0).mulRead 8 fn (ops t)) with
      | .ok u => some (u.kk, ((t.unitWork 0).mulFetch u 0 8 row (Nat.min 8 (u.kk - row))).toOption.isSome
          && u.bd.coded == false && u.ad.isSome == fn.getLsbD 0)
      | .error _ => none
    let x := (s 4).seq 0
    (x.frozen = false ∧ x.tr.inTrap = false ∧ x.resume = false ∧ x.peerErr = none ∧ ((s 4).core 0).holder = some 0
        ∧ ((s 4).core 0).accPois = [] ∧ ((s 4).core 0).mvl = 8 ∧ (s 4).padReadWaits 0 = false ∧ again.padReadWaits 0 = false ∧ (8 : Reg).toNat % vtLmul x.csr.vtype = 0 ∧ ((s 4).core 0).progress = none)
      ∧ ok (s 4) 0 0 = some (4, true) ∧ ((s 4).unitWork 0).gated false 9 0 = some false
      ∧ ok (s 16) 1 0 = some (16, true)
      ∧ (ok again 1 8 = some (16, true)
        ∧ (again.core 0).progress = some { unit := x.pc.q0, position := 0, row := 8, ops := ops again, fresh := false } ∧ ops again ≠ [])
      ∧ ((s 4).pad 0).spPois = [] := by
  decide +kernel

/-- Fifteen and sixteen commands outstanding; one that passes its checks and one for each check that a clause names. -/
theorem witness_EngineCommands :
    let s (n : Nat) (f : Seq → Seq) : State := one fun x => f { x with tags := [(1, { count := n })] }
    let used (t : State) : Nat := ((t.seq 0).tags.map fun e => e.2.count).sum
    let cmd (op : CmdOp) (a b c : Word) : EngCmd :=
      { id := 0, owner := 0, op := op, sa := a, sb := b, sc := c, tag := 1, bar := 0, fctl := 0, asid := 0, partition := 0, launch := 0
        log := 0, window := 0 }
    let p := (one id).pad 0
    (used (s 15 id) < 16 ∧ 16 ≤ used (s 16 id))
      ∧ ((cmd .copy 0xFFFFFF0000000000 0x100 0x10040).check p = none ∧ (cmd .fill 0x400000000 7 0).check p = none
        ∧ (cmd .gath 0xFFFFFF0000000000 0x100 0x10040).check p = none ∧ (cmd .scat 0x100 0xFFFFFF0000000000 0x10040).check p = none
        ∧ (cmd .xf 0 0x400 0x1000000).check p = none)
      ∧ ((cmd .fill 0x200000000000 0 0).check p).map Prod.fst = some 12
      ∧ (2 ^ 45 ≤ (0x200000000000 : Word).toNat ∧ fld 0x100000000 32 16 ≠ 0 ∧ fld 0x1000000000000 48 16 ≠ 0)
      ∧ (fld 0 32 16 = 0 ∧ (4 : Word).toNat % 8 ≠ 0) ∧ 5 < fld 6 0 4
      ∧ (one fun x => { x with stores := [{ parts := [(0, [1])], ord := 0 }] }).storesOpen 0 = true
      ∧ ((s 15 id).storesOpen 0 = false ∧ ((s 15 id).seq 0).cur.log = 0) ∧ p.spPois = [] ∧ (s 15 id).Handles 0 12 := by
  unfold State.Handles; decide +kernel

/-- A block of 8 by 8 words transposed, elements converted and scaled, 32 bytes zeroed, and one word added, their runs apart. -/
theorem witness_EngineCommands_data :
    let k (c : Word) : EngCmd :=
      { id := 0, owner := 0, op := .xf, sa := 0, sb := 0x400, sc := c, tag := 1, bar := 0, fctl := 0, asid := 0, partition := 0
        launch := 0, log := 0, window := 0 }
    ((k 0x1000000).op = .xf ∧ (k 0x1000000).xop = 0 ∧ (k 0x1000000).count = 1 ∧ 7 < 8)
      ∧ ((k 0x1000003).xop = 3 ∧ 31 < 32 * (k 0x1000003).count)
      ∧ ((k 0x1002504).xop = 4 ∧ (k 0x1002504).fmt = some (.int true 5) ∧ (k 0x1002504).count = 1 ∧ 0 + 4 * 1 ≤ 0x400)
      ∧ ((k 0x1422501).xop = 1 ∧ (k 0x1422501).fmt = some (.int true 5) ∧ (k 0x1422501).dfmt = some (.ieee .f32))
      ∧ ((k 0x1004202).xop = 2 ∧ (k 0x1004202).fmt = some (.ieee .f32)) := by
  decide +kernel

/-- Each case of a tag and of a barrier: `sees` watches the present phase, the other one, or nothing. -/
theorem witness_WaitsAndBarriers :
    let g (t : EngTag) : State := one fun x => { x with tags := [(1, t)] }
    let s (f : Seq → Seq) : State := one f
    let sees (p : Bool) : State := one fun x => { x with watched := [(5, p)] }
    let came := one fun x => { x with arrived := [(5, 0)], watched := [(5, false)] }
    let open_ := one fun x => { x with stores := [{ parts := [(0, [1])], ord := 0 }] }
    let armed (n : Nat) : State := (one id).modPad 0 fun p => { p with barrier := [(5, { target := n })] }
    let tag (t : State) : EngTag := FMap.get ({} : EngTag) (t.seq 0).tags 1
    ((tag (g { count := 1 })).count ≠ 0 ∧ (tag (s id)).count = 0 ∧ (tag (s id)).cause = 0
        ∧ (tag (g { cause := 7 })).count = 0 ∧ (tag (g { cause := 7 })).cause = 7)
      ∧ ((0 = 0 ∨ 65535 < 0) ∧ 65535 < 65536 ∧ (0 < 1 ∧ 1 ≤ 65535) ∧ 0 < 65535)
      ∧ (open_.storesOpen 0 = true ∧ (5, (0 : Word)) ∉ (open_.seq 0).arrived)
      ∧ (s id).storesOpen 0 = false ∧ ((s id).seq 0).pc.q0 = 0
      ∧ ((armed 1).barrier 0 5).target ≤ ((armed 1).barrier 0 5).count + 1 ∧ ((armed 2).barrier 0 5).count + 1 < ((armed 2).barrier 0 5).target
      ∧ (FMap.find? ((sees false).seq 0).watched 5 = some ((sees false).barrier 0 5).phase
        ∧ FMap.find? ((sees true).seq 0).watched 5 = some (!((sees true).barrier 0 5).phase) ∧ FMap.find? ((s id).seq 0).watched 5 = none)
      ∧ (5, (0 : Word)) ∈ (came.seq 0).arrived ∧ FMap.find? (came.seq 0).watched 5 = some (came.barrier 0 5).phase := by
  decide +kernel

theorem witness_WaitsAndBarriers_handles :
    (one fun x => { x with tags := [(1, { cause := 7 })] }).Handles 0 7 := by unfold State.Handles; decide +kernel

/-- One level of the least and one of the greatest capacity. -/
theorem witness_HeldSpans : [1, 255] ≠ [] ∧ (∀ w ∈ [1, 255], 1 ≤ w ∧ w ≤ 255) ∧ [1, 255][1]? = some 255 := by decide

/-- A stream of one level of two items, one s32 element each, at 0x1000, its slots at 0x2000 (R351); `n` items have been appended. -/
def streamBytes (n : Nat) : List Byte :=
  [0x25, 0, 1, 0, 2] ++ List.replicate 11 0 ++ toBytes 8 n ++ List.replicate 8 0 ++ toBytes 8 0x2000 ++ List.replicate 24 0

/-- The memory of `one` as stream pages, with that descriptor in it and the handle of slot 0 bound to it. -/
def streams (n : Nat) (t : Stream) (f : Seq → Seq) : State :=
  { vec (fun x => f { x with s := [(1, 0x1000), (2, 0x100)], handles := [(0, { serial := 1, desc := 0x1000, va := 0x1000 })] }) with
    tlb := [(0, [{ page with attr := 0x30000000000007FB }])], mem := writeBytes [] 0x1000 (streamBytes n), streams := [(0x1000, t)] }

/-- The stream bound by sequencer 0. -/
def bound : Stream := { va := 0x1000, asid := 0, binds := [(0, 1, 0, 0)] }

theorem witness_PyramidWords_bind :
    let s := streams 0 bound fun x => { x with handles := [] }
    let full := streams 0 bound fun x => { x with handles := (List.range 8).map fun i => (i, { serial := 1, desc := 0, va := 0 }) }
    ((∀ i < 0, (FMap.find? (s.seq 0).handles i).isSome) ∧ (FMap.find? (s.seq 0).handles 0).isNone = true ∧ 0 < 8
        ∧ (match s.bindCheck 0 0x1000 with | .ok b => decide (b.x.pa = 0x1000) | .error _ => false) = true)
      ∧ (∀ i < 8, (FMap.find? (full.seq 0).handles i).isSome = true)
      ∧ (0x1020 : Word).toNat % 64 ≠ 0 ∧ (s.seq 0).frozen = false ∧ s.Handles 0 21 ∧ s.Handles 0 3 := by
  unfold State.Handles; decide +kernel

/-- A live handle, a dead one, an owner that is another launch, a block that waits, and the time of the newest item. -/
theorem witness_PyramidWords :
    let s := streams 1 bound id
    let own := streams 1 { bound with owner := some (0, 9) } id
    let waits := streams 1 bound fun x => { x with appends := [{ reg := 0, desc := 0x1000, slot := 0, items := [[0, 0, 0, 0]] }] }
    let x := s.seq 0
    let k := s.core 0
    (((x.binding 0x100).map fun h => (h.serial, h.desc)) = some (1, 0x1000) ∧ (x.binding 0x101).isNone = true)
      ∧ (s.streamDesc 0x1000).map (fun d => (d.code, d.elems, d.levels)) = some (0x25, 1, 1)
      ∧ s.homeBad { serial := 1, desc := 0x1000, va := 0x1000 } = none ∧ s.needsFill 0x1000 64 = false
      ∧ (s.streamDesc 0x1000).map (fun d => s.slotsWait 0x1000 d (s.timeSlots 0x1000 d 0 0)) = some false
      ∧ (vtUsable x.csr.vtype = true ∧ x.csr.vl ≤ vlmaxOf x.csr.vtype x.grant ∧ k.vpois = [] ∧ k.maskPois = [] ∧ vtFmt x.csr.vtype = 0x25
        ∧ x.csr.vl % 1 = 0 ∧ (31 : Reg).toNat % vtLmul x.csr.vtype = 0 ∧ vtLmul x.csr.vtype = 1 ∧ (4 : Reg) ≠ 31 ∧ (6 : Reg) ≠ 4
        ∧ (6 : Reg) ≠ 4 + 1 ∧ 8 ≤ 16 * grants x.grant ∧ 1 ≤ vlmaxOf x.csr.vtype x.grant ∧ 0 < x.csr.vl)
      ∧ ((s.stream 0x1000).owner = none ∧ (own.stream 0x1000).owner = some (0, 9) ∧ (0, 9) ≠ ((own.seq 0).cur.partition, (own.seq 0).cur.seq))
      ∧ (s.streamCount 0x1000 + s.pendingItems 0x1000 + 8 ≤ 2 ^ 48 ∧ x.cur.log = 0 ∧ x.appends = [] ∧ (s.stream 0x1000).pend = [])
      ∧ (s.pLoadWaits 0 { serial := 1, desc := 0x1000, va := 0x1000 } = false
        ∧ waits.pLoadWaits 0 { serial := 1, desc := 0x1000, va := 0x1000 } = true)
      ∧ x.frozen = false
      ∧ (waits.seq 0).appends.any (fun e => e.slot == (0x100 : Word).toNat % 8) = true
      ∧ (s.streamDesc 0x1000).map (fun d => (s.resolveTime 0x1000 d 0 0).data.bad) = some none := by
  decide +kernel

/-- A collective of two ranks of this package, allreduce of one s32 word, at 0x1000 (R414); the peer numbers are at 0x1100. -/
def collBytes : List Byte :=
  [1, 0x25] ++ toBytes 2 2 ++ toBytes 2 1 ++ toBytes 2 0 ++ toBytes 4 7 ++ toBytes 4 1 ++ toBytes 8 0x2000 ++ toBytes 8 0x3000
    ++ toBytes 8 0x1100 ++ List.replicate 24 0

/-- The state of a participant, its collective handles as given. -/
def coll (h : FMap CHandle) : State :=
  { one (fun x => { x with s := [(1, 0x1000), (2, 0x100)], chandles := h }) with
    mem := writeBytes (writeBytes [] 0x1000 collBytes) 0x1100 [0xFF, 0xFF, 0xFF, 0xFF] }

theorem witness_CollectiveWords :
    let trap := withLaunch (one fun x => { x with tr := { x.tr with inTrap := true } }) (launch 3)
    let open_ := one fun x => { x with stores := [{ parts := [(0, [1])], ord := 0 }] }
    let full := coll ((List.range 4).map fun i => (i, { serial := 1 }))
    let h (st : Nat) : Option Nat := (((coll [(0, { serial := 1, state := st, reason := 1, port := 3 })]).seq 0).collHandle 0x100).map CHandle.state
    let s := coll []
    ((trap.seq 0).tr.inTrap = true ∧ trap.launch? 0 0 = some (launch 3) ∧ (launch 3).lstate < 4)
      ∧ ((s.seq 0).tr.inTrap = false ∧ (0x1020 : Word).toNat % 64 ≠ 0 ∧ (0x1000 : Word).toNat % 64 = 0 ∧ open_.storesOpen 0 = true)
      ∧ (s.storesOpen 0 = false ∧ s.readVa 0 0x1000 64 = .ok collBytes
        ∧ (match s.collCheck 0 0x1000 collBytes with | .ok m => decide (m.rank = 1) | .error _ => false) = true)
      ∧ (4 ≤ (full.seq 0).chandles.length ∧ (s.seq 0).chandles.length < 4 ∧ (FMap.find? (s.seq 0).chandles 0).isNone = true
        ∧ (∀ i < 0, (FMap.find? (s.seq 0).chandles i).isSome = true) ∧ (s.seq 0).cur.log = 0
        ∧ s.moved = [] ∧ s.calm = true ∧ s.launches = [])
      ∧ ((s.seq 0).collHandle 0x100).isNone = true ∧ h 0 = some 0 ∧ h 1 = some 1 ∧ h 2 = some 2 := by
  decide +kernel

theorem witness_CollectiveWords_handles :
    (coll []).Handles 0 3 ∧ (coll [(0, { serial := 1, state := 2, reason := 1, port := 3 })]).Handles 0 20 := by
  unfold State.Handles; decide +kernel

/-- A bind record whose launch logs in mode 1 (R375). -/
def logging : BindRec := { w0 := 0x8000000000 }

theorem witness_WindowsAndHints :
    let s (f : Seq → Seq) : State := one fun x => f { x with s := [(1, 0xFFFFFFFF), (2, 0x7FFFF)] }
    let big := one fun x => { x with s := [(1, 0x100000000), (2, 0x80000)] }
    let open_ := s fun x => { x with stores := [{ parts := [(0, [1])], ord := 0 }] }
    let x := (s id).seq 0
    let log (l : Launch) : State := { withLaunch (s fun x => { x with cur := logging }) l with parts := [(0, { part0 with cfg := { words := [(4, 16)] } })] }
    let last := s fun x => { x with cur := logging, csr := { x.csr with winno := 0xFFFFFFFF } }
    let l : Launch := { launch 3 with packet := [0, 0x100000000000000], ringPair := some 0 }
    (2 ^ 32 ≤ ((big.seq 0).getS 1).toNat ∧ 2 ^ 19 ≤ ((big.seq 0).getS 2).toNat ∧ big.Handles 0 1 ∧ (big.seq 0).tr.inTrap = false)
      ∧ (x.tr.inTrap = false ∧ (x.getS 1).toNat < 2 ^ 32 ∧ (x.getS 2).toNat < 2 ^ 19)
      ∧ (((s fun x => { x with mark := .opened }).seq 0).mark = .opened ∧ ((s fun x => { x with mark := .arrived }).seq 0).mark = .arrived)
      ∧ (x.mark = .none ∧ open_.quiet 0 = false ∧ (s id).quiet 0 = true ∧ x.peerErr = none ∧ x.tags.all (fun e => e.2.cause == 0) = true
        ∧ x.cur.log = 0 ∧ x.markReq = false)
      ∧ (((log l).seq 0).cur.log = 1 ∧ ((log l).seq 0).resume = false ∧ ((log l).seq 0).live = true ∧ l.log ≠ 0
        ∧ (log l).moved = [] ∧ (log l).calm = true ∧ l.snaps = []
        ∧ (log l).seqsOf 0 0 = [0] ∧ l.ranges.length = 1 ∧ ((log l).seq 0).csr.winno ≠ 0xFFFFFFFF)
      ∧ ((last.seq 0).csr.winno = 0xFFFFFFFF ∧ last.Handles 0 13) := by
  unfold State.Handles; decide +kernel

/-- A tag's error at w.mark, w.mark in a trap, and the marks that stop a launch without a log: alone, and one of a gang of two. -/
theorem witness_WindowsAndHints_stops :
    let x (x : Seq) : Seq := { x with s := [(1, 0xFFFFFFFF), (2, 0x7FFFF)] }
    let l (g : Nat) : Launch :=
      { launch 3 with packet := [0, BitVec.ofNat 64 g], ringPair := some 0, ranges := [⟨0, 0, 1, false, false⟩, ⟨1, 1, 1, false, false⟩] }
    let asked (g : Nat) : State :=
      { withLaunch (one fun y => x { y with markReq := true }) (l g) with parts := [(0, { part0 with cfg := { words := [(4, 128)] } })] }
    let bad := one fun y => x { y with tags := [(1, { cause := 7 })] }
    let trap := withLaunch (one fun x => { x with tr := { x.tr with inTrap := true } }) (launch 3)
    ((bad.seq 0).errorTag = some 1 ∧ bad.quiet 0 = true ∧ (FMap.get ({} : EngTag) (bad.seq 0).tags 1).cause = 7)
      ∧ ((trap.seq 0).tr.inTrap = true ∧ trap.launch? 0 0 = some (launch 3))
      ∧ (∀ g ∈ [0, 2 ^ 59], (asked g).launch? 0 0 = some (l g) ∧ ((asked g).seq 0).markReq = true ∧ ((asked g).seq 0).mark = .none
        ∧ (asked g).quiet 0 = true ∧ ((asked g).seq 0).cur.log = 0
        ∧ (((asked g).modSeq 0 fun x => { x with tags := [], qs := {}, link := .none }).stopAtMark 0 0xFFFFFFFF 0x7FFFF).isSome = true
        ∧ (∃ r ∈ (l g).ranges, r.q ≠ 0 ∧ r.ended = false ∧ (r.lost = true ∨ ((asked g).seq r.q).mark ≠ .arrived)))
      ∧ ((l 0).gang = false ∧ (l (2 ^ 59)).gang = true) ∧ (one id).calm = true := by
  decide +kernel

theorem witness_WindowsAndHints_error :
    (one fun y => { y with s := [(1, 0xFFFFFFFF), (2, 0x7FFFF)], tags := [(1, { cause := 7 })] }).Handles 0 7 := by
  unfold State.Handles; decide +kernel

/-- The mark's block fits a ring of one megabyte; the launch's other range has not arrived. -/
theorem witness_WindowsAndHints_block :
    let l : Launch := { launch 3 with packet := [0, 0x100000000000000], ringPair := some 0 }
    let two : Launch := { l with ranges := l.ranges ++ [⟨1, 1, 1, false, false⟩] }
    let log (l : Launch) : State :=
      { withLaunch (one fun x => { x with cur := logging }) l with parts := [(0, { part0 with cfg := { words := [(4, 16)] } })] }
    ((log l).putSnap 0 0 ((log l).markBlock 0 1 0 0)).isSome = true
      ∧ (∃ r ∈ two.ranges, r.q ≠ 0 ∧ r.ended = false ∧ (r.lost = true ∨ ((log two).seq r.q).mark ≠ .arrived)) := by
  decide +kernel

/-- Stores that may be admitted: a plain one, one to a line that the host holds, and one that waits behind another. -/
theorem witness_MemoryEvents_admit :
    let st : PStore := { parts := [(0x100, [1, 2])], ord := 0 }
    let s := one fun x => { x with stores := [st] }
    let h : State := { s with hostLines := [(2, true)] }
    let two := one fun x => { x with stores := [st, { st with release := true }] }
    let pad := { st with pad := some 0 }
    let p := one fun x => { x with stores := [pad] }
    ((p.seq 0).stores[0]? = some pad ∧ p.storeFree 0 0 = true ∧ p.launches = [] ∧ pad.parts = [(0x100, [1, 2])] ∧ pad.entry = none ∧ pad.pad = some 0)
      ∧ ((s.seq 0).stores[0]? = some st ∧ s.storeFree 0 0 = true ∧ s.hostLine st = none ∧ s.moved = [] ∧ s.calm = true ∧ s.launches = []
        ∧ st.parts = [(0x100, [1, 2])] ∧ st.entry = none ∧ st.pad = none ∧ st.packet = false ∧ [(1 : Byte), 2] ≠ [] ∧ 0x100 % 128 + 2 ≤ 128 ∧ 0x100 < 0x7800000000)
      ∧ (h.storeFree 0 0 = true ∧ h.hostLine st = some 0x100)
      ∧ ((two.seq 0).stores[1]? = some { st with release := true } ∧ two.storeFree 0 1 = false) := by
  decide +kernel

/-- The first and last byte that a line holds, and the last line of device memory. -/
theorem witness_MemoryEvents_edges : 0x7E % 128 + 2 ≤ 128 ∧ ¬ (0x7F % 128 + 2 ≤ 128) ∧ 0x77FFFFFFFF < 0x7800000000 := by decide

theorem witness_MemoryEvents_tlb :
    let s := (one id).modDie 0 fun x => { x with invBusy := true }
    let open_ := (one fun x => { x with stores := [{ parts := [(0, [1])], ord := 0 }] }).modDie 0 fun x => { x with invBusy := true }
    ((one id).die 0).invBusy = false ∧ ((s.die 0).invBusy = true ∧ s.accessesDone (s.die 0) = true) ∧ open_.accessesDone (open_.die 0) = false
      ∧ (0 < 2048 ∧ (0xFFFFFFFFFFFFFF : Word).toNat < 2 ^ 56 ∧ causeOf ((one id).translateFresh 0 0 0 0x100 1 .read) = 5
        ∧ (one id).tablesWait 0 0x100 = false) := by
  decide +kernel

/-- A root table at 0x1000 whose chain of tables maps the first page to itself, and the entry of ASID 0. -/
theorem witness_MemoryEvents_walk :
    let w (m : Memory) (a v : Nat) : Memory := writeBytes m a (toBytes 8 v)
    let s : State := { State.reset with mem := w (w (w (w (w [] 0x1000 0x2002) 0x2000 0x3002) 0x3000 0x4002) 0x4000 0x7FB) 0x7700000000 0x1001 }
    (s.translateFresh 0 0 0 0x100 1 .read).toOption.map (fun x => (x.pa, x.attr)) = some (0x100, 0x7FB) ∧ s.tablesWait 0 0x100 = false := by
  decide +kernel

/-- Tags of 255 and 256 cycles, a dirty line plain and compressed, packets that read and write one element. -/
theorem witness_MemoryEvents_lines :
    let s (l : LineState) : State := { State.reset with now := 300, lineTags := [(1, (0, 45)), (2, (0, 44))], lines := [(2, l)] }
    let packet (op : Nat) (d : List Byte) : List Byte :=
      toBytes 8 0x100 ++ toBytes 8 8 ++ toBytes 2 1 ++ [BitVec.ofNat 8 op, 0] ++ List.replicate 12 0 ++ [1] ++ List.replicate 63 0 ++ d
    let o (l : LineState) : LineState := FMap.get {} (s l).lines (0x100 / 128)
    (FMap.find? (s {}).lineTags 0 = none ∧ (FMap.find? (s {}).lineTags 1 = some (0, 45) ∧ 300 < 45 + 256)
        ∧ FMap.find? (s {}).lineTags 2 = some (0, 44) ∧ 44 + 256 ≤ 300)
      ∧ ((s {}).calm = true ∧ (o {}).dirty = 0 ∧ (o { valid := 1, dirty := 1 }).dirty ≠ 0 ∧ (o { valid := 1, dirty := 1 }).comp = false
        ∧ (o { valid := 1, dirty := 1, comp := true }).comp = true ∧ 0x100 < 0x7800000000)
      ∧ (parsePacket []).isNone = true
      ∧ (parsePacket (packet 1 [])).map (fun p => (p.write, p.elems)) = some (false, [(0x100, 0)])
      ∧ (parsePacket (packet 2 [7])).map (fun p => (p.write, p.elems)) = some (true, [(0x100, 0)]) ∧ (s {}).hostHolds 0x100 = false
      ∧ ((List.replicate 128 (0 : Byte)).length = 128 ∧ 3 < 4)
      ∧ (s {}).writeHeld 256 = false ∧ (s {}).moved = [] := by
  decide +kernel

/-- A row that is being copied, with a tag on its line that may go and one on another line. -/
theorem witness_MemoryEvents_row :
    let s : State := { State.reset with now := 300, lineTags := [(0, (0, 0))], baseDies := [(0, { rmBusy := true, rmTarget := 1 })] }
    s.rowHeld 0 = true ∧ s.writeHeld 0 = true ∧ s.writeHeld 0x4000000 = false := by
  decide +kernel

theorem witness_MemoryEvents_stack :
    let s (k : Stack) : State := { State.reset with baseDies := [(0, k)] }
    (31 < 32 ∧ FMap.get 0 ((s {}).stack 0).postponed 31 ≤ 8 ∧ 7 < 8)
      ∧ (((s { chfail := 1 }).stack 0).rmBusy = false ∧ ((s { chfail := 1 }).stack 0).chfail.getLsbD (fld ((s { chfail := 1 }).stack 0).rmTarget 0 5) = true)
      ∧ (((s {}).stack 0).rmBusy = false ∧ ((s {}).stack 0).chfail = 0 ∧ ((s {}).stack 0).remap = [])
      ∧ (((s { rmBusy := true }).stack 0).rmBusy = true ∧ ((s { rmBusy := true }).stack 0).remap = []
        ∧ (s { rmBusy := true }).dramBad = [] ∧ (s { rmBusy := true }).parityBad = [] ∧ (s { rmBusy := true }).held = []
        ∧ (s { rmBusy := true }).launches = []) := by
  decide +kernel

/-- A stack in each phase of a migration of one page, of memory that the pass can copy; and a moved and a dirty page to free. -/
theorem witness_MemoryEvents_migration :
    let s (n : Nat) : State := { State.reset with baseDies := [(0, { mgPhase := n, mgPages := 1 })], mem := [(0x100, 7)] }
    let f : State := { s 4 with moved := [(5, { phase := 3, dst := 0x10000, stack := 0 }), (6, { phase := 2, dst := 0x11000, stack := 0 })] }
    (∀ n < 5, ((s n).stack 0).mgPhase = n ∧ 0 < fld ((s n).stack 0).mgPages 0 24 ∧ fld ((s n).stack 0).mgPages 24 2 = 0
        ∧ (s n).calm = true ∧ Memory.wf (s n).mem = true ∧ (s n).held = [] ∧ (s n).launches = [])
      ∧ FMap.find? f.moved 5 = some { phase := 3, dst := 0x10000, stack := 0 }
      ∧ FMap.find? f.moved 6 = some { phase := 2, dst := 0x11000, stack := 0 } := by
  decide +kernel

theorem witness_MemoryEvents_host :
    let r : Req := { owner := .seq 0, port := 18, tag := 3, pa := 0x1000000000000, len := 2, write := false }
    let s : State := { State.reset with requests := [r] }
    s.moved = [] ∧ s.calm = true ∧ s.launches = [] ∧ s.hostServed 0x77FFFFFF80 128 = true ∧ s.hostServed 0x77FFFFFF80 129 = false ∧ s.hostServed 0x100 0 = false
      ∧ s.openReq 18 4 = none ∧ s.openReq 18 3 = some r ∧ r.owner = .seq 0 ∧ r.write = false ∧ [(1 : Byte), 2].length = r.len := by
  decide +kernel

theorem witness_UnitEvents_interrupt :
    let s (f : Seq → Seq) : State := one fun x => f { x with tr := { x.tr with ie := true, tcmp := 5 }, csr := { x.csr with cycle := 5, units := 5 } }
    let db := one fun x => { x with tr := { x.tr with ie := true, dbpend := true } }
    let x := (s id).seq 0
    let det := (s fun x => { x with cur := { w0 := 0x20000000000 } }).seq 0
    (x.live = true ∧ x.tr.tcmp ≠ 0 ∧ x.cur.det = false ∧ det.cur.det = true ∧ det.tr.tcmp.toNat ≤ det.csr.units.toNat)
      ∧ ((s id).runnable 0 = true ∧ ((s id).core 0).progress = none ∧ x.tr.ie = true ∧ x.mark = .none ∧ x.wfi ≠ some x.csr.units ∧ x.tr.tcmp.toNat ≤ x.csr.cycle.toNat ∧ (s id).Handles 0 18)
      ∧ (db.runnable 0 = true ∧ (db.seq 0).tr.tcmp = 0 ∧ (db.seq 0).tr.dbpend = true)
      ∧ ((one id).seq 0).tr.ie = false ∧ ((s fun x => { x with wfi := some 5 }).seq 0).wfi = some ((s id).seq 0).csr.units := by
  unfold State.Handles; decide +kernel

theorem witness_UnitEvents_faults : (one id).turn = 0 ∧ (one id).Handles 0 1 ∧ (one id).Handles 0 2 ∧ (one id).Handles 0 (0xFF : BitVec 8).toNat := by
  unfold State.Handles; decide +kernel

/-- A waiter at the head of a free unit's line, and a unit that is held. -/
theorem witness_UnitEvents_matrix :
    let s := (one id).modCore 0 fun k => { k with waiters := [0, 1] }
    (s.core 0).holder = none ∧ (s.core 0).waiters = 0 :: [1] ∧ coreOf 0 = 0 ∧ (s.seq 0).wantMatrix = false ∧ s.runnable 0 = true
      ∧ ((held 1 s).core 0).holder ≠ none ∧ ((one id).core 0).waiters = [] := by
  decide +kernel

/-- A copy of 64 bytes within the scratchpad, a fill up to its end, one that ends, one whose error ends it, and one on a barrier. -/
theorem witness_UnitEvents_engine :
    let copy : EngCmd :=
      { id := 0, owner := 0, op := .copy, sa := 0xFFFFFF00003FFFC0, sb := 0xFFFFFF0000000000, sc := 0x40, tag := 1, bar := 0, fctl := 0
        asid := 0, partition := 0, launch := 0, log := 0, window := 0 }
    let fill : EngCmd := { copy with op := .fill, sa := 0x103FFFC0, sb := 7 }
    let s (k : EngCmd) : State := (one fun x => { x with tags := [(1, { count := 1 })] }).modCluster 0 fun c => { c with cmds := [k] }
    let end_ : EngCmd := { copy with row := 1 }
    ((s copy).cmd? 0 0 = some copy ∧ (s copy).rowReady 0 copy = true ∧ copy.sent = false ∧ copy.ending = false ∧ (s copy).requests = [] ∧ copy.op = .copy ∧ copy.log = 0 ∧ fld copy.sc 29 3 = 0
        ∧ ((s copy).pad 0).spPois = [] ∧ 0 < fld copy.sc 0 17 ∧ padBase ≤ copy.src 0 ∧ copy.src 0 + fld copy.sc 0 17 ≤ padBase + padSize
        ∧ padBase ≤ copy.dst 0 ∧ copy.dst 0 + fld copy.sc 0 17 ≤ padBase + padSize)
      ∧ ((s fill).rowReady 0 fill = true ∧ fld fill.sa 0 22 + fld fill.sa 22 23 ≤ padSize ∧ 0 < fld fill.sa 22 23)
      ∧ ((s end_).rowReady 0 end_ = false ∧ (s copy).endReady 0 copy = false ∧ (s end_).endReady 0 end_ = true ∧ end_.op ≠ .xf ∧ end_.bar = 0)
      ∧ (s { copy with err := some (7, 0x100) }).endReady 0 { copy with err := some (7, 0x100) } = true
      ∧ { end_ with bar := 3 }.bar ≠ 0 := by
  decide +kernel

/-- A block of one item for a stream of one, nothing held by the host; a span that waits to be written, and none. -/
theorem witness_UnitEvents_pyramid :
    let e : Append := { reg := 4, desc := 0x1000, slot := 0, items := [[1, 0, 0, 0]] }
    let none_ : Append := { e with items := [] }
    let pd : PendSpan := { level := 0, num := 0, bytes := [0, 0, 0, 0], bad := false, before := 0 }
    let s (e : Append) : State := streams 1 bound fun x => { x with appends := [e] }
    let p := streams 1 { bound with pend := [pd] } id
    ((streams 1 bound id).nextAppend 0).isNone = true
      ∧ ((s e).nextAppend 0 = some (0, e) ∧ ((s e).streamDesc 0x1000).map (fun d => ((s e).appendHeld 0x1000 d 1 e, (s e).appendBusy 0x1000 d 1 e, d.caps)) = some (none, false, [2])
        ∧ e.items ≠ [] ∧ e.desc % 64 = 0 ∧ (s e).moved = [] ∧ (s e).calm = true)
      ∧ ((s none_).nextAppend 0 = some (0, none_) ∧ none_.items = [])
      ∧ ((p.stream 0x1000).pend.find? (fun p => p.level == 0 && p.num == 0) = some pd
        ∧ (p.streamDesc 0x1000).map (fun d => (p.hostHolds ((p.stream 0x1000).pa 0x1000 (d.slotVa 0 0)),
          p.homeWaits ((p.stream 0x1000).pa 0x1000 (d.slotVa 0 0)))) = some (false, false))
      ∧ ((streams 1 bound id).stream 0x1000).pend = [] := by
  decide +kernel

theorem witness_UnitEvents_package :
    State.reset.life = .production ∧ LifeState.scrapped ≠ State.reset.life ∧ lifeRank .return = lifeRank State.reset.life + 1
      ∧ lifeRank .manufacture ≠ lifeRank State.reset.life + 1 ∧ 35 < 36 ∧ 63 < 64 := by
  decide

/-- One launch of partition 0, accepted, ready to be bound. -/
def queued : State :=
  { one id with
    launches := [(1, { launch 1 with ranges := [], packet := [0, 0x40, 0, 0] })], parts := [(0, { part0 with queues := [(0, [1])], jhead := 2 })] }

theorem witness_FirmwareEvents_launches :
    let l (st : Nat) : State := withLaunch (one id) (launch st)
    let q : Launch := { launch 1 with ranges := [], packet := [0, 0x40, 0, 0] }
    (((l 4).launch? 0 0).map Launch.lstate = some 4 ∧ ((l 5).launch? 0 0).map Launch.lstate = some 5 ∧ ((l 3).launch? 0 0).map Launch.lstate = some 3
        ∧ (l 3).seqsOf 0 0 = [0] ∧ (l 3).storesOpen 0 = false ∧ (l 3).clusters = [])
      ∧ ((one id).part 0).weight = 0
      ∧ ((queued.part 0).weight ≠ 0 ∧ (queued.part 0).order.head? = some 1 ∧ queued.launch? 0 1 = some q ∧ q.prio < 4 ∧ q.lstate = 1
        ∧ q.held = false ∧ q.pre0 = 1 ∧ q.pre1 = 1 ∧ q.log = 0 ∧ q.gang = false ∧ q.ranges = [] ∧ q.failing = none ∧ (queued.asidEntry q.asid).sealed = false
        ∧ (queued.freeFor 0 q.asid).length = 2047 ∧ q.preload = 0) := by
  decide +kernel

/-- A held launch with one block, first in the queue, and a free slot of the partition for it. -/
def waiting : State :=
  { withLaunch State.reset { launch 3 with
      held := true, snaps := [{ window := 0, q := 0, die := 0, vmask := 0, flags := 0, x := Seq.idle, size := 0 }] } with
    parts := [(0, { part0 with queues := [(0, [0])], jhead := 1 })] }

theorem witness_FirmwareEvents_resume :
    let b : Snap := { window := 0, q := 0, die := 0, vmask := 0, flags := 0, x := Seq.idle, size := 0 }
    let l : Launch := { launch 3 with held := true, snaps := [b] }
    waiting.launch? 0 0 = some l ∧ l.held = true ∧ l.snaps.filter (fun b => b.window == l.winno) = [b] ∧ waiting.inCellar (0, 0) = false
      ∧ l.gang = false ∧ l.failing = none ∧ (waiting.part 0).weight ≠ 0 ∧ (waiting.part 0).order.head? = some 0
      ∧ waiting.ringBad 0 b.die l.ringPair b.pos b.size = false ∧ waiting.ringBad 0 b.die l.ringPair b.besidePos b.beside = false
      ∧ waiting.placeSnaps (waiting.freeFor 0 l.asid) [b] [] = some [(0, 0)] := by
  decide +kernel

/-- No other partition has a launch queued. -/
theorem witness_FirmwareEvents_rivals (r : Nat) (h : r ≠ 0) : (queued.part r).order = [] ∧ (waiting.part r).order = [] := by
  have e : queued.part r = Part.fresh := by
    simp only [State.part, queued, FMap.get, FMap.find?, if_neg h, Option.getD]
  have f : waiting.part r = Part.fresh := by
    simp only [State.part, waiting, FMap.get, FMap.find?, if_neg h, Option.getD]
  rw [e, f]; decide +kernel

theorem witness_FirmwareEvents_slots :
    let b : BindRec := { w0 := 0x800000000001 }
    let s := one fun x => { x with next := b }
    let free := State.reset.modSeq 0 fun x => { x with next := b }
    let pre (cur : Bool) : Preload := { q := 0, off := 0x3FFFC0, len := 64, src := 0x100, cur := cur }
    let p (cur : Bool) : State := s.modCluster 0 fun c => { c with preloads := [pre cur] }
    let mine : Launch := { launch 1 with ranges := [], pre0 := 1, pre1 := 1, packet := [0, 0, 1] }
    let r : State := { State.reset with parts := [(0, part0)] }
    let l (m : Launch) : State := { r with launches := [(launchKey 0 1, m)] }
    let rec_ : BindRec := { b with w0 := b.w0 ||| BitVec.ofNat 64 (2 ^ 43), w2 := 0, w3 := 1 }
    (rec_.valid = true ∧ rec_.partition = 0 ∧ rec_.seq = 1 ∧ ((l mine).launch? 0 1) = some mine ∧ mine.log = 0
        ∧ (l mine).mayWrite 0 rec_ mine = true ∧ (l { mine with pre0 := 0 }).mayWrite 0 rec_ { mine with pre0 := 0 } = false
        ∧ (l mine).slotTakes 0 rec_ = true ∧ (l { mine with pre0 := 0 }).slotTakes 0 rec_ = true
        ∧ r.slotTakes 0 rec_ = true ∧ (r.launch? 0 1).isNone = true ∧ 0 ∉ (State.reset.part 0).clusters)
      ∧ b.valid = true ∧ (({} : BindRec).valid = false) ∧ (s.seq 0).next.valid = true ∧ ((one id).seq 0).next.valid = false
      ∧ s.mayAdvance 0 = false ∧ free.mayAdvance 0 = true ∧ (s.cluster 0).preloads = []
      ∧ (∀ c, ((p c).cluster 0).preloads = pre c :: [] ∧ (pre c).q = 0 ∧ (pre c).done = false ∧ (pre c).off + (pre c).len ≤ padSize
          ∧ (match (p c).engRead 0 (preloadCmd 0 (if c then ((p c).seq 0).cur else ((p c).seq 0).next) (pre c)) 0x100 64 0 0 with
            | .ok bytes => decide (bytes.length = 64) | _ => false) = true) := by
  decide +kernel

theorem witness_FirmwareEvents_ladder :
    let b := one fun x => { x with cur := { w2 := 0x10000000000 } }
    let r := one fun x => { x with reclaim := some 2 }
    let m := one fun x => { x with markReq := true, grant := 3 }
    let halting := (one id).modCluster 0 fun c => { c with halting := true }
    let busy := (one id).modCluster 0 fun c => { c with busy := true, halted := true }
    let halted := (one id).modCluster 0 fun c => { c with halted := true }
    ((b.seq 0).live = true ∧ (b.seq 0).cur.budget = 1 ∧ (b.seq 0).budgetFrom + 1 * 65536 < 2 ^ 64) ∧ ((one id).seq 0).cur.budget = 0
      ∧ ((r.seq 0).live = true ∧ (r.seq 0).reclaim = some 2 ∧ ((one id).seq 0).reclaim = none)
      ∧ ((m.seq 0).live = true ∧ (m.seq 0).markReq = true)
      ∧ ((halting.cluster 0).halting = true ∧ halting.atRest 0 = true ∧ ((one id).cluster 0).halting = false)
      ∧ ((busy.cluster 0).busy = true ∧ (busy.cluster 0).shadow = none ∧ (halted.cluster 0).busy = false ∧ (halted.cluster 0).halted = true)
      ∧ (clusterOf 63 = 0 ∧ clusterOf 64 ≠ 0)
      ∧ ((one fun x => { x with wfi := some x.csr.units }).seq 0).wfi = some ((one id).seq 0).csr.units := by
  decide +kernel

/-- The first and last words of a partition's configuration block; a partition with a bound launch takes none. -/
theorem witness_FirmwareEvents_config :
    let s : State := { State.reset with parts := [(0, part0)] }
    (withLaunch (one id) (launch 3)).partBusy 0 = true ∧ s.partBusy 0 = false ∧ (31 < 32 ∧ 31 ≠ 0) ∧ (1 < 32 ∧ 1 ≠ 0) ∧ 0 < 32
      ∧ (0 : Word).getLsbD 31 ≠ ((s.part 0).cfgWord 0).getLsbD 31 := by
  decide +kernel

/-- A recovery without a window and with one; a record that a failed log engine loses. -/
theorem witness_HostAndDebugEvents_rollback :
    let b : Snap := { window := 1, q := 0, die := 0, vmask := 0, flags := 0, x := Seq.idle, size := 0 }
    let r : LogRec := { kind := 1, space := 0, writer := 0, window := 0, addr := 0, size := 16 }
    let l : Launch := { launch 3 with packet := [0, 0x200000000000000], recovering := true }
    let g : Launch := { l with winno := 1, snaps := [b] }
    let h : Launch := { g with ringPair := some 0, ring0 := [{ r with window := 1 }] }
    let lost : State := { withLaunch (one id) h with parts := [(0, { part0 with cfg := { words := [(4, 16)] } })], memPoison := [(0, true)] }
    let s (l : Launch) : State := withLaunch (one id) l
    ((s (launch 3)).mayRollback 0 0 = false ∧ (s l).mayRollback 0 0 = true ∧ (s l).newestGood 0 l = none)
      ∧ ((s g).mayRollback 0 0 = true ∧ (s g).newestGood 0 g = some 1 ∧ (s g).recsGood 0 g 1 = true ∧ (lost.newestGood 0 h = some 1
        ∧ lost.recsGood 0 h 1 = false ∧ lost.mayRollback 0 0 = true) ∧ (s g).slotsBack 0 0 (g.snaps.filter fun b => b.window == 1) = true)
      ∧ (l.log ≠ 0 ∧ l.lstate ∈ [2, 3, 6] ∧ { l with ring1 := [r] }.ring 1 ≠ []) := by
  decide +kernel

/-- The debug block of partition 0 on a stopped launch of one sequencer with a window, deterministic, at five units. -/
def debug (b : Part) (l : Launch) (f : Seq → Seq) : State :=
  { withLaunch (one fun x => f { x with stopped := true, csr := { x.csr with units := 5 } }) l with parts := [(0, b)] }

theorem witness_HostAndDebugEvents_debug :
    let x := (one fun x => { x with csr := { x.csr with units := 2 } }).seq 0
    let b : Snap := { window := 1, q := 0, die := 0, vmask := 0, flags := 0, x := x, size := 0 }
    let esc : LogRec := { kind := 7, space := 0, writer := 0, window := 1, addr := 0, size := 16 }
    let plain := launch 3
    let l : Launch := { launch 3 with packet := [0, 0x500000000000000], winno := 1, snaps := [b] }
    let blk (q u : Nat) : Part := { part0 with dbgArg0 := q, dbgArg1 := u }
    let s (q u : Nat) (l : Launch) : State := debug (blk q u) l id
    ((s 0 0 { l with lstate := 4 }).launch? 0 0).map Launch.lstate = some 4 ∧ (State.reset.launch? 0 0).isNone = true
      ∧ ({ part0 with dbgBusy := true } : Part).dbgBusy = true ∧ ((s 0 0 l).part 0).dbgBusy = false
      ∧ (debug part0 l fun x => { x with stopped := false }).launchStopped 0 0 = false ∧ (s 0 0 l).launchStopped 0 0 = true
      ∧ (s 0 0 l).rests 0 0 = true ∧ l.failing = none ∧ plain.failing = none
      ∧ (debug part0 l fun x => { x with stores := [{ parts := [(0, [1])], ord := 0 }] }).rests 0 0 = false
      ∧ (plain.log = 0 ∧ l.log ≠ 0 ∧ l.det = true ∧ plain.det = false)
      ∧ ((s 0 0 l).part 0).dbgArg0 = 0 ∧ (l.winno < 2 ∧ l.oldestGood ≤ 1 ∧ 1 ≤ l.winno ∧ 1 < { l with oldest := 2, winno := 2 }.oldestGood)
      ∧ (l.snaps.any (fun b => b.window == 1) = true ∧ (s 1 0 l).slotsBack 0 0 (l.snaps.filter fun b => b.window == 1) = true
        ∧ (s 1 0 l).blocksGood 0 l 1 = true ∧ (s 1 0 l).recsGood 0 l 1 = true)
      ∧ (s 0 0 l).bootFailed = false
      ∧ (l.escapesFrom 1 = [] ∧ { l with ring0 := [esc] }.escapesFrom 1 ≠ [])
      ∧ ((s 0 1 l).isOf 0 0 0 = true ∧ (s 9 1 l).isOf 9 0 0 = false)
      ∧ (5 < 6 ∧ 3 ≤ 5 ∧ b.x.csr.units.toNat ≤ 5 - 3 ∧ ¬ b.x.csr.units.toNat ≤ 5 - 4) := by
  decide +kernel

/-- A rewind to a window whose records cannot be read, and one at a slot that another launch has taken. -/
theorem witness_HostAndDebugEvents_records :
    let b : Snap := { window := 1, q := 0, die := 0, vmask := 0, flags := 0, x := Seq.idle, size := 0 }
    let r : LogRec := { kind := 1, space := 0, writer := 0, window := 1, addr := 0, size := 16 }
    let l : Launch := { launch 3 with packet := [0, 0x500000000000000], winno := 1, snaps := [b], ringPair := some 0, ring0 := [r] }
    let s : State := { debug { part0 with dbgArg0 := 1, cfg := { words := [(4, 16)] } } l id with memPoison := [(0, true)] }
    let other := (debug part0 l id).modSeq 0 fun x => { x with cur := { w0 := 0x10000 } }
    (s.blocksGood 0 l 1 = true ∧ s.slotsBack 0 0 (l.snaps.filter fun b => b.window == 1) = true ∧ s.recsGood 0 l 1 = false
        ∧ s.badRecs 0 l 1 0 = 1 ∧ s.badRecs 0 l 1 1 = 0 ∧ s.launchStopped 0 0 = true ∧ s.rests 0 0 = true ∧ l.oldestGood ≤ 1)
      ∧ other.slotsBack 0 0 l.snaps = false := by
  decide +kernel

/-- Stepping back three of five units to a window at two: the rewind succeeds and the sequencer runs on. -/
theorem witness_HostAndDebugEvents_stepback :
    let x := (one fun x => { x with csr := { x.csr with units := 1 } }).seq 0
    let b : Snap := { window := 1, q := 0, die := 0, vmask := 0, flags := 0, x := x, size := 0 }
    let l : Launch := { launch 3 with packet := [0, 0x500000000000000], winno := 1, snaps := [b] }
    let s := debug { part0 with dbgArg1 := 3 } l id
    let r := s.rewindTo 0 0 1 2 false l
    r.2 = 0 ∧ (r.1.seq 0).csr.units.toNat ≠ 5 - 3 ∧ (r.1.seq 0).live = true ∧ (r.1.seq 0).key = (0, 0) := by
  decide +kernel

theorem witness_HostAndDebugEvents_halted :
    let s := debug { part0 with dbgBusy := true } (launch 3) fun x => { x with replay := some { target := 5, alone := true } }
    (s.part 0).dbgBusy = true ∧ s.launchStopped 0 0 = true ∧ s.rowsDone 0 0 = true
      ∧ (∀ r ∈ s.seqsOf 0 0, (s.seq r).appends = [] ∧ s.storesOpen r = false)
      ∧ (let o := debug { part0 with dbgBusy := true } (launch 3) fun x => { x with stores := [{ parts := [(0, [1])], ord := 0 }] }
        0 ∈ o.seqsOf 0 0 ∧ o.launch? 0 0 = some (launch 3) ∧ o.storesOpen 0 = true) ∧ State.reset.seqsOf 0 0 = []
      ∧ (s.seqsOf 0 0 = [0] ∧ (s.seq 0).live = true ∧ (s.seq 0).key = (0, 0) ∧ (s.seq 0).replay = some { target := 5, alone := true }
        ∧ 5 ≤ (s.seq 0).csr.units.toNat) := by
  decide +kernel

/-- Launch windows: outside the four, a short packet, one refused, one taken. -/
theorem witness_HostAndDebugEvents_windows :
    let b : List Byte := List.replicate 64 0
    let s : State := { State.reset with parts := [(0, part0)], mem := [(0x7700000000, 1)] }
    256 ≤ 256 ∧ 3 < 4 ∧ (List.replicate 63 (0 : Byte)).length ≠ 64 ∧ b.length = 64
      ∧ State.reset.acceptCode 0 none 0 0 (wordsOf b 8) = 6 ∧ s.acceptCode 0 none 0 0 (wordsOf b 8) = 0 := by
  decide +kernel

theorem witness_HostAndDebugEvents_rest :
    let busy : State := { State.reset with parts := [(0, { part0 with attBusy := true })] }
    ((busy.part 0).attBusy = true ∧ (State.reset.part 0).attBusy = false ∧ State.reset.areaInRanges 0 0x77FFFF3C60 50080 = true
        ∧ State.reset.areaInRanges 0 0x77FFFF3C61 50080 = false)
      ∧ (regionOf 0x7800000000 = .none ∧ regionOf 0x77FFFFFFFF ≠ .registers ∧ regionOf 0x77FFFFFFFF ≠ .none)
      ∧ (31 < 32 ∧ 1 < 2 ∧ 7 < 8 ∧ 35 < 36 ∧ 223 < 224 ∧ 0xF000006000001 % 8 ≠ 0) ∧ State.reset.bootFailed = false
      ∧ ({ State.reset with bootFailed := true } : State).bootFailed = true
      ∧ (State.reset.moved = [] ∧ State.reset.calm = true) ∧ (State.reset.stack 7).mgPhase = 0 := by
  decide +kernel

/-- Peer number 5 is package 9, of partition 0, on port 0. -/
def peers (r : List Req) : State :=
  { State.reset with mem := writeBytes [] (0x7710000000 + 40) (toBytes 8 (1 + 9 * 2 ^ 19)), requests := r }

/-- What the fields of a flit read as. -/
theorem flit_read (type seq src : Nat) (p : List Byte) (hp : p.length = 240) (hq : seq < 4096) (hs : src < 1024) (ht : type < 16) :
    let f := mkFlit type seq 0 src 0 p
    f.length = 256 ∧ bytesNat f 0 8 = type + 16 * seq + 2 ^ 24 * src ∧ bytesNat f 248 8 = (crc64 (f.take 248)).toNat
      ∧ (f.drop 8).take 240 = p := by
  have hpad : padTo 240 p = p := by unfold padTo; rw [List.take_append_of_le_length (by omega), List.take_of_length_le (by omega)]
  obtain ⟨h, hh⟩ : ∃ h, h = type + 16 * seq + 2 ^ 16 * 0 + 2 ^ 24 * src + 2 ^ 34 * 0 := ⟨_, rfl⟩
  obtain ⟨body, hb⟩ : ∃ b, b = toBytes 8 h ++ p := ⟨_, rfl⟩
  have hm : mkFlit type seq 0 src 0 p = body ++ toBytes 8 (crc64 body).toNat := by
    unfold mkFlit; simp only [hpad, hb, hh]
  have hl : body.length = 248 := by rw [hb, List.length_append, toBytes_length, hp]
  have h3 : (body ++ toBytes 8 (crc64 body).toNat).take 248 = body := List.take_left' hl
  refine ⟨?_, ?_, ?_, ?_⟩ <;> rw [hm]
  · rw [List.length_append, hl, toBytes_length]
  · unfold bytesNat
    rw [List.drop_zero, List.take_append_of_le_length (by omega), hb, List.take_left' (toBytes_length 8 h), ofBytes_toBytes,
      Nat.mod_eq_of_lt (by rw [hh]; omega), hh]
    omega
  · unfold bytesNat
    rw [h3, List.drop_left' hl, List.take_of_length_le (Nat.le_of_eq (toBytes_length ..)), ofBytes_toBytes,
      Nat.mod_eq_of_lt (by have := (crc64 body).isLt; omega)]
  · rw [hb, List.append_assoc, List.drop_left' (toBytes_length 8 h), List.take_left' hp]

/-- A flit that bears the next sequence number of a port that is up is received as it was made. -/
theorem received (s : State) (k type src : Nat) (p : List Byte) (ht : type < 6) (hs : src < 1024) (hp : p.length = 240)
    (hd : (s.port k).down = false) (hr : (s.port k).rxSeq = 0) :
    ∃ r, s.receive k type (mkFlit type 0 0 src 0 p) = some r ∧ r.src = src ∧ r.payload = p
      ∧ r.s = (let s' := s.modPort k fun p => { p with
            rxSeq := if type = 4 then p.rxSeq else (p.rxSeq + 1) % 4096, freed := if type ≤ 3 then p.freed + 1 else p.freed }
          let s' := if type = 4 then s' else s'.sendAck k 0 0
          s'.flush k (s.port k).waiting.length) := by
  obtain ⟨h1, h2, h3, h4⟩ := flit_read type 0 src p hp (by decide) hs (by omega)
  have e1 : (type + 16 * 0 + 2 ^ 24 * src) % 16 = type := by omega
  have e2 : (type + 16 * 0 + 2 ^ 24 * src) / 2 ^ 44 = 0 := by omega
  have e3 : (type + 16 * 0 + 2 ^ 24 * src) / 16 % 4096 = 0 := by omega
  have e4 : (type + 16 * 0 + 2 ^ 24 * src) / 2 ^ 16 % 256 = 0 := by omega
  have e5 : (type + 16 * 0 + 2 ^ 24 * src) / 2 ^ 24 % 1024 = src := by omega
  unfold State.receive
  simp only [h1, h2, h3, h4, e1, e2, e3, e4, e5, hd, hr]
  simp

theorem inboundPart_congr (s t : State) (n : Nat) (hm : s.mem = t.mem) (ht : s.peerTable = t.peerTable) :
    s.inboundPart n = t.inboundPart n := by
  have e : ∀ k, s.peerEntry k = t.peerEntry k := fun k => by unfold State.peerEntry; rw [hm, ht]
  have f : s.peerNumbers = t.peerNumbers := by unfold State.peerNumbers; rw [hm, ht]
  unfold State.inboundPart State.findPeer
  rw [f, funext e]

theorem witness_PortEvents_flits (q : List Req) (type : Nat) (p : List Byte) (ht : type < 6) (hp : p.length = 240) :
    ∃ r, (peers q).receive 0 type (mkFlit type 0 0 9 0 p) = some r ∧ r.src = 9 ∧ r.payload = p ∧ r.s.inboundPart r.src = some 0
      ∧ r.s.colls = [] ∧ (r.s.port 0).waiting = [] ∧ r.s.requests = q ∧ r.s.moved = [] ∧ r.s.calm = true := by
  obtain ⟨r, h1, h2, h3, h4⟩ := received (peers q) 0 type 9 p ht (by decide) hp rfl rfl
  refine ⟨r, h1, h2, h3, ?_⟩
  rw [h2, h4]
  have : type = 0 ∨ type = 1 ∨ type = 2 ∨ type = 3 ∨ type = 4 ∨ type = 5 := by omega
  have part (s : State) (hm : s.mem = (peers []).mem) (ht : s.peerTable = (peers []).peerTable) : s.inboundPart 9 = some 0 := by
    rw [inboundPart_congr s (peers []) 9 hm ht]
    decide +kernel
  rcases this with rfl | rfl | rfl | rfl | rfl | rfl <;> exact ⟨part _ rfl rfl, rfl, rfl, rfl, rfl, rfl⟩

/-- Every payload of the statement has the length of one, and no flit is as short as nothing. -/
theorem witness_PortEvents_payloads :
    (∀ p ∈ [controlPayload 1 0xFFFF 0 0 0, controlPayload 2 0 0 0 0, padTo 240 (toBytes 2 0xFFF ++ toBytes 1 0),
        padTo 240 (padTo 240 (requestPayload 1 0 7 2 0x77FFFFFFFE [])), padTo 240 (requestPayload 2 0 7 2 0x77FFFFFFFE [1, 2]),
        replyPayload 1 7 2 [1, 2], controlPayload 4 9 0 0 0, collPayload 7 0 1 0 1 0x25 0 [1, 0, 0, 0], controlPayload 3 0 7 0 2],
      p.length = 240)
      ∧ (∀ type < 6, ((peers []).receive 0 type []).isNone = true)
      ∧ ((peers []).port 0).down = false ∧ ((peers []).port 0).waiting = [] ∧ (peers []).launches = [] ∧ (peers []).colls = []
      ∧ ((peers []).modPort 0 fun p => { p with down := true }).port 0 = { Port.fresh with down := true }
      ∧ ((peers []).modPort 0 fun p => { p with wantRetrain := true }).port 0 = { Port.fresh with wantRetrain := true } := by
  decide +kernel

/-- A link that has been announced and one that has not; the flit acknowledged stands in the replay buffer behind one that is not. -/
theorem witness_PortEvents_up (b : Bool) (p : List Byte) (hp : p.length = 240) :
    ∃ r, ((peers []).modPort 0 fun p => { p with announced := b }).receive 0 5 (mkFlit 5 0 0 9 0 p) = some r ∧ r.payload = p
      ∧ (r.s.port 0).announced = b ∧ (r.s.port 0).waiting = [] := by
  obtain ⟨r, h1, h2, h3, h4⟩ := received ((peers []).modPort 0 fun p => { p with announced := b }) 0 5 9 p (by decide) (by decide) hp rfl rfl
  exact ⟨r, h1, h3, by rw [h4]; rfl, by rw [h4]; rfl⟩

theorem witness_PortEvents_ack (p : List Byte) (hp : p.length = 240) :
    ∃ r, ((peers []).modPort 0 fun p => { p with replay := [(3, []), (4, [])] }).receive 0 4 (mkFlit 4 0 0 9 0 p) = some r ∧ r.payload = p
      ∧ (r.s.port 0).replay = [(3, [])] ++ (4, []) :: [] ∧ (r.s.port 0).waiting = []
      ∧ ∀ e ∈ [((3 : Nat), ([] : List Byte))], e.1 ≠ 4 := by
  obtain ⟨r, h1, h2, h3, h4⟩ :=
    received ((peers []).modPort 0 fun p => { p with replay := [(3, []), (4, [])] }) 0 4 9 p (by decide) (by decide) hp rfl rfl
  exact ⟨r, h1, h3, by rw [h4]; rfl, by rw [h4]; rfl, by decide⟩

/-- What announces buffers is none of the other messages. -/
theorem witness_PortEvents_other : (∀ v, controlPayload 2 0 0 0 0 ≠ controlPayload 1 v 0 0 0) ∧ controlPayload 1 0 0 0 0 ≠ controlPayload 2 0 0 0 0 := by
  have h2 : (controlPayload 2 0 0 0 0).head? = some 2 := rfl
  have h1 : ∀ v, (controlPayload 1 v 0 0 0).head? = some 1 := fun _ => rfl
  exact ⟨fun v h => absurd (h2.symm.trans ((congrArg List.head? h).trans (h1 v))) (by decide),
    fun h => absurd ((h1 0).symm.trans ((congrArg List.head? h).trans h2)) (by decide)⟩

/-- A flit that comes again (sequence number 0 where 1 is due), and one that is out of its place (2). -/
theorem witness_PortEvents_again (p : List Byte) (hp : p.length = 240) (n : Nat) (hn : n = 0 ∨ n = 2) :
    let s := (peers []).modPort 0 fun p => { p with rxSeq := 1 }
    let f := mkFlit 5 n 0 9 0 p
    let head := bytesNat f 0 8
    s.receive 0 5 f = none ∧ (s.port 0).down = false ∧ f.length = 256 ∧ head % 16 = 5 ∧ head / 2 ^ 44 = 0
      ∧ bytesNat f 248 8 = (crc64 (f.take 248)).toNat
      ∧ (n = 0 → ((s.port 0).rxSeq + 4096 - head / 16 % 4096) % 4096 = 1) ∧ (n = 2 → ((s.port 0).rxSeq + 4096 - head / 16 % 4096) % 4096 = 4095) := by
  intro s f head
  have hr : (s.port 0).rxSeq = 1 := rfl
  obtain ⟨h1, h2, h3, -⟩ := flit_read 5 n 9 p hp (by omega) (by decide) (by decide)
  have hh : head = 5 + 16 * n + 2 ^ 24 * 9 := h2
  refine ⟨?_, rfl, h1, by omega, by omega, h3, by omega, by omega⟩
  have e : (head / 16 % 4096 != (s.port 0).rxSeq) = true := by rw [hr, hh]; rcases hn with rfl | rfl <;> decide
  unfold State.receive
  simp only [show bytesNat f 0 8 = head from rfl, e]
  simp

/-- The last bytes of device memory that a line holds. -/
theorem witness_PortEvents_inbound :
    let s := peers []
    0x77FFFFFFFE % 128 + 2 ≤ 128 ∧ 0x77FFFFFFFE + 2 ≤ 0x7800000000 ∧ s.runInRanges 0 0x77FFFFFFFE 2 = true
      ∧ s.badSector (homeDie 0x77FFFFFFFE) 0x77FFFFFFFE 2 = none ∧ s.hostHolds 0x77FFFFFFFE = false := by
  decide +kernel

theorem witness_PortEvents_replies :
    let o : Req := { owner := .seq 0, port := 0, tag := 7, pa := peerBase + 5 * 2 ^ 40, len := 2, write := false }
    let s := peers [o]
    let w : Req := { o with write := true }
    ((peers [w]).openReq 0 7 = some w ∧ w.owner = .seq 0 ∧ w.write = true) ∧ s.launches = [] ∧ o.owner = .seq 0 ∧ o.write = false ∧ s.openReq 0 7 = some o ∧ s.openReq 0 8 = none
      ∧ regionOf o.pa = .peer 5 ∧ (s.peerEntry 5).getLsbD 0 = true ∧ fld (s.peerEntry 5) 19 10 = 9 := by
  decide +kernel

/-- A collective whose one member is this package's, ready, with one run of its receive buffer; and collective traffic. -/
theorem witness_PortEvents_collectives :
    let d : List Byte := [1, 0x25] ++ toBytes 2 2 ++ toBytes 2 0 ++ toBytes 2 0 ++ toBytes 4 7 ++ toBytes 4 1 ++ List.replicate 48 0
    let m : Member := { q := 0, launch := 0, slot := 0, serial := 1, rank := 0, desc := d, rtab := [0xFFFF, 5]
                        src := [1, 0, 0, 0], out := [(0x100, 4, 0x7FB)], inp := [(0x200, 4, 0x7FB)], old := [0, 0, 0, 0] }
    let c : Coll := { partition := 0, group := 7, number := 0, members := [m]
                      data := [{ package := 9, src := 1, dst := 0, op := 1, fmt := 0x25, first := 0, bytes := [2, 0, 0, 0] }] }
    let s : State := { coll [(0, { serial := 1 })] with colls := [c], mem := [(0x200, 1)] }
    (State.reset.collReady 0 = false ∧ s.collReady 0 = true ∧ s.colls[0]? = some c ∧ s.resultHeld c = none ∧ s.disturbed c = false
        ∧ c.results = some [(m, [3, 0, 0, 0])] ∧ m.out = [(0x100, 4, 0x7FB)] ∧ [(3 : Byte), 0, 0, 0].length = 4 ∧ s.moved = [] ∧ s.calm = true
        ∧ ∀ e ∈ s.launches, e.2.log = 0)
      ∧ ((s.launch? 0 m.launch).isNone = true ∧ (s.seq 0).live = true ∧ (s.seq 0).key = (0, 0)
        ∧ FMap.find? (s.seq 0).chandles 0 = some { serial := 1 }) := by
  decide +kernel

/-- The state after reset keeps the invariant of every step. -/
theorem witness_StepKeepsGood : State.reset.Good 2 := by unfold State.Good; decide +kernel

/-- A well-formed word and a well-formed convoy. -/
theorem witness_EncodeDecode :
    (Instr.aAdd 31 1 2).wf = true ∧ (Instr.aAdd 31 1 2).isWord = true
      ∧ (Instr.convoy [.int .vv .mul 31 4 5 0, .int .vv .add 6 31 7 0]).wf = true ∧ decodeWord 0x08611000 = some (.aAdd 3 1 2) := by
  decide +kernel

/-- The word add a3, a1, a2 at address 0 of a package with one sequencer and no internal event; then a convoy's first word, linked,
and one that is not. -/
theorem witness_StepRunsDecoded :
    let s : State := { one id with mem := writeBytes [] 0 (toBytes 4 0x08611000) }
    let c : State := { one id with mem := writeBytes [] 0 (toBytes 4 0x83F20000 ++ toBytes 4 0x73FF8802) }
    s.inputs = [] ∧ s.upsets = [] ∧ s.codeWaits 0 0 = false ∧ s.nextRunner = some 0 ∧ (s.seq 0).takesInt = false ∧ (s.seq 0).pc.n0 = false
      ∧ (s.fetchUnit 0 (s.seq 0).pc.q0).1 = [0x08611000] ∧ (s.fetchUnit 0 (s.seq 0).pc.q0).2.isNone = true
      ∧ decodeUnit [0x08611000] = .ok (.aAdd 3 1 2) ∧ s.blockedByAppend 0 (.aAdd 3 1 2) = false
      ∧ linkedWord 0x08611000 = false ∧ linkedWord 0x83F20000 = true
      ∧ (s.fetchWord 0 0).toOption = some 0x08611000 ∧ (c.fetchWord 0 0).toOption = some 0x83F20000
      ∧ (s.translate 0 0 0 0 4 .fetch).toOption.map Xlat.pa = some 0 ∧ s.badSector 0 0 4 = none
      ∧ (s.launch? 0 0).isNone = true := by
  decide +kernel

theorem witness_StepRunsDecoded_schedule :
    ({ one id with mem := writeBytes [] 0 (toBytes 4 0x08611000) } : State).internal.length
      ≤ Config.schedule 0 % (({ one id with mem := writeBytes [] 0 (toBytes 4 0x08611000) } : State).internal.length + 1) := by
  have h : ({ one id with mem := writeBytes [] 0 (toBytes 4 0x08611000) } : State).internal.length = 0 := by decide +kernel
  rw [h]; exact Nat.zero_le _

/-! ### Refusals: an ill-formed term for each check of WellFormed, and illegal words (R25) -/

theorem test_wf_refuses_words : ∀ i ∈ ([
    .kFence 0 1, .kFence 6 1, .kFence 1 0, .ld 1 2 .s8 true .plain 0, .st 1 2 .z8 false .plain 0, .st 1 2 .s8 true .plain 0,
    .j .ifNot 0, .jal .ifNot 0, .sfCvff 1 2 .f32, .vCmpeq false 8 1 2 0, .vsCmplt false 31 1 2 0, .viCmplez false 8 1 2 0,
    .vfCmplt false 8 1 2 0, .vfsCmple false 8 1 2 0, .vSel false 1 2 3 0, .vsSel false 1 2 3 0, .viSel false 1 2 3 0,
    .vcvHad false 1 2 10 0, .vpXchg false 1 2 10 0, .vpMand false 8 0 0, .vpMor false 0 8 0, .vpMxor false 0 0 8, .vpMnot false 0 8,
    .vpMpop false 1 8, .vpMffs false 1 8, .vpMfirst false 8 1, .vld false 1 2 3 0 .unit 0 .plain, .vld false 1 2 3 0 .index 1 .plain,
    .vst false 1 2 0 0 .ff 0 .plain, .vst false 1 2 3 0 .index 1 .plain, .vlkSc false 1 2 3 0, .mSt false 0, .mSt false 31, .mLd false 31,
    .mtMul 0 false 0 0 9 1, .mtMul 0 false 1 0 8 1, .mtMul 1 false 0 0 8 0, .mtMul 0 false 0 1 8 0, .cbSet 1 0, .cbArr 16, .cbWt 0,
    .cbArw 31, .cbSt 1 0, .pLd 31 1 2 0 0, .pLd 4 1 2 0 12, .pLds 31 1 2 0, .pLds 4 1 2 12, .pInfo 1 2 6, .hNop 0 0 0 1,
    .convoy []] : List Instr), i.wf = false := by decide +kernel

/-- A convoy of one word, of five, with a matrix word before its end, with a first-fault load behind its first word, with a word that
writes vz before mt.mul, with an illegal word, and with a field that its word does not name. -/
theorem test_wf_refuses_convoys :
    let w : CWord := .int .vv .add 4 1 2 0
    let z : CWord := .int .vv .add 31 1 2 0
    let ff : CWord := .load ⟨4, 1, 0, 0, .ff, 0, .plain⟩
    ∀ ws ∈ ([[w], [w, w, w, w, w], [.mzero false, w], [w, ff], [z, .mmul 0 false 0 0 8 1], [w, .int .vv .cmpeq 8 1 2 0],
      [w, .int .vv .clz 4 1 2 0]] : List (List CWord)), (Instr.convoy ws).wf = false := by decide +kernel

/-- Reserved majors and function codes, fields that must be zero, and illegal values. -/
theorem test_decode_refuses : ∀ w ∈ ([
    0xFFFFFFFF, 0xFC000000, 0x44000000, 0x00000000, 0x0000000C, 0x00200001, 0x04004001 + 0x10000 * 3 + 0x8000, 0x0801E040, 0x0800001C,
    0x0801181A, 0x0C24A040, 0x1000181A, 0x1C00E000, 0x20008000, 0x281BB91D, 0x28000800 + 0x1000, 0x2C004000, 0x31000000, 0x3C180005,
    0x40220400, 0x4022000E, 0x60521802, 0x62521800, 0x64000024, 0x68000014, 0x70000015, 0x74000020, 0x78000006, 0x7C00001C, 0x80002060, 0x88000001,
    0x8C000009, 0xA000000B, 0xA4000008, 0xC1800000, 0xC4000800 + 5, 0xD0000060, 0xE0000003, 0xF0000002] : List Nat),
    decodeTableWord 32 w = none := by decide +kernel

/-- Every coded value of R30. -/
theorem test_decode_codes : ∀ r ∈ ([
    (0x1C220000, .ld 1 2 .s8 false .plain 0), (0x1C222000, .ld 1 2 .s16 false .plain 0), (0x1C226000, .ld 1 2 .w64 false .plain 0),
    (0x1C228000, .ld 1 2 .z8 false .plain 0), (0x1C22A000, .ld 1 2 .z16 false .plain 0), (0x1C22C000, .ld 1 2 .z32 false .plain 0),
    (0x1C021000, .ld 0 2 .s8 true .plain 0), (0x1C220400, .ld 1 2 .s8 false .sync 0), (0x1C220800, .ld 1 2 .s8 false .strong 0),
    (0x40220000, .sfAdd 1 2 0 .h), (0x40220100, .sfAdd 1 2 0 .bf), (0x40220200, .sfAdd 1 2 0 .f32),
    (0x28221000, .bEq 1 2 .ifTaken 0), (0x08220000 + 0x1A, .aSext 1 2 .b8), (0x0822101B, .aZext 1 2 .b32),
    (0x80110060, .vld false 1 2 0 0 .ff 0 .plain), (0xFB9FC7FF, .hNop 28 31 24 0x7FF)] : List (Nat × Instr)),
    decodeTableWord 32 r.1 = some r.2 := by decide +kernel

/-- The convoy of R36. -/
theorem test_decode_convoy : decodeUnit [0x83F20000, 0x73FF8802, 0x85F28000]
    = .ok (.convoy [.load ⟨31, 4, 0, 0, .unit, 0, .plain⟩, .fp false .mul 31 31 2 0, .store ⟨31, 5, 0, 0, .unit, 0, .plain⟩]) := by
  decide +kernel

/-! ### Single steps; the results are those of the spec's examples and tables, or by hand from its rules -/

/-- R115's example. -/
theorem test_hash64 : hash64 5 0x61C8864680B583EB = 0xE81170A01F7EDCAD := by decide +kernel

/-- The example of R113: the reciprocal estimate of 3.0 in binary32. -/
theorem test_rcpe : (fpRcpe (.ieee .f32) (FCtl.of 0) 0x40400000).1 = 0x3EAA0000 := by decide +kernel

/-- The first rows of the two traces of R124. -/
theorem test_branch_taken :
    let s := after (.bEq 1 0 .ifNot 4) (one fun x => { x with pc := { q0 := 0x1000, q1 := 0x1004, q2 := 0x1008 } })
    (s.seq 0).pc.q0 = 0x1004 ∧ (s.seq 0).pc.q1 = 0x1008 ∧ (s.seq 0).pc.q2 = 0x1010 ∧ (s.seq 0).pc.n0 = false ∧ (s.seq 0).pc.n1 = false := by
  decide +kernel

theorem test_branch_annuls :
    let s := after (.bEq 1 0 .ifNot 4) (one fun x => { x with a := [(1, 1)], pc := { q0 := 0x1000, q1 := 0x1004, q2 := 0x1008 } })
    (s.seq 0).pc.q0 = 0x1004 ∧ (s.seq 0).pc.q1 = 0x1008 ∧ (s.seq 0).pc.q2 = 0x100C ∧ (s.seq 0).pc.n0 = true ∧ (s.seq 0).pc.n1 = true := by
  decide +kernel

/-- The edge cases of R93: division by zero, and of the most negative number by -1. -/
theorem test_division :
    let s := one fun x => { x with a := [(1, 0x8000000000000000), (2, 0xFFFFFFFFFFFFFFFF)] }
    ((after (.aDiv 3 1 0) s).seq 0).getA 3 = 0xFFFFFFFFFFFFFFFF ∧ ((after (.aRem 3 1 0) s).seq 0).getA 3 = 0x8000000000000000
      ∧ ((after (.aDiv 3 1 2) s).seq 0).getA 3 = 0x8000000000000000 ∧ ((after (.aRem 3 1 2) s).seq 0).getA 3 = 0 := by
  decide +kernel

theorem test_add_wraps :
    let s := one fun x => { x with a := [(1, 0xFFFFFFFFFFFFFFFF)], s := [(1, 0x7FFFFFFF), (2, 1)] }
    ((after (.aiAdd 1 1 1) s).seq 0).getA 1 = 0 ∧ ((after (.sAddw 3 1 2) s).seq 0).getS 3 = 0xFFFFFFFF80000000 := by
  decide +kernel

theorem test_ins_quarter :
    ((after (.ins 3 false 1 0x0040) (one fun x => { x with a := [(3, 0xFFFF1000)] })).seq 0).getA 3 = 0x401000 := by decide +kernel

/-- A byte stored and read back with its sign before its home has it; a misaligned load traps with aside. -/
theorem test_store_forwards :
    let s := after (.st 2 1 .s8 false .plain 0) (one fun x => { x with a := [(1, 0x100), (2, 0x1F0)] })
    ((after (.ld 3 1 .s8 false .plain 0) s).seq 0).getA 3 = 0xFFFFFFFFFFFFFFF0 ∧ FMap.get 0 s.mem 0x100 = 0 := by decide +kernel

theorem test_load_misaligned :
    let s := after (.ld 3 1 .w64 false .plain 4) (vec id)
    (s.seq 0).pc.q0 = 0x2000 ∧ (s.seq 0).tr.tcause = 0x10003 ∧ (s.seq 0).tr.tval = 0x104 ∧ (s.seq 0).tr.eapc = 0 ∧ (s.seq 0).getA 3 = 0 := by
  decide +kernel

/-- k.trap completes: EPC0 is the unit after it, TVAL its code. k.eret returns there. -/
theorem test_trap_and_return :
    let s := after (.kTrap 20) (one fun x => { x with pc := { q0 := 0x40, q1 := 0x44, q2 := 0x48 } })
    let t := after .kEret s
    ((s.seq 0).tr.tcause = 15 ∧ (s.seq 0).tr.tval = 20 ∧ (s.seq 0).tr.epc0 = 0x44 ∧ (s.seq 0).tr.inTrap = true)
      ∧ (t.seq 0).pc.q0 = 0x44 ∧ (t.seq 0).tr.inTrap = false := by
  decide +kernel

/-- vc.setvl s5, s4, s6 of the example of R205. -/
theorem test_setvl :
    let s := after (.vcSetvl 5 4 6) (one fun x => { x with grant := 1, s := [(4, 8), (6, 0x84000442)] })
    (s.seq 0).csr.vl = 8 ∧ (s.seq 0).csr.vtype = 0x84000442 ∧ (s.seq 0).getS 5 = 8 := by
  decide +kernel

/-- The other two lines of that example, as one convoy: a Hadamard stage chained into a saturating conversion to f8p4. -/
theorem test_hadamard_convoy :
    let v : List Nat := [0x3F800000, 0x40400000, 0x40000000, 0xC0000000, 0x42C80000, 0x43200000, 0x3E800000, 0x3E800000]
    let s : State :=
      { one (fun x => { x with grant := 1, csr := { x.csr with vtype := 0x84000442, vl := 8 } }) with
        cores := [(0, (List.range 8).foldl (fun (k : Core) i => k.setElem 0 4 32 i (v.getD i 0)) {})] }
    let t := after (.convoy [.had 31 4 0 0, .cvt true 8 31 0]) s
    (List.range 9).map (fun i => (t.core 0).elem 0 8 8 i) = [0x50, 0xC8, 0x00, 0x50, 0x7F, 0xEF, 0x38, 0x00, 0x00]
      ∧ FMap.get 0 (t.core 0).laneFlags 4 = fSAT ∧ FMap.get 0 (t.core 0).laneFlags 3 = 0 := by
  decide +kernel

/-- The example of R211. -/
theorem test_compress :
    let s : State :=
      { one (fun x => { x with grant := 1, csr := { x.csr with vtype := 0x424, vl := 6 } }) with
        cores := [(0, { (List.range 6).foldl (fun (k : Core) i => k.setElem 0 4 16 i (10 + i)) ({} : Core) with mask := [(3, 0x1A)] })] }
    (List.range 4).map (fun i => ((after (.vpCmpr false 12 4 3) s).core 0).elem 0 12 16 i) = [11, 13, 14, 0]
      ∧ ((after (.vpMpop false 6 3) s).seq 0).getS 6 = 3 := by
  decide +kernel

/-- A shift count uses the low bits of its immediate: by 20 on 8-bit elements shifts by 4 (R194). -/
theorem test_vi_shift :
    let s : State :=
      { one (fun x => { x with grant := 1, csr := { x.csr with vtype := 0x3, vl := 2 } }) with
        cores := [(0, ({} : Core).setElem 0 1 8 1 0x11)] }
    ((after (.viShl false 1 1 20 0) s).core 0).elem 0 1 8 1 = 0x10 := by decide +kernel

theorem test_vector_adds :
    let s := vec id
    ((after (.vsAdd false 3 4 1 0) s).core 0).elem 0 3 32 7 = 2 ∧ ((after (.vsAdd false 3 4 1 0) s).core 0).elem 0 3 32 8 = 0
      ∧ ((after (.viCmpltz false 2 4 1 0) s).core 0).maskBit 0 2 7 = true
      ∧ ((after (.vpRsum false 5 4 1 0) s).seq 0).getS 5 = 2 := by
  decide +kernel

/-- A word stored to the scratchpad is there at once; the lanes' loads read it. -/
theorem test_vector_memory :
    let s : State := vec fun x => { x with a := [(1, 0xFFFFFF0000000000)] }
    let t := after (.vst false 3 1 0 0 .unit 0 .plain) (after (.vsAdd false 3 4 1 0) s)
    (t.pad 0).read 0 0 28 4 = [2, 0, 0, 0] ∧ (t.pad 0).read 0 0 32 4 = [0, 0, 0, 0]
      ∧ ((after (.vld false 6 1 0 0 .unit 0 .plain) t).core 0).elem 0 6 32 7 = 2 := by
  decide +kernel

/-- The conditional store succeeds while the tag is held, and once. -/
theorem test_linked_pair :
    let s := after (.lkLl 4 1) (vec id)
    let t := after (.lkSc 5 1 1) s
    ((t.seq 0).getA 5 = 0 ∧ FMap.get 0 t.mem 0x101 = 1) ∧ ((after (.lkSc 5 1 1) t).seq 0).getA 5 = 1 := by
  decide +kernel

/-- cb.st of the example of R283, on the barrier that the failed gather leaves. -/
theorem test_barrier_status :
    let s := (one id).modPad 0 fun p => { p with barrier := [(5, { target := 4, count := 0, phase := true, error := true, last := 2 })] }
    ((after (.cbSt 11 5) s).seq 0).getS 11 = 0x0000000B00000004 := by decide +kernel

/-- One arrival of one completes a phase. -/
theorem test_barrier_arrives :
    let s := after (.cbArr 5) ((one id).modPad 0 fun p => { p with barrier := [(5, { target := 1 })] })
    (s.barrier 0 5).phase = true ∧ (s.barrier 0 5).last = 1 ∧ (s.barrier 0 5).count = 0 := by decide +kernel

/-- A rank-one update, the product and sum in binary32: 2 times 3. -/
theorem test_rank_one :
    let s := (matrix id).modCore 0 fun k => (k.setElem 0 4 32 0 0x40000000).setElem 0 5 32 0 0x40400000
    ((after (.mOpa false 4 5) s).core 0).accElem false 0 0 = 0x40C00000 ∧ ((after (.mOpa false 4 5) s).core 0).accElem true 0 0 = 0 := by
  decide +kernel

/-- A matrix word without matrix mode is cause 23. -/
theorem test_matrix_needs_mode : ((after (.mZero false) (one id)).seq 0).tr.tcause = 23 := by decide +kernel

/-- A rewrite of a CSR returns its old value; an undefined CSR number is cause 1. -/
theorem test_csr :
    let s := after (.kcRw 4 1 0x10F) (vec id)
    ((s.seq 0).tr.tcmp = 2 ∧ (s.seq 0).getS 4 = 0) ∧ ((after (.kcR 4 0x007) (vec id)).seq 0).tr.tcause = 1 := by
  decide +kernel

/-- The ninth entry of bq, and a pop of an empty queue, are cause 1. -/
theorem test_queues :
    let s := one fun x => { x with qs := { x.qs with bq := List.replicate 8 true } }
    ((after (.sBqeq 0 0) s).seq 0).tr.tcause = 1 ∧ ((after (.xAfroms 3) (one id)).seq 0).tr.tcause = 1 := by
  decide +kernel

/-- A stream's first item gets time 0, the next time 1 (R351, R359): the block is sent, then its home assigns the times. -/
theorem test_append :
    let s := after (.pyramidAssign 0) (after (.pApp 4 2 6 0) (streams 1 bound id))
    (s.seq 0).getS 6 = 1 ∧ s.streamCount 0x1000 = 9 := by decide +kernel

/-- A word that no major has enters the handler with cause 1, its own word as TVAL (R25, R128). -/
theorem test_step_illegal :
    let s : State := { one id with mem := writeBytes [] 0 (toBytes 4 0xFC000000) }
    (match step s with | .next t => (t.seq 0).tr.tcause == 1 && (t.seq 0).tr.tval == 0xFC000000 && (t.seq 0).pc.q0 == 0x2000 | _ => false) = true := by
  decide +kernel

/-- A word at the program counter runs in a step. -/
theorem test_step_runs :
    let s : State := { vec (fun x => x) with mem := writeBytes [] 0 (toBytes 4 0x08611000) }
    (match step s with | .next t => (t.seq 0).getA 3 == 0x100 && (t.seq 0).pc.q0 == 0 | _ => false) = true := by
  decide +kernel

/-- A register write of the management cores outside every region is a bus error; a host's is discarded (R316). -/
theorem test_bus_error :
    (match exec (.registerWrite 0x7800000000 1 true) State.reset with | .fault _ => true | _ => false) = true
      ∧ (match exec (.registerWrite 0x7800000000 1 false) State.reset with | .fault _ => false | _ => true) = true := by
  decide +kernel

/-- A doorbell rings every sequencer of the launch, and a lost link is lost to both dies. -/
theorem test_events :
    ((after (.doorbellWrite 0 0) (one id)).seq 0).tr.dbpend = true ∧ ((after .d2dLinkLost State.reset).die 1).linkLost = true := by
  decide +kernel

/-- A journal starts at sequence number 1, which its host register reads as; a write-only register reads as zero (R374, R5). -/
theorem test_register_reads :
    State.reset.readRegister 0xF000004000148 false = some 1
      ∧ (State.reset.modPart 0 fun b => { b with dbgLaunch := 7 }).readRegister 0xF000002000000 false = some 7
      ∧ State.reset.readRegister 0xF000002000018 false = some 0 := by
  decide +kernel

end Sys2Proof.Tests
end

section
/-!
PROOFS. The integer words with an immediate and `ins` (R140, R142), and the branches of major b (R149).
-/

namespace Sys2Proof.Machine

open Sys2Proof Sys2Proof.Laws

/-! ### The number of a word -/

/-- The encoder drops no bit of a single word (R24). -/
theorem encodeWord_toNat {i : Instr} (hf : Fields.Statement i) (hw : i.isWord = true) : i.encodeWord.toNat = i.encodeNat := by
  rw [Instr.encodeWord, BitVec.toNat_ofNat]
  exact Nat.mod_eq_of_lt (hf hw)

/-! ### The functions of the integer ALU (R31, R140) -/

theorem aluSlt_eq (x y : Word) : aluSlt x y = if x.toInt < y.toInt then 1 else 0 := by
  simp only [aluSlt, bit, BitVec.slt, decide_eq_true_eq]

theorem aluSltz_eq (x y : Word) : aluSltz x y = if x.toNat < y.toNat then 1 else 0 := by
  simp only [aluSltz, bit, BitVec.ult, decide_eq_true_eq]

/-- A shift amount of six bits is below 64, so the ALU takes all of it. -/
theorem shiftAmount_toNat (c : BitVec 6) : (c.zeroExtend 64).toNat % 64 = c.toNat := by
  rw [BitVec.toNat_setWidth]
  omega

theorem aluShl_imm (x : Word) (c : BitVec 6) : aluShl x (c.zeroExtend 64) = x <<< c.toNat := by
  rw [aluShl, shiftAmount_toNat]

theorem aluShr_imm (x : Word) (c : BitVec 6) : aluShr x (c.zeroExtend 64) = x >>> c.toNat := by
  rw [aluShr, shiftAmount_toNat]

theorem aluSra_imm (x : Word) (c : BitVec 6) : aluSra x (c.zeroExtend 64) = x.sshiftRight c.toNat := by
  rw [aluSra, shiftAmount_toNat]

/-! ### Words that write one register -/

theorem aluA1_did (f : Word → Word) (d a : Reg) (s : State) :
    ∃ t, aluA1 f d a s = .next t ∧ s.Did t fun x => x.setA d (f (x.getA a)) :=
  seqUnit_did s _ (Seq.setA_pc ..) (by rw [Seq.setA_csr]) (Seq.setA_cur ..)

theorem aluS1_did (f : Word → Word) (d a : Reg) (s : State) :
    ∃ t, aluS1 f d a s = .next t ∧ s.Did t fun x => x.setS d (f (x.getS a)) :=
  seqUnit_did s _ (Seq.setS_pc ..) (by rw [Seq.setS_csr]) (Seq.setS_cur ..)

/-- A word of each register file whose arm of `exec` runs the ALU function `f` over one register, where `f` is the function `g` of
the rule. -/
theorem aluPair_did {i j : Instr} {s : State} (f : Word → Word) {g : Word → Word} {d a : Reg} (hi : exec i s = aluA1 f d a s)
    (hj : exec j s = aluS1 f d a s) (hg : ∀ x, f x = g x) :
    (∃ t, exec i s = .next t ∧ s.Did t fun x => x.setA d (g (x.getA a)))
      ∧ (∃ t, exec j s = .next t ∧ s.Did t fun x => x.setS d (g (x.getS a))) := by
  obtain rfl : f = g := funext hg
  rw [hi, hj]
  exact ⟨aluA1_did f d a s, aluS1_did f d a s⟩

/-! ### `ins` (R142) -/

/-- The mask of one quarter. -/
theorem getLsbD_quarterMask (k : Nat) : (0xFFFF : Word).getLsbD k = decide (k < 16) := by
  have h : (0xFFFF : Word) = (BitVec.allOnes 16).setWidth 64 := by decide
  rw [h, BitVec.getLsbD_setWidth, BitVec.getLsbD_allOnes, ← Bool.decide_and, decide_eq_decide]
  omega

/-- Bit `k` of a register after the replacement: from the immediate within quarter `q`, else from the register. -/
theorem getLsbD_insQuarter (x : Word) (q : BitVec 2) (i : BitVec 16) {k : Nat} (hk : k < 64) :
    (insQuarter x q i).getLsbD k = if k / 16 = q.toNat then i.getLsbD (k % 16) else x.getLsbD k := by
  simp only [insQuarter, BitVec.getLsbD_or, BitVec.getLsbD_and, BitVec.getLsbD_not, BitVec.getLsbD_shiftLeft,
    BitVec.getLsbD_setWidth, getLsbD_quarterMask, hk]
  generalize q.toNat = n
  rcases Nat.lt_trichotomy (k / 16) n with h | h | h
  · have below : k < 16 * n := by omega
    rw [if_neg (Nat.ne_of_lt h)]
    simp only [below, decide_true, Bool.not_true, Bool.not_false, Bool.and_true, Bool.false_and, Bool.and_false,
      Bool.or_false]
  · have within : ¬ k < 16 * n ∧ k - 16 * n = k % 16 := by omega
    have low : k % 16 < 16 ∧ k % 16 < 64 := by omega
    rw [if_pos h]
    simp only [within, low, decide_true, decide_false, Bool.not_true, Bool.not_false, Bool.true_and, Bool.and_false, Bool.false_or]
  · have above : ¬ k < 16 * n ∧ ¬ k - 16 * n < 16 := by omega
    have beyond : i.getLsbD (k - 16 * n) = false := BitVec.getLsbD_of_ge i _ (by omega)
    rw [if_neg (Nat.ne_of_gt h)]
    simp only [above, beyond, decide_true, decide_false, Bool.not_false, Bool.and_true, Bool.and_false, Bool.or_false]

/-- What every unit changes besides its effect leaves the registers as they are. -/
theorem Seq.Kept.getA {x y : Seq} (h : x.Kept y) (r : Reg) : y.getA r = x.getA r := by
  rw [h]; rfl

theorem Seq.Kept.getS {x y : Seq} (h : x.Kept y) (r : Reg) : y.getS r = x.getS r := by
  rw [h]; rfl

theorem State.Did.getA {s t : State} {f : Seq → Seq} (h : s.Did t f) (r : Reg) :
    (t.seq s.turn).getA r = (f (s.seq s.turn)).getA r := by
  obtain ⟨-, -, hk⟩ := h
  exact hk.getA r

theorem State.Did.getS {s t : State} {f : Seq → Seq} (h : s.Did t f) (r : Reg) :
    (t.seq s.turn).getS r = (f (s.seq s.turn)).getS r := by
  obtain ⟨-, -, hk⟩ := h
  exact hk.getS r

/-- Only what `f` makes of the unit's sequencer matters. -/
theorem State.Did.congr {s t : State} {f g : Seq → Seq} (h : s.Did t f) (e : f (s.seq s.turn) = g (s.seq s.turn)) : s.Did t g := by
  obtain ⟨hq, ho, hk⟩ := h
  exact ⟨hq, ho, e ▸ hk⟩

/-- Writing to a register what it reads after a write is that write; register 0 discards both. -/
theorem Seq.setA_getA_setA (x : Seq) (d : Reg) (v : Word) : x.setA d ((x.setA d v).getA d) = x.setA d v := by
  by_cases hd : d = 0
  · rw [hd]; rfl
  · rw [Seq.getA_setA, if_pos ⟨rfl, hd⟩]

theorem Seq.setS_getS_setS (x : Seq) (d : Reg) (v : Word) : x.setS d ((x.setS d v).getS d) = x.setS d v := by
  by_cases hd : d = 0
  · rw [hd]; rfl
  · rw [Seq.getS_setS, if_pos ⟨rfl, hd⟩]

/-- `ins` on the side of the a-registers. -/
theorem ins_did_a (s : State) (d : Reg) (q : BitVec 2) (i : BitVec 16) :
    ∃ t, exec (.ins d false q i) s = .next t ∧ s.Did t (fun x => x.setA d ((t.seq s.turn).getA d))
      ∧ ∀ k : Nat, k < 64 → d ≠ 0 → ((t.seq s.turn).getA d).getLsbD k
          = if k / 16 = q.toNat then i.getLsbD (k % 16) else ((s.seq s.turn).getA d).getLsbD k := by
  obtain ⟨t, ht, hd⟩ := aluA1_did (fun v => insQuarter v q i) d d s
  have hr := hd.getA d
  refine ⟨t, ht, hd.congr ?_, fun k hk h0 => ?_⟩
  · rw [hr, Seq.setA_getA_setA]
  · rw [hr, Seq.getA_setA, if_pos ⟨rfl, h0⟩, getLsbD_insQuarter _ q i hk]

/-- `ins` on the side of the s-registers. -/
theorem ins_did_s (s : State) (d : Reg) (q : BitVec 2) (i : BitVec 16) :
    ∃ t, exec (.ins d true q i) s = .next t ∧ s.Did t (fun x => x.setS d ((t.seq s.turn).getS d))
      ∧ ∀ k : Nat, k < 64 → d ≠ 0 → ((t.seq s.turn).getS d).getLsbD k
          = if k / 16 = q.toNat then i.getLsbD (k % 16) else ((s.seq s.turn).getS d).getLsbD k := by
  obtain ⟨t, ht, hd⟩ := aluS1_did (fun v => insQuarter v q i) d d s
  have hr := hd.getS d
  refine ⟨t, ht, hd.congr ?_, fun k hk h0 => ?_⟩
  · rw [hr, Seq.setS_getS_setS]
  · rw [hr, Seq.getS_setS, if_pos ⟨rfl, h0⟩, getLsbD_insQuarter _ q i hk]

theorem ins_encodeWord (d : Reg) (side : Bool) (q : BitVec 2) (i : BitVec 16) : (Instr.encodeWord (.ins d side q i)).toNat
    = 0x06 * 2 ^ 26 + d.toNat * 2 ^ 21 + side.toNat * 2 ^ 20 + q.toNat * 2 ^ 18 + i.toNat :=
  encodeWord_toNat (Fields.ins d side q i) rfl

/-- Settles O3: each immediate word is one ALU function of the rule over one register, and `ins` writes what `insQuarter` makes bit by
bit. -/
theorem immediateAlu : Obligations.ImmediateAlu := by
  refine ⟨fun s d a i => ⟨?_, fun c => ?_⟩, fun s d side q i => ?_, ins_encodeWord, by decide, by decide, by decide⟩
  · simp only [List.forall_mem_cons, List.not_mem_nil, false_implies, implies_true, and_true]
    exact ⟨aluPair_did (fun x => x + imm12 i) rfl rfl fun _ => rfl, aluPair_did (fun x => x &&& imm12 i) rfl rfl fun _ => rfl,
      aluPair_did (fun x => x ||| imm12 i) rfl rfl fun _ => rfl, aluPair_did (fun x => x ^^^ imm12 i) rfl rfl fun _ => rfl,
      aluPair_did (fun x => aluSlt x (imm12 i)) rfl rfl fun x => aluSlt_eq x _,
      aluPair_did (fun x => aluSltz x (imm12 i)) rfl rfl fun x => aluSltz_eq x _,
      aluPair_did (fun x => x * imm12 i) rfl rfl fun _ => rfl⟩
  · simp only [List.forall_mem_cons, List.not_mem_nil, false_implies, implies_true, and_true]
    exact ⟨aluPair_did (fun x => aluShl x (c.zeroExtend 64)) rfl rfl fun x => aluShl_imm x c,
      aluPair_did (fun x => aluShr x (c.zeroExtend 64)) rfl rfl fun x => aluShr_imm x c,
      aluPair_did (fun x => aluSra x (c.zeroExtend 64)) rfl rfl fun x => aluSra_imm x c⟩
  · cases side
    · exact ins_did_a s d q i
    · exact ins_did_s s d q i

/-! ### Branches of major b (R123, R149) -/

/-- R123: a branch annuls both slots where its nul field names the outcome. -/
def annuls (taken : Bool) (n : Nul) : Bool := if taken then n == .ifTaken else n == .ifNot

/-- The queue after a branch, for each outcome and each nul field. -/
theorem nextPc_branchMove (s : State) (q : Nat) (taken : Bool) (n : Nul) (goal : Word) :
    let x := s.seq q
    let y := s.nextPc q (branchMove taken n goal)
    y.q0 = x.pc.q1 ∧ y.q1 = x.pc.q2 ∧ y.q2 = (if taken then goal else s.succQ2 q) ∧ y.n0 = (annuls taken n || x.pc.n1)
      ∧ y.n1 = annuls taken n := by
  cases taken <;> cases n <;> exact ⟨rfl, rfl, rfl, rfl, rfl⟩

/-- A unit whose whole effect is a branch. -/
theorem finish_branch_didTo (s : State) (taken : Bool) (n : Nul) (goal : Word) :
    s.DidTo (State.finish s.turn (.done (s.issue s.turn) (branchMove taken n goal))) (fun x => x)
      (if taken then goal else s.succQ2 s.turn) (annuls taken n || (s.seq s.turn).pc.n1) (annuls taken n) := by
  obtain ⟨hpc, hunits⟩ := State.finish_done_queue (s := s) (q := s.turn) (branchMove taken n goal) (by rw [State.seq_issue])
    (by rw [State.seq_issue]) (s.issue_sameMap s.turn) (by rw [State.seq_issue])
  obtain ⟨h0, h1, h2, h3, h4⟩ := nextPc_branchMove s s.turn taken n goal
  refine ⟨⟨hpc ▸ h0, hpc ▸ h1, hpc ▸ h2, hpc ▸ h3, hpc ▸ h4, hunits⟩,
    ⟨State.finish_done_onlyCore _ (s.issue_onlyCore s.turn), ?_⟩, ?_⟩
  · rw [State.finish_done_core]
    exact s.core_issue s.turn
  · have hk := State.finish_done_kept (s.issue s.turn) s.turn (branchMove taken n goal)
    rwa [State.seq_issue] at hk

/-- R32: the displacement of a branch counts words. -/
theorem target11_eq (u : Word) (d : BitVec 11) : target11 u d = u + BitVec.ofInt 64 (4 * d.toInt) := by
  rw [BitVec.ofInt_mul]
  rfl

theorem branchB_didTo (f : Word → Word → Bool) (a b : Reg) (n : Nul) (d : BitVec 11) (s : State) :
    let x := s.seq s.turn
    let taken := f (x.getA a) (x.getA b)
    ∃ t, branchB f a b n d s = .next t
      ∧ s.DidTo t (fun x => x) (if taken then x.pc.q0 + BitVec.ofInt 64 (4 * d.toInt) else s.succQ2 s.turn)
          (annuls taken n || x.pc.n1) (annuls taken n) := by
  refine ⟨_, rfl, ?_⟩
  dsimp only
  rw [State.seq_issue, ← target11_eq]
  exact finish_branch_didTo s _ n _

/-- A word of major b with function field `k`: its fields, and the branch that it takes on the comparison `g` of the rule. -/
theorem branchWord {i : Instr} {s : State} {a b : Reg} {n : Nul} {d : BitVec 11} (k : Nat) (f : Word → Word → Bool)
    {g : Word → Word → Bool} (hs : Fields.Statement i) (hw : i.isWord = true)
    (hn : i.encodeNat = 0x0A * 2 ^ 26 + k * 2 ^ 13 + a.toNat * 2 ^ 21 + b.toNat * 2 ^ 16 + n.code * 2 ^ 11 + d.toNat)
    (he : exec i s = branchB f a b n d s) (hg : ∀ x y, f x y = g x y) :
    let x := s.seq s.turn
    let taken := g (x.getA a) (x.getA b)
    i.encodeWord.toNat = 0x0A * 2 ^ 26 + a.toNat * 2 ^ 21 + b.toNat * 2 ^ 16 + k * 2 ^ 13 + n.code * 2 ^ 11 + d.toNat
      ∧ ∃ t, exec i s = .next t
        ∧ s.DidTo t (fun x => x) (if taken then x.pc.q0 + BitVec.ofInt 64 (4 * d.toInt) else s.succQ2 s.turn)
            (annuls taken n || x.pc.n1) (annuls taken n) := by
  obtain rfl : f = g := funext fun x => funext (hg x)
  rw [he, encodeWord_toNat hs hw, hn]
  exact ⟨by omega, branchB_didTo f a b n d s⟩

theorem not_slt_eq (x y : Word) : (!x.slt y) = decide (y.toInt ≤ x.toInt) := by
  simp only [BitVec.slt, ← decide_not, Int.not_lt]

theorem not_ult_eq (x y : Word) : (!x.ult y) = decide (y.toNat ≤ x.toNat) := by
  simp only [BitVec.ult, ← decide_not, Nat.not_lt]

/-- Settles O6: each word of major b is `branchB` at its comparison. -/
theorem conditionalBranches : Obligations.ConditionalBranches := by
  intro s a b n d
  simp only [List.forall_mem_cons, List.not_mem_nil, false_implies, implies_true, and_true]
  exact ⟨branchWord 0 (fun x y => x == y) (Fields.bEq a b n d) rfl rfl rfl fun _ _ => rfl,
    branchWord 1 (fun x y => x != y) (Fields.bNe a b n d) rfl rfl rfl fun _ _ => decide_not.symm,
    branchWord 2 (fun x y => x.slt y) (Fields.bLt a b n d) rfl rfl rfl fun _ _ => rfl,
    branchWord 3 (fun x y => !x.slt y) (Fields.bGe a b n d) rfl rfl rfl not_slt_eq,
    branchWord 4 (fun x y => x.ult y) (Fields.bLtz a b n d) rfl rfl rfl fun _ _ => rfl,
    branchWord 5 (fun x y => !x.ult y) (Fields.bGez a b n d) rfl rfl rfl not_ult_eq⟩

end Sys2Proof.Machine
end
